-- ==== Sys2Proof/Word.lean ====
section
/-! DEFINITION. The word types of the KLW4120 and the pair used for things the part has two of. -/

namespace Sys2Proof

/-- A byte of memory, of a frame or of a receiver message. -/
abbrev Byte := BitVec 8

/-- A 48-bit Ethernet MAC address, its first octet the most significant. -/
abbrev MacAddr := BitVec 48

/-- One thing for each of the two ports or the two reference inputs. -/
structure Pair (α : Type) where
  a : α
  b : α
deriving DecidableEq, Repr

end Sys2Proof
end

