-- ==== Sys2Proof/Syntax.lean ====
section
/-! DEFINITION. The commands of the KLW4120: one constructor of `Instr` per row of spec/opcode_table.json, with
the operands a command brings from outside the part. Host stores into the exchange area come with the commands at
which the part reads memory (log 9); numeric order fields are as read from the slot, unchecked (R190). -/

namespace Sys2Proof

/-- The two Link Ports (ch. 4). -/
inductive Port where
  | a | b
deriving DecidableEq, Repr

/-- The two reference inputs REFA and REFB (ch. 2). -/
inductive RefInput where
  | a | b
deriving DecidableEq, Repr

/-- The blocks that act when a second boundary is reported (R6, R8). -/
inductive Block where
  | tbs | rfi | dsv | lnk | crs | rng | bcu | pou | evc
deriving DecidableEq, Repr

/-- How far through a tick an event lies: `num / den` of it (R7). -/
structure Fraction where
  num : Nat
  den : Nat
deriving DecidableEq, Repr

/-- Where an event at a pin or a link interface, or a stop bit, lies: in the tick in progress, or, when `late` and the tick just ended
applied a step, in that tick but taken after the step (R7). -/
structure Instant where
  frac : Fraction
  late : Bool
deriving DecidableEq, Repr

/-- The host's own stores into memory, in order, taken by the memory before the command that carries them (R193). -/
abbrev HostWrites := List Host.Cell

/-- A write on the bus slave port: the 32-bit value and the bytes it covers, lane n for bits 8n+7..8n (R191). -/
structure RegWrite where
  value : BitVec 32
  lanes : BitVec 4
deriving DecidableEq, Repr

/-- One character of a message line: its 8 bits, whether its stop bit was high, and where that stop bit lies (R23). -/
structure Character where
  bits : Byte
  framed : Bool
  stop : Instant
deriving DecidableEq, Repr

/-- The slot an order was taken from and the host cookie copied with it (R181). -/
structure OrderSrc where
  slot : Fin 32
  cookie : BitVec 16
deriving DecidableEq, Repr

/-- PORT-SETUP parameters (ch. 11.4, code 0x01). -/
structure PortSetupP where
  port : Byte
  enable : Byte
  reporting : Byte
  rate : Byte
  domain : Byte
  typeCode : BitVec 16
  station : MacAddr
deriving DecidableEq, Repr

/-- REF-SETUP parameters (code 0x02). -/
structure RefSetupP where
  input : Byte
  enable : Byte
  baud : Byte
  preference : Byte
  minWidth : BitVec 32
  longWidth : BitVec 16
  cableDelay : BitVec 32
deriving DecidableEq, Repr

/-- SERVO-SETUP parameters (code 0x04). -/
structure ServoSetupP where
  kpA : BitVec 4
  kiA : BitVec 4
  kpT : BitVec 4
  kiT : BitVec 4
  improveDwell : Byte
  stepThreshold : BitVec 32
  lockThreshold : BitVec 32
  phaseGate : BitVec 32
  drift : BitVec 16
  aging : BitVec 16
  holdoverLimit : BitVec 32
deriving DecidableEq, Repr

/-- STEP parameters (code 0x05); `delta` is signed, `epoch` the 48 bits read (R190). -/
structure StepP where
  targetKind : Byte
  delta : BitVec 64
  epoch : BitVec 48
deriving DecidableEq, Repr

/-- UTC-SETUP parameters (code 0x06); `direction` and `offset` are signed. -/
structure UtcSetupP where
  operation : Byte
  direction : Byte
  offset : BitVec 16
  leapEpoch : BitVec 48
deriving DecidableEq, Repr

/-- RANGING-SETUP parameters (code 0x0A). -/
structure RangingSetupP where
  launchLimit : Byte
  window : BitVec 16
  echoWait : BitVec 16
  ceiling : BitVec 32
deriving DecidableEq, Repr

/-- NOTICE-POST parameters (code 0x0B); `param` is the 6-byte mode parameter, `payload` the 16 payload bytes. -/
structure NoticePostP where
  index : BitVec 4
  mode : BitVec 4
  length : Byte
  param : BitVec 48
  payload : List Byte
deriving DecidableEq, Repr

/-- PULSE-PROGRAM parameters (code 0x0D): `at8` is the phase or the start nanoseconds, `at12` the width or short
width, `at16` the six bytes at offset 16 (start seconds; its low 32 bits are the period or the long width). -/
structure PulseProgramP where
  channel : Byte
  mode : Byte
  polarity : Byte
  gated : Byte
  markClass : Byte
  at8 : BitVec 32
  at12 : BitVec 32
  at16 : BitVec 48
deriving DecidableEq, Repr

/-- PULSE-ARM parameters (code 0x0E): the count, the 8 channel bytes and the start epoch. -/
structure PulseArmP where
  count : Byte
  channels : List Byte
  epoch : BitVec 48
deriving DecidableEq, Repr

/-- CAPTURE-SETUP parameters (code 0x11). -/
structure CaptureSetupP where
  input : Byte
  edge : Byte
  quiet : Byte
  slot : BitVec 16
  minWidth : BitVec 32
  wiringDelay : BitVec 32
deriving DecidableEq, Repr

/-- An order as copied from its slot (R181, ch. 11.4). -/
inductive Order where
  | portSetup (p : PortSetupP)
  | refSetup (p : RefSetupP)
  | setRef (mode : Byte)
  | servoSetup (p : ServoSetupP)
  | postStep (p : StepP)
  | utcSetup (p : UtcSetupP)
  | admitClient (client : BitVec 16)
  | reconfig (client : BitVec 16)
  | retire (client : BitVec 16)
  | rangingSetup (p : RangingSetupP)
  | noticePost (p : NoticePostP)
  | noticeWithdraw (index : Byte)
  | pulseProgram (p : PulseProgramP)
  | pulseArm (p : PulseArmP)
  | gateSetup (floor : Byte)
  | gateOpen
  | captureSetup (p : CaptureSetupP)
  | snapshot (view : Byte)
  | cancel (target : Byte) (cookie : BitVec 16)
  | unknown (code : Byte)
deriving DecidableEq, Repr

/-- The commands, in the order of spec/opcode_table.json. -/
inductive Instr where
  /-- FULL_RESET (R189); `landed` bytes of an access in progress had reached memory (log 12). -/
  | fullReset (landed : Nat)
  /-- SECOND_BOUNDARY (R6); `blocks` is the order in which the blocks take the report (log 6). -/
  | secondBoundary (blocks : List Block)
  /-- REF_PULSE_RISE (R20). -/
  | refPulseRise (input : RefInput) (at_ : Instant)
  /-- REF_PULSE_FALL (R35). -/
  | refPulseFall (input : RefInput) (at_ : Instant)
  /-- STUCK_DEADLINE (R22). -/
  | stuckDeadline (input : RefInput)
  /-- REF_MESSAGE (R23): a run of characters, one after another. -/
  | refMessage (input : RefInput) (chars : List Character)
  /-- MSG_GAP_EXPIRY (R23). -/
  | msgGapExpiry (input : RefInput)
  /-- LOSS_DEADLINE (R29). -/
  | lossDeadline (input : RefInput)
  /-- REVERT_DEADLINE (R32). -/
  | revertDeadline
  /-- LINK_STATUS_CHANGE (R61) to `level`. -/
  | linkStatusChange (port : Port) (level : Bool)
  /-- BEACON_POINT (R124). -/
  | beaconPoint (port : Port)
  /-- ARBITER_FREE (R68). -/
  | arbiterFree (port : Port)
  /-- TX_TIMESTAMP_POINT (R69). -/
  | txTimestampPoint (port : Port) (at_ : Instant)
  /-- WINDOW_OPENING (R102). -/
  | windowOpening (port : Port)
  /-- FRAME_RECEIVED (R70): the frame from its destination address to its check sequence. -/
  | frameReceived (port : Port) (bytes : List Byte)
  /-- HOLDOFF_EXPIRY (R73). -/
  | holdoffExpiry (port : Port)
  /-- EXCHANGE_EXPIRY (R107) of the exchange with this tag. -/
  | exchangeExpiry (port : Port) (tag : Byte)
  /-- PULSE_RISING_EDGE (R145) at device time `ns`, counted in nanoseconds since 0 s 0 ns. -/
  | pulseRisingEdge (channel : Fin 8) (ns : Nat)
  /-- PULSE_FALLING_EDGE (R145). -/
  | pulseFallingEdge (channel : Fin 8)
  /-- INHIBIT_ASSERT (R155). -/
  | inhibitAssert
  /-- CAPTURE_LINE_CHANGE (R161) to `level`. -/
  | captureLineChange (input : Fin 4) (level : Bool) (at_ : Instant)
  /-- CAPTURE_CONFIRMATION (R161). -/
  | captureConfirmation (input : Fin 4)
  /-- PORT_SETUP (R63). -/
  | portSetup (src : OrderSrc) (p : PortSetupP)
  /-- REF_SETUP (R19). -/
  | refSetup (src : OrderSrc) (p : RefSetupP)
  /-- SET_REF (R33). -/
  | setRef (src : OrderSrc) (mode : Byte)
  /-- SERVO_SETUP (R58). -/
  | servoSetup (src : OrderSrc) (p : ServoSetupP)
  /-- STEP (R10). -/
  | postStep (src : OrderSrc) (p : StepP)
  /-- UTC_SETUP (R14). -/
  | utcSetup (src : OrderSrc) (p : UtcSetupP)
  /-- ADMIT (R78) of client slot `client`; the configuration group is read at once. -/
  | admitClient (src : OrderSrc) (client : BitVec 16) (host : HostWrites)
  /-- RECONFIG (R80). -/
  | reconfig (src : OrderSrc) (client : BitVec 16) (host : HostWrites)
  /-- RETIRE (R82). -/
  | retire (src : OrderSrc) (client : BitVec 16)
  /-- RANGING_SETUP (R121). -/
  | rangingSetup (src : OrderSrc) (p : RangingSetupP)
  /-- NOTICE_POST (R138). -/
  | noticePost (src : OrderSrc) (p : NoticePostP)
  /-- NOTICE_WITHDRAW (R139). -/
  | noticeWithdraw (src : OrderSrc) (index : Byte)
  /-- PULSE_PROGRAM (R147). -/
  | pulseProgram (src : OrderSrc) (p : PulseProgramP)
  /-- PULSE_ARM (R150). -/
  | pulseArm (src : OrderSrc) (p : PulseArmP)
  /-- GATE_SETUP (R157). -/
  | gateSetup (src : OrderSrc) (floor : Byte)
  /-- GATE_OPEN (R156). -/
  | gateOpen (src : OrderSrc)
  /-- CAPTURE_SETUP (R159). -/
  | captureSetup (src : OrderSrc) (p : CaptureSetupP)
  /-- SNAPSHOT (R183). -/
  | snapshot (src : OrderSrc) (view : Byte)
  /-- CANCEL (R184). -/
  | cancel (src : OrderSrc) (target : Byte) (cookie : BitVec 16)
  /-- SWEEP_PERIOD_EXPIRY (R179). -/
  | sweepPeriodExpiry (host : HostWrites)
  /-- PENDING_SWEEP_START (R179). -/
  | pendingSweepStart (host : HostWrites)
  /-- BUS_ERROR (R177): the access in progress ends after `landed` of its bytes reached memory. -/
  | busError (landed : Nat)
  /-- HEADER_READ (R175). -/
  | headerRead (host : HostWrites)
  /-- XBASE_WRITE (R170), to XBASE_HI when `hi`. -/
  | xbaseWrite (hi : Bool) (w : RegWrite)
  /-- RUN_SET (R175): a write of XCTL whose RUN bit is 1. -/
  | runSet (w : RegWrite)
  /-- RUN_CLEAR (R176): a write of XCTL whose RUN bit is 0. -/
  | runClear (w : RegWrite)
  /-- HALT (R176). -/
  | halt
  /-- RESUME (R178): a write of XCTL whose RESUME bit is 1. -/
  | resume (w : RegWrite)
  /-- XRST (R188): a write of XCTL whose XRST bit is 1. -/
  | xrst (w : RegWrite)
  /-- EXCHANGE_RESET (R188). -/
  | exchangeReset
  /-- XNUDGE (R179). -/
  | xnudge (w : RegWrite) (host : HostWrites)
  /-- XSTAT_CLEAR (R172). -/
  | xstatClear (w : RegWrite)
  /-- XMASK_WRITE (R172). -/
  | xmaskWrite (w : RegWrite)
  /-- REGISTER_WRITE (R191) at a byte offset of the register window. -/
  | registerWrite (offset : Fin 32) (w : RegWrite)
  /-- OSCILLATOR_TICK (R1). -/
  | oscillatorTick
  /-- INHIBIT_DEASSERT (R155). -/
  | inhibitDeassert
  /-- RECEIVE_TIMESTAMP_POINT (R66). -/
  | receiveTimestampPoint (port : Port) (at_ : Instant)
  /-- MESSAGE_CHARACTER (R23). -/
  | messageCharacter (input : RefInput) (c : Character)
  /-- ACCESS_END (R173). -/
  | accessEnd (host : HostWrites)
deriving DecidableEq, Repr

end Sys2Proof
end

