-- ==== Sys2Proof/Decode.lean ====
section
/-! DEFINITION. Words and commands. -/

namespace Sys2Proof

/-- The command a word spells. No row of the table gives bits, so no word spells a command (log 2). -/
def decodeTableWord (_nbits _w : Nat) : Option Instr := none

end Sys2Proof
end

