-- ==== Sys2Proof/Config.lean ====
section
/-! DEFINITION. What the model fixes where the spec leaves it to the surroundings. The spec leaves no result of a
command undefined, so there is no free value here; what an event's surroundings decide is an operand of its command
(the order of blocks at a boundary, the bytes of an access that landed before a bus error). -/

namespace Sys2Proof.Config

/-- What a byte of system memory that nobody has written reads as. DESIGN CHOICE, unsafe (log 9). -/
def memoryFill : Byte := 0

/-- The order in which the blocks take a boundary's report where the command names none (R185 leaves it open).
DESIGN CHOICE, unsafe (log 6). -/
def blockOrder : List Block := [.tbs, .rfi, .dsv, .lnk, .crs, .rng, .bcu, .pou, .evc]

end Sys2Proof.Config
end

