-- ==== Sys2Proof/Machine/State.lean ====
section
/-! DEFINITION. The state of the KLW4120: everything the spec gives its ten blocks, the memory it shares with the
host, and the queue of waiting commands. Device times are counts of sixteenths of a nanosecond unless a field says
otherwise (R7). -/

namespace Sys2Proof.Machine

/-! ## Timebase (ch. 1) -/

/-- Device time: seconds (48 bits), nanoseconds (0..999,999,999), fraction in 2^-32 ns (32 bits) (ch. 1.1). -/
structure DeviceTime where
  sec : Nat
  ns : Nat
  frac : Nat
deriving DecidableEq, Repr

/-- The slew in progress, in fraction units (ch. 1.3, R4). -/
structure Slew where
  remaining : Int
  share : Int
  ticksLeft : Nat
deriving DecidableEq, Repr

/-- Who posted a step; a host step keeps its order's slot (ch. 1.5). -/
inductive StepOrigin where
  | host (slot : Nat)
  | servo
deriving DecidableEq, Repr

/-- A posted step: Δ in sixteenths, target epoch second (`none` for NEXT), origin (ch. 1.5). -/
structure PostedStep where
  delta : Int
  target : Option Nat
  origin : StepOrigin
deriving DecidableEq, Repr

/-- The pending leap: its epoch L and whether a second is inserted (+1) or deleted (−1) (R13). -/
structure Leap where
  epoch : Nat
  insert : Bool
deriving DecidableEq, Repr

/-- The tick of an applied step: the device time at its start, before the step, in fraction units, and Δ. From these an event of
that tick taken after the step has its stamp (R7, R30). The model's own (log 3). -/
structure StepTick where
  start : Nat
  delta : Int
deriving DecidableEq, Repr

/-- The Timebase (R17). `tickInc` is the increment the tick in progress began with (R3); `lastInc`, `stepTick` (none where it
applied no step) and `reachedFrom` (in fraction units) describe the last completed tick and are the model's own (log 3). -/
structure Timebase where
  time : DeviceTime
  phi : Int
  slew : Slew
  posted : Option PostedStep
  utcOffset : Int
  leap : Option Leap
  tickInc : Nat
  lastInc : Nat
  stepTick : Option StepTick
  reachedFrom : Nat
deriving DecidableEq, Repr

/-! ## Reference Intake (ch. 2) -/

inductive Baud where
  | b9600 | b19200 | b38400 | b115200
deriving DecidableEq, Repr

/-- Settings of one input (ch. 2.1): widths in ns and ms, cable delay in sixteenths. -/
structure RefSettings where
  enable : Bool
  baud : Baud
  minWidth : Nat
  longWidth : Nat
  cableDelay : Nat
deriving DecidableEq, Repr

/-- A reference pulse in progress (R20). -/
structure RefPulse where
  rise : Nat
  stuckAt : Nat
deriving DecidableEq, Repr

inductive FixStatus where
  | locked | coasting | noFix
deriving DecidableEq, Repr

inductive LeapFlags where
  | none | insert | delete
deriving DecidableEq, Repr

/-- A complete receiver message in the FIFO (R24). -/
structure RefMsg where
  label : Nat
  status : FixStatus
  accuracy : Nat
  utcOffset : Int
  leap : LeapFlags
  completed : Nat
deriving DecidableEq, Repr

/-- A message being assembled: its characters so far and the time of the last one (R23). -/
structure Assembly where
  chars : List Byte
  last : Nat
deriving DecidableEq, Repr

/-- Qualification states (R28). -/
inductive Qual where
  | disabled | absent | qualifying | qualified
deriving DecidableEq, Repr

/-- The five counters of an input (R37). -/
structure RefCounters where
  bad : Nat
  overrun : Nat
  stale : Nat
  misplaced : Nat
  stuck : Nat
deriving DecidableEq, Repr

/-- One reference input (R38). `assembly = none` is hunting; `line` is the level of the pulse pin. -/
structure RefIn where
  settings : RefSettings
  line : Bool
  pulse : Option RefPulse
  stuckEpisode : Bool
  assembly : Option Assembly
  fifo : List RefMsg
  interval : Option Nat
  labelMem : Option Nat
  qual : Qual
  goodRun : Nat
  nonGoodRun : Nat
  lossAt : Option Nat
  counters : RefCounters
deriving DecidableEq, Repr

/-- Selection mode; FORCE_A and FORCE_B (ch. 2.7). -/
inductive SelMode where
  | auto
  | force (input : RefInput)
deriving DecidableEq, Repr

/-- The Reference Intake (R38). -/
structure RefIntake where
  inputs : Pair RefIn
  mode : SelMode
  active : Option RefInput
  preference : RefInput
  revertAt : Option Nat
  disagreeRun : Nat
  disagreeFlag : Bool
deriving DecidableEq, Repr

inductive RefStateCause where
  | enable | disable | goodRun | nonGoodRun | loss | pulse
deriving DecidableEq, Repr

inductive RefChangeCause where
  | qualification | revert | order | forceLost | preference
deriving DecidableEq, Repr

/-- Width class of a classified pulse (R21). -/
inductive WidthClass where
  | good | degraded
deriving DecidableEq, Repr

/-! ## Discipline Servo (ch. 3) -/

inductive ServoState where
  | freerun | acquire | track | holdover
deriving DecidableEq, Repr

inductive ServoCause where
  | refActive | lock | label | gate | refLost | limit
deriving DecidableEq, Repr

/-- Servo settings (ch. 3.9). -/
structure ServoSettings where
  kpA : Nat
  kiA : Nat
  kpT : Nat
  kiT : Nat
  stepThreshold : Nat
  lockThreshold : Nat
  phaseGate : Nat
  drift : Nat
  aging : Nat
  holdoverLimit : Nat
  improveDwell : Nat
deriving DecidableEq, Repr

/-- The Discipline Servo (R60); histories oldest first. -/
structure Servo where
  state : ServoState
  stepOutstanding : Bool
  lockRun : Nat
  labelRun : Nat
  gateRun : Nat
  errHist : List Nat
  freqHist : List Int
  rcvEstimate : Nat
  eps : Nat
  holdSeconds : Nat
  cls : Nat
  dwell : Nat
  settings : ServoSettings
  labelCount : Nat
  gatedCount : Nat
deriving DecidableEq, Repr

/-! ## Link Ports (ch. 4) -/

inductive PortState where
  | disabled | down | up
deriving DecidableEq, Repr

/-- Port settings (ch. 4.2). -/
structure PortSettings where
  enable : Bool
  station : MacAddr
  typeCode : BitVec 16
  domain : Byte
  rate : Nat
  reporting : Bool
deriving DecidableEq, Repr

/-- What a frame being sent is: a Beacon, or the Range to the client of this slot with this exchange tag (R103). -/
inductive TxKind where
  | beacon
  | range (slot : Nat) (tag : Byte)
deriving DecidableEq, Repr

/-- A frame being sent: its bytes before the check sequence, and whether its timestamp point is passed (R62, R69). -/
structure TxFrame where
  kind : TxKind
  bytes : List Byte
  stamped : Bool
deriving DecidableEq, Repr

/-- The seven counters of a port (R74). -/
structure PortCounters where
  beacons : Nat
  ranges : Nat
  echoes : Nat
  stray : Nat
  hails : Nat
  foreign : Nat
  dropped : Nat
deriving DecidableEq, Repr

/-- One Link Port (R75). `link` is the link-status pin, `macError` the error indication to the PHY (R62), `rx` the
arrival stamp of the frame being received, `sent` the last frame as it left, check sequence included (R65, R67). -/
structure LinkPort where
  state : PortState
  link : Bool
  settings : PortSettings
  beaconReq : Bool
  rangeReq : Bool
  tx : Option TxFrame
  rx : Option Nat
  macError : Bool
  sent : List Byte
  holdoff : Option Nat
  counters : PortCounters
deriving DecidableEq, Repr

/-! ## Client Roster (ch. 5) and the path fields of Ranging (ch. 6) -/

inductive ClientKind where
  | relay | meter | mergingUnit | other
deriving DecidableEq, Repr

inductive Allowed where
  | a | b | both
deriving DecidableEq, Repr

/-- Per-port path settings of a client (ch. 5.1): asymmetry in sixteenths, delay gate in ns, filter shift. -/
structure PathConfig where
  asymmetry : Int
  gate : Nat
  shift : Nat
deriving DecidableEq, Repr

/-- The configuration copy (ch. 5.1). -/
structure ClientConfig where
  addr : MacAddr
  kind : ClientKind
  allowed : Allowed
  period : Nat
  offsetTol : Nat
  pulseTol : Nat
  capture : Option (Fin 4)
  announceThreshold : Nat
  announceAge : Nat
  path : Pair PathConfig
deriving DecidableEq, Repr

inductive ClientState where
  | vacant | admitted | following | astray | reverify | silent
deriving DecidableEq, Repr

inductive ClientCause where
  | admitted | reconfig | retire | path | verdict | step | echo
deriving DecidableEq, Repr

inductive Verdict where
  | none | pass | fail
deriving DecidableEq, Repr

/-- A verdict with its runs (R86). -/
structure Judged where
  verdict : Verdict
  within : Nat
  beyond : Nat
deriving DecidableEq, Repr

inductive SelfStatus where
  | following | free | unset
deriving DecidableEq, Repr

inductive PathState where
  | idle | seeding | valid | lost
deriving DecidableEq, Repr

/-- The path fields (R97); the outstanding entry is read from the port's table. -/
structure Path where
  state : PathState
  debt : Nat
  delay : Option Nat
  seeds : Nat
  outlierRun : Nat
  urgent : Bool
  lastExpired : Option Byte
  announcedDelay : Option Nat
  announcedAt : Option Nat
  accepted : Nat
  outliers : Nat
  rejects : Nat
  timeouts : Nat
  late : Nat
  clamps : Nat
deriving DecidableEq, Repr

/-- One client context (ch. 5.1). -/
structure Client where
  config : ClientConfig
  state : ClientState
  reverify : Bool
  offsetV : Judged
  pulseV : Judged
  offset : Option Int
  pulseError : Option Int
  selfStatus : Option SelfStatus
  lastHail : Option Nat
  paths : Pair Path
  version : Nat
deriving DecidableEq, Repr

/-- A newcomer (ch. 5.5). -/
structure Newcomer where
  addr : MacAddr
  heard : Nat
deriving DecidableEq, Repr

/-- The Client Roster (R95); `clients` holds the contexts of slots 0..255 in order. -/
structure Roster where
  clients : List Client
  newcomers : List Newcomer
  overflow : Nat
  queue : List Nat
deriving DecidableEq, Repr

/-- An outstanding exchange (R105); `t1` and `expiry` are absent while only reserved. -/
structure Exchange where
  tag : Byte
  slot : Nat
  t1 : Option Nat
  expiry : Option Nat
deriving DecidableEq, Repr

/-- Per-port state of the Ranging Engine (R122); the launch history oldest first. -/
structure RangePort where
  table : List Exchange
  history : List Nat
  tagCounter : Byte
  windowAt : Option Nat
deriving DecidableEq, Repr

/-- Ranging settings (ch. 6.7): launches, µs, µs, ns. -/
structure RangeSettings where
  limit : Nat
  window : Nat
  echoWait : Nat
  ceiling : Nat
deriving DecidableEq, Repr

/-- The Ranging Engine (R122). -/
structure Ranging where
  ports : Pair RangePort
  settings : RangeSettings
deriving DecidableEq, Repr

/-! ## Beacon Unit (ch. 7) -/

/-- A roll-call entry in a queue, with its carried mark (R130). -/
structure RollEntry where
  slot : Nat
  carried : Bool
deriving DecidableEq, Repr

/-- A roll-call entry of the Beacon in build: the D it carries (absent when its valid flag is clear), and whether
the client is still in the queue since the build (R132). -/
structure BuiltEntry where
  slot : Nat
  delay : Option Nat
  live : Bool
deriving DecidableEq, Repr

/-- A notice of the Beacon in build; `live` while the block it came from is still held (R135). -/
structure BuiltNotice where
  index : Nat
  live : Bool
deriving DecidableEq, Repr

/-- The Beacon in build (R128). -/
structure Built where
  entries : List BuiltEntry
  notices : List BuiltNotice
deriving DecidableEq, Repr

inductive NoticeMode where
  | once
  | every
  | nth (n : Nat)
  | until_ (epoch : Nat)
deriving DecidableEq, Repr

/-- An occupied notice block (R134). -/
structure Notice where
  mode : NoticeMode
  payload : List Byte
  owed : Pair Bool
  owedAtPost : Pair Bool
  wait : Pair Nat
  carried : Pair Bool
deriving DecidableEq, Repr

inductive NoticeCause where
  | sent | portDown | noneUp | epoch
deriving DecidableEq, Repr

/-- Per-port state of the Beacon Unit (head of ch. 7). -/
structure BeaconPort where
  next : Option Nat
  rate : Nat
  pendingRate : Option Nat
  seq : Nat
  roll : List RollEntry
  lastNotice : Option Nat
  built : Option Built
deriving DecidableEq, Repr

/-- The Beacon Unit; `notices` holds blocks 0..7, `none` for a free one. -/
structure BeaconUnit where
  ports : Pair BeaconPort
  notices : List (Option Notice)
  cls : Nat
deriving DecidableEq, Repr

/-! ## Pulse Output Unit (ch. 8) -/

inductive PulseMode where
  | off | second | train | single | mark
deriving DecidableEq, Repr

/-- A pulse schedule (ch. 8.1), times in ns; `longWidth` is the long width of MARK. -/
structure Schedule where
  mode : PulseMode
  idleHigh : Bool
  gated : Bool
  phase : Nat
  period : Nat
  width : Nat
  longWidth : Nat
  markClass : Nat
  start : Nat
deriving DecidableEq, Repr

inductive ChannelState where
  | off | ready | waiting | running
deriving DecidableEq, Repr

/-- A pending schedule with the slot of the PULSE-PROGRAM that wrote it (R147). -/
structure PendingSchedule where
  sched : Schedule
  slot : Nat
deriving DecidableEq, Repr

/-- One pulse channel (head of ch. 8). `runStart` is in sixteenths; `lastRise` and `fall` (the falling edge of the
pulse in progress) count ns; `arm` is the slot of the PULSE-ARM waited on; `placed` is the position 0..8 in its tick
at which the last edge was put on the output (R144). -/
structure Channel where
  state : ChannelState
  active : Schedule
  pending : Option PendingSchedule
  arm : Option Nat
  runStart : Option Nat
  lastRise : Option Nat
  fall : Option Nat
  placed : Option Nat
deriving DecidableEq, Repr

inductive GateCause where
  | cls | inhibit | floor
deriving DecidableEq, Repr

/-- The Pulse Output Unit; `inhibit` is the level of the output inhibit input. -/
structure PulseUnit where
  channels : List Channel
  gateOpen : Bool
  floor : Nat
  cls : Nat
  inhibit : Bool
deriving DecidableEq, Repr

/-! ## Event Capture Unit (ch. 9) -/

inductive EdgeSelect where
  | off | rising | falling | both
deriving DecidableEq, Repr

/-- A candidate edge (R161). -/
structure Candidate where
  stamp : Nat
  rising : Bool
  confirmAt : Nat
deriving DecidableEq, Repr

/-- A capture: stamp and direction. -/
structure Captured where
  stamp : Nat
  rising : Bool
deriving DecidableEq, Repr

/-- Why the next capture is left unjudged (ch. 9). -/
inductive FlagReason where
  | setup | step
deriving DecidableEq, Repr

/-- Outcome of a capture (R164, R165). -/
inductive CaptureOutcome where
  | within | beyond | setup | step | noClient | vacant | mismatch
deriving DecidableEq, Repr

/-- One capture input (head of ch. 9); `line` is the level of its pin. -/
structure CaptureIn where
  edge : EdgeSelect
  minWidth : Nat
  wiringDelay : Nat
  slot : Option Nat
  quiet : Bool
  line : Bool
  settled : Bool
  candidate : Option Candidate
  latest : Option Captured
  unjudged : Option FlagReason
  stepMark : Bool
  count : Nat
  withinCount : Nat
  beyondCount : Nat
  unjudgedCount : Nat
deriving DecidableEq, Repr

/-! ## Exchange Controller (ch. 10) -/

/-- The contents of a journal record, one constructor per kind (ch. 10.7, 11.6). -/
inductive JournalBody where
  | refState (input : RefInput) (prev new : Qual) (cause : RefStateCause) (counters : RefCounters)
  | refChange (prev new : Option RefInput) (mode : SelMode) (cause : RefChangeCause)
  | msgOverrun (input : RefInput) (label : Nat) (counters : RefCounters)
  | pulseStuck (input : RefInput) (rise : Nat) (counters : RefCounters)
  | utcDisagree (input : RefInput) (message timebase : Int) (leap : LeapFlags)
  | servoState (prev new : ServoState) (cause : ServoCause) (phi : Int) (eps labels gated : Nat)
  | classChange (prev new : Nat) (servo : ServoState) (eps : Nat)
  | stepApplied (origin : StepOrigin) (epoch : Nat) (delta : Int)
  | leapApplied (insert : Bool) (offset : Int) (epoch : Nat)
  | clientState (slot : Nat) (addr : MacAddr) (prev new : ClientState) (cause : ClientCause)
      (offsetV pulseV : Verdict) (pathA pathB : PathState)
  | pathValid (slot : Nat) (port : Port) (addr : MacAddr) (debt delay accepted outliers : Nat)
  | pathLost (slot : Nat) (port : Port) (addr : MacAddr) (delay : Option Nat) (timeouts rejects late : Nat)
  | pathStep (slot : Nat) (port : Port) (addr : MacAddr) (state : PathState) (oldDelay newDelay : Nat)
  | hail (port : Port) (addr : MacAddr) (kind : ClientKind) (period entries overflow : Nat)
  | foreignBeacon (port : Port) (addr : MacAddr) (cls servo : Byte) (seq : Nat) (count : Nat)
  | noticeDone (index : Nat) (mode : NoticeMode) (carried : Pair Bool) (cause : NoticeCause)
  | gateClosed (cause : GateCause) (cls floor : Nat) (inhibit : Bool) (cut : List Nat)
  | gateOpened (cls floor : Nat)
  | capture (input : Fin 4) (rising : Bool) (stamp : Nat) (interval : Option Nat) (count : Nat)
      (outcome : CaptureOutcome) (error : Option Int)
deriving DecidableEq, Repr

/-- A staged journal record (R185): its body, the LOSS_BEFORE flag and the device time of its handing. -/
structure JournalRecord where
  body : JournalBody
  lossBefore : Bool
  sec : Nat
  ns : Nat
deriving DecidableEq, Repr

/-- Result codes (ch. 10.6). -/
inductive ResultCode where
  | ok | adjusted | badField | unknown | busy | past | notQualified | occupied | vacant | duplicate | empty
  | qualityLow | inhibited | replaced | superseded | cancelled | tooLate | abandoned
deriving DecidableEq, Repr

/-- Whether an order is held or completed; a completion has its result, its 32 bytes of data (trailing zeros left
out), and whether it has been written (R181, R182). -/
inductive OrderStatus where
  | held
  | completed (result : ResultCode) (data : List Byte) (written : Bool)
deriving DecidableEq, Repr

/-- An entry of the order store (ch. 10.6). -/
structure StoreEntry where
  order : Order
  cookie : BitVec 16
  status : OrderStatus
deriving DecidableEq, Repr

/-- Exchange states (ch. 10.3). -/
inductive ExchangeState where
  | halted | starting | running | stalled
deriving DecidableEq, Repr

/-- The causes of XSTAT, or their enables in XMASK (R172). -/
structure Causes where
  order : Bool
  journal : Bool
  cls : Bool
  stall : Bool
  layout : Bool
deriving DecidableEq, Repr

/-- The three parts of a publication in their order: the odd version, the other fields, the even version (R93). -/
inductive PublishPart where
  | odd | fields | even
deriving DecidableEq, Repr

/-- An access in progress (R173). `publish` carries the part being written and the copy of the measurement fields taken
when it began (R92, R93). -/
inductive Access where
  | headerStart
  | takeSlot (slot : Nat)
  | readConfig (slot : Nat)
  | complete (slot : Nat)
  | publish (client : Nat) (part : PublishPart) (fields : List Byte)
  | headerHost
  | journal
  | headerPart
deriving DecidableEq, Repr

/-- Where a sweep stands: the held orders handed again before the first sweep (R175), then the steps of R180 with
the next slot to look at, or the number of records that may still be written. -/
inductive SweepStep where
  | retry (slot : Nat)
  | orders (slot : Nat)
  | completions (slot : Nat)
  | clients (left : Nat)
  | journal (left : Nat)
  | header
deriving DecidableEq, Repr

/-- The Exchange Controller (R189). `haltAsked` and `resetAsked` stand while a halt (R176) or an exchange reset
(R188) waits for the access in progress; `timer` counts oscillator ticks, and `timeUp` stands in the tick in which it has
run out, so that a nudge of that tick falls together with it (R179, log 33). -/
structure Controller where
  baseLo : BitVec 32
  baseHi : BitVec 32
  run : Bool
  causes : Causes
  mask : Causes
  state : ExchangeState
  haltAsked : Bool
  resetAsked : Bool
  store : List (Option StoreEntry)
  staging : List JournalRecord
  lossMark : Bool
  lost : Nat
  produced : Nat
  sweeps : Nat
  capacity : Option Nat
  consumed : Option Nat
  threshold : Option Nat
  period : Option Nat
  timer : Option Nat
  timeUp : Bool
  sweepPending : Bool
  sweep : Option SweepStep
  access : Option Access
deriving DecidableEq, Repr

/-! ## The whole part -/

/-- The state of the part, the memory it shares with the host, and the queue of waiting commands. -/
structure State where
  tbs : Timebase
  rfi : RefIntake
  dsv : Servo
  lnk : Pair LinkPort
  crs : Roster
  rng : Ranging
  bcu : BeaconUnit
  pou : PulseUnit
  evc : List CaptureIn
  xch : Controller
  mem : List Host.Cell
  pending : List Instr
deriving DecidableEq, Repr

/-- No event of the spec stops the part with a fault: a bus error has a stated effect (R177). No constructor. -/
inductive Fault where
deriving DecidableEq, Repr

/-- Why a command has no answer. -/
inductive Refusal where
  /-- Raised by `exec` for a command that has no meaning yet; safe. -/
  | notModelled (mnemonic : String)
deriving DecidableEq, Repr

/-- The answer of a command's meaning. -/
abbrev Result := Host.Outcome State Fault Refusal

/-! ## Values after full reset -/

/-- R17; the last three fields are the model's own (log 3). -/
def Timebase.reset : Timebase :=
  { time := ⟨0, 0, 0⟩, phi := 0, slew := ⟨0, 0, 0⟩, posted := none, utcOffset := 0, leap := none,
    tickInc := 34359738368, lastInc := 0, stepTick := none, reachedFrom := 0 }

/-- R38, ch. 2.1. -/
def RefIn.reset : RefIn :=
  { settings := ⟨false, .b9600, 1000, 50, 0⟩, line := false, pulse := none, stuckEpisode := false,
    assembly := none, fifo := [], interval := none, labelMem := none, qual := .disabled, goodRun := 0,
    nonGoodRun := 0, lossAt := none, counters := ⟨0, 0, 0, 0, 0⟩ }

/-- R38. -/
def RefIntake.reset : RefIntake :=
  { inputs := ⟨RefIn.reset, RefIn.reset⟩, mode := .auto, active := none, preference := .a, revertAt := none,
    disagreeRun := 0, disagreeFlag := false }

/-- R60, ch. 3.9. -/
def Servo.reset : Servo :=
  { state := .freerun, stepOutstanding := false, lockRun := 0, labelRun := 0, gateRun := 0, errHist := [],
    freqHist := [], rcvEstimate := 0, eps := 0, holdSeconds := 0, cls := 7, dwell := 0,
    settings := ⟨0, 2, 1, 4, 50000, 1000, 5000, 10, 2, 86400, 8⟩, labelCount := 0, gatedCount := 0 }

/-- R75, ch. 4.2. -/
def LinkPort.reset : LinkPort :=
  { state := .disabled, link := false, settings := ⟨false, 0, 0, 0, 1, false⟩, beaconReq := false,
    rangeReq := false, tx := none, rx := none, macError := false, sent := [], holdoff := none,
    counters := ⟨0, 0, 0, 0, 0, 0, 0⟩ }

/-- R95. -/
def Judged.reset : Judged := ⟨.none, 0, 0⟩

/-- R95: a path that is IDLE. -/
def Path.idle : Path :=
  { state := .idle, debt := 0, delay := none, seeds := 0, outlierRun := 0, urgent := false, lastExpired := none,
    announcedDelay := none, announcedAt := none, accepted := 0, outliers := 0, rejects := 0, timeouts := 0,
    late := 0, clamps := 0 }

/-- R95. -/
def ClientConfig.reset : ClientConfig :=
  { addr := 0, kind := .other, allowed := .a, period := 0, offsetTol := 1, pulseTol := 1, capture := none,
    announceThreshold := 0, announceAge := 8, path := ⟨⟨0, 200, 3⟩, ⟨0, 200, 3⟩⟩ }

/-- R95. -/
def Client.reset : Client :=
  { config := ClientConfig.reset, state := .vacant, reverify := false, offsetV := Judged.reset,
    pulseV := Judged.reset, offset := none, pulseError := none, selfStatus := none, lastHail := none,
    paths := ⟨Path.idle, Path.idle⟩, version := 0 }

/-- R95. -/
def Roster.reset : Roster :=
  { clients := List.replicate 256 Client.reset, newcomers := [], overflow := 0, queue := [] }

/-- R122. -/
def RangePort.reset : RangePort := { table := [], history := [], tagCounter := 0, windowAt := none }

/-- R122, ch. 6.7. -/
def Ranging.reset : Ranging :=
  { ports := ⟨RangePort.reset, RangePort.reset⟩, settings := ⟨4, 1000, 2000, 500000⟩ }

/-- R140. -/
def BeaconPort.reset : BeaconPort :=
  { next := none, rate := 1, pendingRate := none, seq := 0, roll := [], lastNotice := none, built := none }

/-- R140. -/
def BeaconUnit.reset : BeaconUnit :=
  { ports := ⟨BeaconPort.reset, BeaconPort.reset⟩, notices := List.replicate 8 none, cls := 7 }

/-- The schedule of mode OFF, idle low (R141); the fields OFF does not use are 0 (log 13). -/
def Schedule.off : Schedule := ⟨.off, false, false, 0, 0, 0, 0, 0, 0⟩

/-- R158. -/
def Channel.reset : Channel :=
  { state := .off, active := Schedule.off, pending := none, arm := none, runStart := none, lastRise := none,
    fall := none, placed := none }

/-- R158. -/
def PulseUnit.reset : PulseUnit :=
  { channels := List.replicate 8 Channel.reset, gateOpen := false, floor := 2, cls := 7, inhibit := false }

/-- R168. -/
def CaptureIn.reset : CaptureIn :=
  { edge := .off, minWidth := 1000, wiringDelay := 0, slot := none, quiet := false, line := false,
    settled := false, candidate := none, latest := none, unjudged := none, stepMark := false, count := 0,
    withinCount := 0, beyondCount := 0, unjudgedCount := 0 }

/-- No cause set, no cause enabled. -/
def Causes.none : Causes := ⟨false, false, false, false, false⟩

/-- R189. The consumed count before the first start, which its table does not list, is none (log 13). -/
def Controller.reset : Controller :=
  { baseLo := 0, baseHi := 0, run := false, causes := Causes.none, mask := Causes.none, state := .halted,
    haltAsked := false, resetAsked := false, store := List.replicate 32 none, staging := [], lossMark := false,
    lost := 0, produced := 0, sweeps := 0, capacity := none, consumed := none, threshold := none, period := none,
    timer := none, timeUp := false, sweepPending := false, sweep := none, access := none }

/-- The machine right after full reset, with no command waiting and nothing written to memory. -/
def State.reset : State :=
  { tbs := Timebase.reset, rfi := RefIntake.reset, dsv := Servo.reset,
    lnk := ⟨LinkPort.reset, LinkPort.reset⟩, crs := Roster.reset, rng := Ranging.reset, bcu := BeaconUnit.reset,
    pou := PulseUnit.reset,
    evc := List.replicate 4 CaptureIn.reset,
    xch := Controller.reset, mem := [], pending := [] }

end Sys2Proof.Machine
end

