-- ==== Sys2Proof/Machine/Bytes.lean ====
section
/-! DEFINITION. Bytes: little- and big-endian fields (R190), fields read out of byte lists, and the Ethernet frame
check sequence (ch. 11.7). -/

namespace Sys2Proof.Machine

/-- `n` bytes of `v`, least significant first (R190, exchange area). -/
def le : Nat → Nat → List Byte
  | 0, _ => []
  | n + 1, v => BitVec.ofNat 8 v :: le n (v / 256)

/-- `n` bytes of `v`, most significant first (R190, BTX frames). -/
def be (n v : Nat) : List Byte := (le n v).reverse

/-- A signed value in `n` bytes of two's complement, little-endian. -/
def leInt (n : Nat) (v : Int) : List Byte := le n (v % (256 ^ n : Nat)).toNat

/-- A signed value in `n` bytes of two's complement, big-endian. -/
def beInt (n : Nat) (v : Int) : List Byte := be n (v % (256 ^ n : Nat)).toNat

/-- `n` bytes of 0. -/
def zeros (n : Nat) : List Byte := List.replicate n 0

/-- `bs` with zeros after it up to `n` bytes. -/
def padTo (n : Nat) (bs : List Byte) : List Byte := bs ++ zeros (n - bs.length)

/-- A flag byte: 0 for clear, 1 for set (R190). -/
def flagByte (b : Bool) : Byte := if b then 1 else 0

/-- The value of bytes stored least significant first. -/
def leVal : List Byte → Nat
  | [] => 0
  | b :: bs => b.toNat + 256 * leVal bs

/-- The value of bytes stored most significant first. -/
def beVal (bs : List Byte) : Nat := leVal bs.reverse

/-- Bytes `off`..`off + n − 1` of `bs`; missing bytes read 0. -/
def field (bs : List Byte) (off n : Nat) : List Byte := padTo n ((bs.drop off).take n)

/-- The little-endian field of `n` bytes at `off`. -/
def fieldLe (bs : List Byte) (off n : Nat) : Nat := leVal (field bs off n)

/-- The big-endian field of `n` bytes at `off`. -/
def fieldBe (bs : List Byte) (off n : Nat) : Nat := beVal (field bs off n)

/-- The byte at `off`. -/
def byteAt (bs : List Byte) (off : Nat) : Byte := bs.getD off 0

/-- The signed value of the low `w` bits of `v` in two's complement. -/
def signed (w v : Nat) : Int := (BitVec.ofNat w v).toInt

/-- The flag bits of `ns`: bit n set for every n listed (ch. 11.4, 11.6). -/
def bitMask (ns : List Nat) : Nat := ns.foldl (fun m n => m ||| (1 <<< n)) 0

/-- One bit of the reflected cyclic redundancy check of generator 0x04C11DB7. -/
def crcBit (c : Nat) : Nat := if c % 2 = 1 then (c / 2) ^^^ 0xEDB88320 else c / 2

/-- One byte of the check. -/
def crcByte (c : Nat) (b : Byte) : Nat :=
  crcBit (crcBit (crcBit (crcBit (crcBit (crcBit (crcBit (crcBit (c ^^^ b.toNat))))))))

/-- The 32-bit cyclic redundancy check as Ethernet uses it (ch. 11.7); its bit order, start value and final
complement are those of IEEE 802.3. PRESUMED (log 15). -/
def crc32 (bs : List Byte) : Nat := bs.foldl crcByte 0xFFFFFFFF ^^^ 0xFFFFFFFF

/-- The frame check sequence of the bytes before it, as its four bytes are sent. -/
def fcsOf (bs : List Byte) : List Byte := le 4 (crc32 bs)

/-- The lowest bit of the first octet of an address: set for multicast and broadcast. -/
def isMulticast (a : MacAddr) : Bool := a.getLsbD 40

/-- The broadcast address. -/
def broadcast : MacAddr := 0xFFFFFFFFFFFF

end Sys2Proof.Machine
end

