-- ==== Sys2Proof/Machine/Memory.lean ====
section
/-! DEFINITION. System memory, the home of the exchange area (ch. 10.2): a list of (address, byte) with addresses
strictly rising and no entry equal to `Config.memoryFill`, which an unlisted address reads as (log 9). -/

namespace Sys2Proof.Machine

abbrev Memory := List Host.Cell

/-- The byte at an address. -/
def Memory.read (m : Memory) (a : Nat) : Byte :=
  match m.find? (fun c => c.1 == a) with
  | some c => c.2
  | none => Config.memoryFill

/-- Addresses strictly rising, and no entry that an unlisted address would read as. -/
def Memory.wf : Memory → Bool
  | [] => true
  | [c] => c.2 != Config.memoryFill
  | c :: d :: m => c.2 != Config.memoryFill && decide (c.1 < d.1) && Memory.wf (d :: m)

/-- Put an entry for `a`, or take it out where `v` is what an unlisted address reads as. -/
def Memory.write (a : Nat) (v : Byte) : Memory → Memory
  | [] => if v = Config.memoryFill then [] else [(a, v)]
  | c :: m =>
    if c.1 < a then c :: Memory.write a v m
    else
      let rest := if c.1 = a then m else c :: m
      if v = Config.memoryFill then rest else (a, v) :: rest

/-- Stores one after another. -/
def Memory.writeAll (ws : List Host.Cell) (m : Memory) : Memory :=
  ws.foldl (fun m w => Memory.write w.1 w.2 m) m

/-- An address of the 64-bit system bus: `off` bytes above `base` (log 32). -/
def busAddr (base off : Nat) : Nat := (base + off) % 18446744073709551616

/-- `n` bytes from `base + off` on. -/
def Memory.block (m : Memory) (base off n : Nat) : List Byte :=
  (List.range n).map (fun i => m.read (busAddr base (off + i)))

/-- The stores that put `bs` at `base + off` in rising order. -/
def storesAt (base off : Nat) (bs : List Byte) : List Host.Cell :=
  bs.zipIdx.map (fun p => (busAddr base (off + p.2), p.1))

end Sys2Proof.Machine
end

