-- ==== Sys2Proof/Machine/Time.lean ====
section
/-! DEFINITION. Device time and its arithmetic: ticks, the increment of a tick, slews, steps and held instants
(ch. 1). One sixteenth is 2^28 fraction units. -/

namespace Sys2Proof.Machine

/-- Sixteenths of a nanosecond in a second. -/
def sixPerSec : Nat := 16000000000
/-- Fraction units (2^-32 ns) in a sixteenth (ch. 1.1). -/
def unitsPerSix : Nat := 268435456
/-- Fraction units in a nanosecond. -/
def unitsPerNs : Nat := 4294967296
/-- Nanoseconds in a second. -/
def nsPerSec : Nat := 1000000000
/-- Fraction units in a second. -/
def unitsPerSec : Nat := 4294967296000000000
/-- The number of values of device seconds, 2^48 (R1). -/
def secSpan : Nat := 281474976710656
/-- 281,474,976,710,655 s 999,999,999 ns, where held instants saturate (R30), in sixteenths. -/
def maxSix : Nat := (secSpan - 1) * sixPerSec + 999999999 * 16
/-- The same instant in fraction units (R8). -/
def maxUnits : Nat := maxSix * unitsPerSix

/-- Nominal increment of a tick, 8 ns (R2). -/
def nominalInc : Int := 34359738368
/-- Lower limit of a tick's increment (R5). -/
def minInc : Int := 34352866421
/-- Upper limit of a tick's increment (R5). -/
def maxInc : Int := 34366610315
/-- Limit of Φ (R3). -/
def phiLimit : Int := 25600000
/-- Limit of σ in sixteenths (R4). -/
def sigmaLimit : Int := 1600000
/-- Ticks of an oscillator second (ch. 1.3). -/
def ticksPerSecond : Nat := 125000000

/-- `x` held within −`limit`..`limit`. -/
def clampSym (limit x : Int) : Int := max (-limit) (min limit x)

/-- Device time as one count of fraction units. -/
def DeviceTime.units (t : DeviceTime) : Nat := t.sec * unitsPerSec + t.ns * unitsPerNs + t.frac

/-- Device time of a count of fraction units, within the 48-bit range of seconds. -/
def DeviceTime.ofUnits (u : Nat) : DeviceTime :=
  { sec := u / unitsPerSec % secSpan, ns := u % unitsPerSec / unitsPerNs, frac := u % unitsPerNs }

/-- Device time as a stamp reads it, in whole sixteenths (R7). -/
def DeviceTime.six (t : DeviceTime) : Nat := t.sec * sixPerSec + t.ns * 16 + t.frac / unitsPerSix

/-- Nanoseconds after adding `inc` to the fraction, before the carry into seconds (R1). -/
def DeviceTime.nsAfter (t : DeviceTime) (inc : Nat) : Nat := t.ns + (t.frac + inc) / unitsPerNs

/-- Adding `inc` carries device time across a second boundary (R1, R6). -/
def DeviceTime.crosses (t : DeviceTime) (inc : Nat) : Bool := decide (nsPerSec ≤ t.nsAfter inc)

/-- R1: add a tick's increment, carrying into nanoseconds and seconds; seconds past 2^48 − 1 become 0. -/
def DeviceTime.advance (t : DeviceTime) (inc : Nat) : DeviceTime :=
  if t.crosses inc then
    { sec := if t.sec + 1 < secSpan then t.sec + 1 else 0, ns := t.nsAfter inc - nsPerSec,
      frac := (t.frac + inc) % unitsPerNs }
  else { sec := t.sec, ns := t.nsAfter inc, frac := (t.frac + inc) % unitsPerNs }

/-- R8: device time moved by a step of Δ sixteenths, held between 0 s 0 ns and the greatest device time. -/
def DeviceTime.stepBy (t : DeviceTime) (delta : Int) : DeviceTime :=
  let u : Int := (t.units : Int) + delta * (unitsPerSix : Int)
  if u < 0 then ⟨0, 0, 0⟩
  else if (maxUnits : Int) < u then ⟨secSpan - 1, nsPerSec - 1, 0⟩
  else DeviceTime.ofUnits u.toNat

/-- R30 and its like: a held instant moved by Δ, saturating at both ends of device time. -/
def moveBy (delta : Int) (v : Nat) : Nat := (min (max 0 ((v : Int) + delta)) (maxSix : Int)).toNat

/-- R2: Φ × 134,217,728 / 1,000,000,000, rounded half away from zero. -/
def freqTerm (phi : Int) : Int :=
  let x := phi * 134217728
  if 0 ≤ x then (2 * x + 1000000000) / 2000000000 else -((-(2 * x) + 1000000000) / 2000000000)

/-- The slew share wanted by the next tick, before the limits of R5 (R4). -/
def Slew.want (w : Slew) : Int := if 1 < w.ticksLeft then w.share else w.remaining

/-- The increment of a tick that begins now: nominal, F and the slew share, held within the limits of R5 (R2). -/
def Timebase.nextInc (tb : Timebase) : Int :=
  max minInc (min maxInc (nominalInc + freqTerm tb.phi + tb.slew.want))

/-- A tick begins: its increment is fixed from the Φ and slew of that moment, and the share it will apply leaves
the remaining amount (R3, R4, R5). -/
def Timebase.beginTick (tb : Timebase) : Timebase :=
  let share := tb.nextInc - nominalInc - freqTerm tb.phi
  { tb with
    tickInc := tb.nextInc.toNat
    slew := { tb.slew with remaining := tb.slew.remaining - share, ticksLeft := tb.slew.ticksLeft - 1 } }

/-- R3: a write of Φ saturates at ±25,600,000. -/
def Timebase.writePhi (phi : Int) (tb : Timebase) : Timebase := { tb with phi := clampSym phiLimit phi }

/-- No slew in progress. -/
def Slew.none : Slew := ⟨0, 0, 0⟩

/-- R4: a write of σ saturates at ±1,600,000 and starts a new slew, or, for 0, leaves none. -/
def Slew.start (sigma : Int) : Slew :=
  let amount := clampSym sigmaLimit sigma * (unitsPerSix : Int)
  if amount = 0 then Slew.none
  else { remaining := amount, share := amount.tdiv (ticksPerSecond : Int), ticksLeft := ticksPerSecond }

/-- R4. -/
def Timebase.writeSigma (sigma : Int) (tb : Timebase) : Timebase := { tb with slew := Slew.start sigma }

/-- The tick in progress will cross a second boundary (R6). -/
def Timebase.atBoundary (tb : Timebase) : Bool := tb.time.crosses tb.tickInc

/-- Device seconds after the tick in progress, before any step (R6: the N of a boundary). -/
def Timebase.nextSec (tb : Timebase) : Nat := (tb.time.advance tb.tickInc).sec

/-- The tick in progress crosses a boundary at which the posted step is to be applied (R8). -/
def Timebase.stepDue (tb : Timebase) : Bool :=
  match tb.posted with
  | none => false
  | some p => tb.atBoundary && (match p.target with | none => true | some n => n == tb.nextSec)

/-- The boundary instant the tick in progress crosses, in sixteenths of the time before any step. -/
def Timebase.boundarySix (tb : Timebase) : Nat := (tb.time.sec + 1) * sixPerSec

/-- Interpolation within a tick of increment `inc` (R7), in fraction units. -/
def tickPart (f : Fraction) (inc : Nat) : Nat := inc * f.num / f.den

/-- A count of fraction units as a stamp in whole sixteenths, within the range of device time (R7). -/
def stampOfUnits (u : Nat) : Nat := u % (secSpan * unitsPerSec) / unitsPerSix

/-- R7: the stamp of an event in the tick in progress. -/
def Timebase.stampIn (tb : Timebase) (f : Fraction) : Nat :=
  stampOfUnits (tb.time.units + tickPart f tb.tickInc)

/-- R7: the stamp of an event at a pin or a link interface. An event in the tick of a step, taken after the step, is stamped in
the time after it: its stamp is the one it has when taken before the step, moved by Δ and held at both ends of device time, for
R30 has the two the same. In a tick that crosses a boundary with no step, every event is taken before the boundary. DESIGN CHOICE
(log 5). -/
def Timebase.stamp (tb : Timebase) (i : Instant) : Nat :=
  match i.late, tb.stepTick with
  | true, some st => moveBy st.delta (stampOfUnits (st.start + tickPart i.frac tb.lastInc))
  | _, _ => tb.stampIn i.frac

/-- Device time at the end of the last completed tick, as a block reads it without a pin event (R7). -/
def Timebase.now (tb : Timebase) : Nat := tb.time.six

/-- The greatest instant device time has reached when the tick in progress is taken into account: its end, or the
boundary instant where a step is to be applied there (log 4). -/
def Timebase.reachLimit (tb : Timebase) : Nat :=
  if tb.stepDue then tb.boundarySix else (tb.time.units + tb.tickInc) / unitsPerSix

/-- Device time reaches the instant `d`, on the last completed tick or earlier or on the tick in progress (log 4). -/
def Timebase.reaches (tb : Timebase) (d : Nat) : Bool := decide (d ≤ tb.reachLimit)

/-- The device time of the last completed tick has reached the optional instant: how R7 has an expiry compared. -/
def Timebase.passed (tb : Timebase) : Option Nat → Bool
  | none => false
  | some d => decide (d ≤ tb.now)

/-- Device time has reached the optional instant. -/
def Timebase.reachesOpt (tb : Timebase) : Option Nat → Bool
  | none => false
  | some d => tb.reaches d

/-- A stamp less the half-second wrap: the part below the whole second, taken from the nearest second (R40, R165). -/
def wrapSecond (stamp : Nat) : Int :=
  let s : Int := (stamp % sixPerSec : Nat)
  if s < 8000000000 then s else s - 16000000000

/-- The device second a stamp is nearest to (R40). -/
def nearestSecond (stamp : Nat) : Nat :=
  if stamp % sixPerSec < 8000000000 then stamp / sixPerSec else stamp / sixPerSec + 1

/-- A counter of 16 bits that saturates (R37). -/
def incSat16 (n : Nat) : Nat := min (n + 1) 65535
/-- `n` more on a counter of 16 bits that saturates. -/
def addSat16 (k n : Nat) : Nat := min (n + k) 65535
/-- A counter of 16 bits that wraps. -/
def incWrap16 (n : Nat) : Nat := (n + 1) % 65536
/-- A counter of 32 bits that wraps (R74). -/
def incWrap32 (n : Nat) : Nat := (n + 1) % 4294967296
/-- The greatest 32-bit value. -/
def max32 : Nat := 4294967295
/-- `n` held within `lo`..`hi`. -/
def clampNat (lo hi n : Nat) : Nat := max lo (min hi n)

end Sys2Proof.Machine
end

