-- ==== Sys2Proof/Machine/Operands.lean ====
section
/-! DEFINITION. How a command's operands name parts of the state: ports, inputs, slots, bytes of a register write. -/

namespace Sys2Proof.Machine

/-- The member for a port. -/
def atPort {α : Type} (x : Pair α) : Port → α
  | .a => x.a
  | .b => x.b

/-- `x` with its member for a port changed. -/
def modPort {α : Type} (p : Port) (f : α → α) (x : Pair α) : Pair α :=
  match p with
  | .a => { x with a := f x.a }
  | .b => { x with b := f x.b }

/-- The member for a reference input. -/
def atInput {α : Type} (x : Pair α) : RefInput → α
  | .a => x.a
  | .b => x.b

/-- `x` with its member for an input changed. -/
def modInput {α : Type} (i : RefInput) (f : α → α) (x : Pair α) : Pair α :=
  match i with
  | .a => { x with a := f x.a }
  | .b => { x with b := f x.b }

/-- The other input. -/
def otherInput : RefInput → RefInput
  | .a => .b
  | .b => .a

/-- Both members changed. -/
def mapPair {α β : Type} (f : α → β) (x : Pair α) : Pair β := ⟨f x.a, f x.b⟩

/-- The port a code names (ch. 11.8). -/
def portOf (b : Byte) : Option Port := if b = 0 then some .a else if b = 1 then some .b else none

/-- The input a code names (ch. 11.8). -/
def inputOf (b : Byte) : Option RefInput := if b = 0 then some .a else if b = 1 then some .b else none

/-- A flag field of an order: any nonzero value counts as set (R190). -/
def flagOf (b : Byte) : Bool := b != 0

/-- The client slot an order names, when it lies in 0..255. -/
def clientSlot (n : BitVec 16) : Option Nat := if n.toNat < 256 then some n.toNat else none

/-- The bits a register write covers (R191). -/
def laneMask (lanes : BitVec 4) : BitVec 32 :=
  (if lanes.getLsbD 0 then 0x000000FF else 0) ||| (if lanes.getLsbD 1 then 0x0000FF00 else 0) |||
  (if lanes.getLsbD 2 then 0x00FF0000 else 0) ||| (if lanes.getLsbD 3 then 0xFF000000 else 0)

/-- R191: a write updates only the bytes it covers. -/
def writeOver (w : RegWrite) (old : BitVec 32) : BitVec 32 :=
  (old &&& ~~~ laneMask w.lanes) ||| (w.value &&& laneMask w.lanes)

/-- R191, for XCTL, XSTAT and XNUDGE: a full write whose uncovered bytes are 0. -/
def writeWhole (w : RegWrite) : BitVec 32 := w.value &&& laneMask w.lanes

end Sys2Proof.Machine
end

