-- ==== Sys2Proof/Machine/Formats.lean ====
section
/-! DEFINITION. The layouts of ch. 11: codes of enumerated fields, journal records, client records, order slots,
result data, BTX frames and the receiver message. -/

namespace Sys2Proof.Machine

/-! ## Codes (ch. 11.8) -/

def portCode : Port → Nat
  | .a => 0 | .b => 1

def inputCode : RefInput → Nat
  | .a => 0 | .b => 1

def activeCode : Option RefInput → Nat
  | none => 0 | some .a => 1 | some .b => 2

def modeCode : SelMode → Nat
  | .auto => 0 | .force .a => 1 | .force .b => 2

def qualCode : Qual → Nat
  | .disabled => 0 | .absent => 1 | .qualifying => 2 | .qualified => 3

def refStateCauseCode : RefStateCause → Nat
  | .enable => 0 | .disable => 1 | .goodRun => 2 | .nonGoodRun => 3 | .loss => 4 | .pulse => 5

def refChangeCauseCode : RefChangeCause → Nat
  | .qualification => 0 | .revert => 1 | .order => 2 | .forceLost => 3 | .preference => 4

def servoCode : ServoState → Nat
  | .freerun => 0 | .acquire => 1 | .track => 2 | .holdover => 3

def servoCauseCode : ServoCause → Nat
  | .refActive => 0 | .lock => 1 | .label => 2 | .gate => 3 | .refLost => 4 | .limit => 5

def originCode : StepOrigin → Nat
  | .host _ => 0 | .servo => 1

def leapFlagsCode : LeapFlags → Nat
  | .none => 0 | .insert => 1 | .delete => 2

def portStateCode : PortState → Nat
  | .disabled => 0 | .down => 1 | .up => 2

def clientKindCode : ClientKind → Nat
  | .relay => 0 | .meter => 1 | .mergingUnit => 2 | .other => 3

def clientStateCode : ClientState → Nat
  | .vacant => 0 | .admitted => 1 | .following => 2 | .astray => 3 | .reverify => 4 | .silent => 5

def clientCauseCode : ClientCause → Nat
  | .admitted => 0 | .reconfig => 1 | .retire => 2 | .path => 3 | .verdict => 4 | .step => 5 | .echo => 6

def verdictCode : Verdict → Nat
  | .none => 0 | .pass => 1 | .fail => 2

def selfStatusCode : Option SelfStatus → Nat
  | none => 0 | some .following => 1 | some .free => 2 | some .unset => 3

def pathStateCode : PathState → Nat
  | .idle => 0 | .seeding => 1 | .valid => 2 | .lost => 3

def noticeModeCode : NoticeMode → Nat
  | .once => 0 | .every => 1 | .nth _ => 2 | .until_ _ => 3

def noticeCauseCode : NoticeCause → Nat
  | .sent => 0 | .portDown => 1 | .noneUp => 2 | .epoch => 3

def channelStateCode : ChannelState → Nat
  | .off => 0 | .ready => 1 | .waiting => 2 | .running => 3

def gateCauseCode : GateCause → Nat
  | .cls => 0 | .inhibit => 1 | .floor => 2

/-- Outcome codes of CAPTURE (ch. 11.6). -/
def outcomeCode : CaptureOutcome → Nat
  | .within => 0 | .beyond => 1 | .setup => 2 | .step => 3 | .noClient => 4 | .vacant => 5 | .mismatch => 6

def resultCodeOf : ResultCode → Nat
  | .ok => 0 | .adjusted => 1 | .badField => 2 | .unknown => 3 | .busy => 4 | .past => 5 | .notQualified => 6
  | .occupied => 7 | .vacant => 8 | .duplicate => 9 | .empty => 10 | .qualityLow => 11 | .inhibited => 12
  | .replaced => 13 | .superseded => 14 | .cancelled => 15 | .tooLate => 16 | .abandoned => 17

def exchangeStateCode : ExchangeState → Nat
  | .halted => 0 | .starting => 1 | .running => 2 | .stalled => 3

def slotPosted : Byte := 1
def slotTaken : Byte := 2
def slotDone : Byte := 3

def selfStatusOf (b : Byte) : Option SelfStatus :=
  if b = 1 then some .following else if b = 2 then some .free else if b = 3 then some .unset else none

def clientKindOf (b : Byte) : Option ClientKind :=
  if b = 0 then some .relay else if b = 1 then some .meter else if b = 2 then some .mergingUnit
  else if b = 3 then some .other else none

def allowedOf (b : Byte) : Option Allowed :=
  if b = 1 then some .a else if b = 2 then some .b else if b = 3 then some .both else none

/-- Capture association: `some none` for NONE, `none` for a code outside the list. -/
def captureOf (b : Byte) : Option (Option (Fin 4)) :=
  if b = 0 then some (some 0) else if b = 1 then some (some 1) else if b = 2 then some (some 2)
  else if b = 3 then some (some 3) else if b = 4 then some none else none

def baudOf (b : Byte) : Option Baud :=
  if b = 0 then some .b9600 else if b = 1 then some .b19200 else if b = 2 then some .b38400
  else if b = 3 then some .b115200 else none

def pulseModeOf (b : Byte) : Option PulseMode :=
  if b = 0 then some .off else if b = 1 then some .second else if b = 2 then some .train
  else if b = 3 then some .single else if b = 4 then some .mark else none

def edgeOf (b : Byte) : Option EdgeSelect :=
  if b = 0 then some .off else if b = 1 then some .rising else if b = 2 then some .falling
  else if b = 3 then some .both else none

def fixStatusOf (b : Byte) : Option FixStatus :=
  if b = 0 then some .locked else if b = 1 then some .coasting else if b = 2 then some .noFix else none

def leapFlagsOf (b : Byte) : Option LeapFlags :=
  if b = 0 then some .none else if b = 1 then some .insert else if b = 2 then some .delete else none

/-! ## Times in structures -/

def secOf (stamp : Nat) : Nat := stamp / sixPerSec
def nsOf (stamp : Nat) : Nat := stamp % sixPerSec / 16
def sixOf (stamp : Nat) : Nat := stamp % 16

/-! ## Journal records (ch. 11.6) -/

/-- The five counters of R37 in the order of ch. 11.6. -/
def countersBytes (c : RefCounters) : List Byte :=
  le 2 c.bad ++ le 2 c.overrun ++ le 2 c.stale ++ le 2 c.misplaced ++ le 2 c.stuck

/-- Bit 0 for A, bit 1 for B. -/
def pairBits (p : Pair Bool) : Nat := (if p.a then 1 else 0) + (if p.b then 2 else 0)

/-- Δ held within the 10-byte field of STEP_APPLIED (ch. 11.6). -/
def delta10 (d : Int) : Int := max (-(2 ^ 79)) (min (2 ^ 79 - 1) d)

/-- Slot and port of a path record's subject. -/
def pathSubject (slot : Nat) (p : Port) : Nat := slot + 256 * portCode p

/-- Kind code, subject and payload of a record; `handed` is its device time in sixteenths, sixteenths part 0. Its numbers
are little-endian, addresses too, since ch. 11.6 gives them no order of their own (R190, log 34). -/
def bodyFields (handed : Nat) : JournalBody → Nat × Nat × List Byte
  | .refState i prev new cause c =>
    (1, inputCode i, le 1 (qualCode prev) ++ le 1 (qualCode new) ++ le 1 (refStateCauseCode cause) ++ zeros 1 ++ countersBytes c)
  | .refChange prev new mode cause =>
    (2, 0, le 1 (activeCode prev) ++ le 1 (activeCode new) ++ le 1 (modeCode mode) ++ le 1 (refChangeCauseCode cause))
  | .msgOverrun i label c => (3, inputCode i, le 5 label ++ zeros 1 ++ countersBytes c)
  | .pulseStuck i rise c =>
    (4, inputCode i, le 4 (nsOf rise) ++ le 1 (sixOf rise) ++ le 1 (secOf rise) ++ countersBytes c)
  | .utcDisagree i m t leap => (5, inputCode i, leInt 2 m ++ leInt 2 t ++ le 1 (leapFlagsCode leap))
  | .servoState prev new cause phi eps labels gated =>
    (6, 0, le 1 (servoCode prev) ++ le 1 (servoCode new) ++ le 1 (servoCauseCode cause) ++ zeros 1 ++
      leInt 4 phi ++ le 4 eps ++ le 2 labels ++ le 2 gated)
  | .classChange prev new servo eps =>
    (7, 0, le 1 prev ++ le 1 new ++ le 1 (servoCode servo) ++ zeros 1 ++ le 4 eps)
  | .stepApplied origin epoch delta => (8, originCode origin, le 6 epoch ++ leInt 10 (delta10 delta))
  | .leapApplied ins offset epoch =>
    (9, 0, leInt 1 (if ins then 1 else -1) ++ zeros 1 ++ leInt 2 offset ++ le 6 epoch)
  | .clientState slot addr prev new cause ov pv pa pb =>
    (10, slot, le 6 addr.toNat ++ le 1 (clientStateCode prev) ++ le 1 (clientStateCode new) ++
      le 1 (clientCauseCode cause) ++ le 1 (verdictCode ov) ++ le 1 (verdictCode pv) ++
      le 1 (pathStateCode pa) ++ le 1 (pathStateCode pb))
  | .pathValid slot p addr debt d acc outl =>
    (11, pathSubject slot p, le 6 addr.toNat ++ le 1 debt ++ zeros 1 ++ le 4 d ++ le 2 acc ++ le 2 outl)
  | .pathLost slot p addr d tmo rej late =>
    (12, pathSubject slot p + (if d.isSome then 512 else 0),
      le 6 addr.toNat ++ le 4 (d.getD 0) ++ le 2 tmo ++ le 2 rej ++ le 2 late)
  | .pathStep slot p addr st old new =>
    (13, pathSubject slot p, le 6 addr.toNat ++ le 1 (pathStateCode st) ++ zeros 1 ++ le 4 old ++ le 4 new)
  | .hail p addr kind period entries overflow =>
    (14, portCode p, le 6 addr.toNat ++ le 1 (clientKindCode kind) ++ le 1 period ++ le 1 entries ++ zeros 1 ++ le 2 overflow)
  | .foreignBeacon p addr cls servo seq count =>
    (15, portCode p, le 6 addr.toNat ++ [cls, servo] ++ le 2 seq ++ zeros 2 ++ le 4 count)
  | .noticeDone index mode carried cause =>
    (16, index, le 1 (noticeModeCode mode) ++ le 1 (pairBits carried) ++ le 1 (noticeCauseCode cause))
  | .gateClosed cause cls floor inhibit cut =>
    (17, 0, le 1 (gateCauseCode cause) ++ le 1 cls ++ le 1 floor ++ [flagByte inhibit] ++ le 1 (bitMask cut))
  | .gateOpened cls floor => (18, 0, le 1 cls ++ le 1 floor)
  | .capture i rising stamp interval count outcome err =>
    (19, i.val + (if rising then 0 else 256) + (if interval.isSome then 512 else 0) + 4096 * outcomeCode outcome,
      le 3 (handed - stamp) ++ leInt 5 (err.getD 0) ++ le 6 (interval.getD 0) ++ le 2 count)

/-- The 32 bytes of a record in the memory journal. -/
def recordBytes (r : JournalRecord) : List Byte :=
  let f := bodyFields (r.sec * sixPerSec + r.ns * 16) r.body
  le 1 f.1 ++ [flagByte r.lossBefore] ++ le 2 f.2.1 ++ le 4 r.ns ++ le 8 r.sec ++ padTo 16 f.2.2

/-! ## Client records (ch. 11.5) -/

/-- The path block of a measurement group. -/
def pathBlock (p : Path) : List Byte :=
  le 1 (pathStateCode p.state) ++ le 1 p.debt ++ le 1 p.seeds ++ [flagByte p.delay.isSome] ++ le 4 (p.delay.getD 0) ++
  le 2 p.accepted ++ le 2 p.outliers ++ le 2 p.rejects ++ le 2 p.timeouts ++ le 2 p.late ++ le 2 p.clamps

/-- The measurement group after its version: 76 bytes (R92, R93). -/
def measureFields (c : Client) : List Byte :=
  le 1 (clientStateCode c.state) ++
  le 1 (verdictCode c.offsetV.verdict) ++ le 1 c.offsetV.within ++ le 1 c.offsetV.beyond ++
  le 1 (verdictCode c.pulseV.verdict) ++ le 1 c.pulseV.within ++ le 1 c.pulseV.beyond ++
  le 1 (selfStatusCode c.selfStatus) ++
  le 1 ((if c.offset.isSome then 1 else 0) + (if c.pulseError.isSome then 2 else 0) + (if c.lastHail.isSome then 4 else 0)) ++
  le 1 (sixOf (c.lastHail.getD 0)) ++ le 6 (secOf (c.lastHail.getD 0)) ++ le 4 (nsOf (c.lastHail.getD 0)) ++
  leInt 4 (c.offset.getD 0) ++ leInt 8 (c.pulseError.getD 0) ++ zeros 4 ++
  pathBlock c.paths.a ++ pathBlock c.paths.b

/-- A value brought into lo..hi, with whether that changed it (R76). -/
def adjust (lo hi v : Nat) : Nat × Bool := (clampNat lo hi v, clampNat lo hi v != v)

/-- The per-port settings at `off` of a configuration group, and whether one was adjusted (R76). -/
def parsePathConfig (bs : List Byte) (off : Nat) : PathConfig × Bool :=
  let raw := signed 32 (fieldLe bs off 4)
  let asym := clampSym 1600000 raw
  let gate := fieldLe bs (off + 4) 2
  let shift := adjust 0 7 (fieldLe bs (off + 6) 1)
  ({ asymmetry := asym, gate := if gate = 0 then 200 else gate, shift := shift.1 }, asym != raw || shift.2)

/-- R76: a configuration group of 48 bytes, checked and brought into range; `none` where an enumerated check fails.
The flag says that a value was adjusted. -/
def parseConfig (bs : List Byte) : Option (ClientConfig × Bool) :=
  let addr : MacAddr := BitVec.ofNat 48 (fieldBe bs 0 6)
  if isMulticast addr || addr = 0 then none
  else
    match clientKindOf (byteAt bs 6), allowedOf (byteAt bs 7), captureOf (byteAt bs 9) with
    | some kind, some allowed, some capture =>
      let period := adjust 0 7 (fieldLe bs 8 1)
      let age := fieldLe bs 10 1
      let age' := adjust 0 64 age
      let otol := adjust 1 1000000 (fieldLe bs 16 4)
      let ptol := adjust 1 1000000 (fieldLe bs 20 4)
      let pa := parsePathConfig bs 24
      let pb := parsePathConfig bs 32
      some ({ addr := addr, kind := kind, allowed := allowed, period := period.1, offsetTol := otol.1,
              pulseTol := ptol.1, capture := capture, announceThreshold := fieldLe bs 12 2,
              announceAge := if age = 0 then 8 else age'.1, path := ⟨pa.1, pb.1⟩ },
            period.2 || age'.2 || otol.2 || ptol.2 || pa.2 || pb.2)
    | _, _, _ => none

/-! ## Order slots (ch. 11.4) -/

/-- The order of a slot, from its code and its 24 parameter bytes. -/
def decodeOrder (code : Byte) (ps : List Byte) : Order :=
  let b := byteAt ps
  let n2 (off : Nat) : BitVec 16 := BitVec.ofNat 16 (fieldLe ps off 2)
  let n4 (off : Nat) : BitVec 32 := BitVec.ofNat 32 (fieldLe ps off 4)
  let n6 (off : Nat) : BitVec 48 := BitVec.ofNat 48 (fieldLe ps off 6)
  let lo (off : Nat) : BitVec 4 := (b off).setWidth 4
  let hi (off : Nat) : BitVec 4 := ((b off) >>> 4).setWidth 4
  match code.toNat with
  | 0x01 => .portSetup { port := b 0, enable := b 1, reporting := b 2, rate := b 3, domain := b 4, typeCode := n2 6,
                         station := BitVec.ofNat 48 (fieldBe ps 8 6) }
  | 0x02 => .refSetup { input := b 0, enable := b 1, baud := b 2, preference := b 3, minWidth := n4 4,
                        longWidth := n2 8, cableDelay := n4 12 }
  | 0x03 => .setRef (b 0)
  | 0x04 => .servoSetup { kpA := lo 0, kiA := hi 0, kpT := lo 1, kiT := hi 1, improveDwell := b 2,
                          stepThreshold := n4 4, lockThreshold := n4 8, phaseGate := n4 12, drift := n2 16,
                          aging := n2 18, holdoverLimit := n4 20 }
  | 0x05 => .postStep { targetKind := b 0, delta := BitVec.ofNat 64 (fieldLe ps 8 8), epoch := n6 16 }
  | 0x06 => .utcSetup { operation := b 0, direction := b 1, offset := n2 2, leapEpoch := n6 8 }
  | 0x07 => .admitClient (n2 0)
  | 0x08 => .reconfig (n2 0)
  | 0x09 => .retire (n2 0)
  | 0x0A => .rangingSetup { launchLimit := b 0, window := n2 2, echoWait := n2 4, ceiling := n4 8 }
  | 0x0B => .noticePost { index := lo 0, mode := hi 0, length := b 1, param := n6 2, payload := field ps 8 16 }
  | 0x0C => .noticeWithdraw (b 0)
  | 0x0D => .pulseProgram { channel := b 0, mode := b 1, polarity := b 2, gated := b 3, markClass := b 4,
                            at8 := n4 8, at12 := n4 12, at16 := n6 16 }
  | 0x0E => .pulseArm { count := b 0, channels := field ps 1 8, epoch := n6 16 }
  | 0x0F => .gateSetup (b 0)
  | 0x10 => .gateOpen
  | 0x11 => .captureSetup { input := b 0, edge := b 1, quiet := b 2, slot := n2 4, minWidth := n4 8, wiringDelay := n4 12 }
  | 0x12 => .snapshot (b 0)
  | 0x13 => .cancel (b 0) (n2 2)
  | _ => .unknown code

/-- Offset of an order slot in the exchange area (ch. 11.4). -/
def slotOffset (n : Nat) : Nat := 0x40 + 64 * n
/-- Offset of a client record (ch. 11.5). -/
def clientOffset (n : Nat) : Nat := 0x1000 + 128 * n
/-- Offset of a journal record (ch. 11.6). -/
def journalOffset (i : Nat) : Nat := 0x9000 + 32 * i

/-- Seconds, nanoseconds and sixteenths of a time in result data (8, 4 and 1 bytes). -/
def timeBytes (stamp : Nat) : List Byte := le 8 (secOf stamp) ++ le 4 (nsOf stamp) ++ le 1 (sixOf stamp)

/-! ## BTX frames (ch. 11.7) -/

/-- Codes of the four frame kinds. -/
def kindBeacon : Nat := 1
def kindRange : Nat := 2
def kindEcho : Nat := 3
def kindHail : Nat := 4

/-- R65: a frame before its check sequence, padded with zeros to the Ethernet minimum of 64 bytes. -/
def frameBytes (dest : MacAddr) (st : PortSettings) (kind : Nat) (body : List Byte) : List Byte :=
  padTo 60 (be 6 dest.toNat ++ be 6 st.station.toNat ++ be 2 st.typeCode.toNat ++
    (be 1 1 ++ be 1 kind ++ be 2 body.length ++ [st.domain] ++ zeros 1) ++ body)

/-- The departure-time field of a Beacon body (13 bytes). -/
def departureBytes (stamp : Nat) : List Byte := be 8 (secOf stamp) ++ be 4 (nsOf stamp) ++ be 1 (sixOf stamp)

/-- R67: the departure stamp written into a Beacon as it leaves. -/
def withDeparture (frame : List Byte) (stamp : Nat) : List Byte :=
  frame.take 20 ++ departureBytes stamp ++ frame.drop 33

/-- A roll-call entry of a Beacon body (R133). -/
def rollBytes (addr : MacAddr) (d : Option Nat) (valid following : Bool) : List Byte :=
  be 6 addr.toNat ++ be 4 (d.getD 0) ++ be 1 ((if valid then 1 else 0) + (if following then 2 else 0)) ++ zeros 1

/-- A notice of a Beacon body. -/
def noticeBytes (index : Nat) (payload : List Byte) : List Byte := be 1 index ++ be 1 payload.length ++ payload

/-- The fields of a received frame that the checks of R70 to R72 read. -/
structure RxFrame where
  dest : MacAddr
  src : MacAddr
  etherType : BitVec 16
  version : Byte
  kind : Byte
  bodyLen : Nat
  domain : Byte
  body : List Byte
deriving DecidableEq, Repr

/-- A received frame taken apart; `body` is everything between the BTX header and the check sequence. -/
def parseFrame (bs : List Byte) : RxFrame :=
  { dest := BitVec.ofNat 48 (fieldBe bs 0 6), src := BitVec.ofNat 48 (fieldBe bs 6 6),
    etherType := BitVec.ofNat 16 (fieldBe bs 12 2), version := byteAt bs 14, kind := byteAt bs 15,
    bodyLen := fieldBe bs 16 2, domain := byteAt bs 18, body := (bs.drop 20).take (bs.length - 24) }

/-- R70: long enough, and its check sequence is that of the bytes before it. -/
def frameIntact (bs : List Byte) : Bool :=
  decide (64 ≤ bs.length) && bs.drop (bs.length - 4) == fcsOf (bs.take (bs.length - 4))

/-! ## The receiver message (ch. 11.7) -/

/-- The start code of a receiver message. -/
def startCode : Byte := 0xA7

/-- The message of 14 checked characters, completed at `t`; `none` where a code or the checksum is wrong (R23). -/
def parseMessage (cs : List Byte) (t : Nat) : Option RefMsg :=
  match fixStatusOf (byteAt cs 7), leapFlagsOf (byteAt cs 12) with
  | some status, some leap =>
    if (cs.map BitVec.toNat).sum % 256 = 0 then
      some { label := fieldBe cs 2 5, status := status, accuracy := fieldBe cs 8 2,
             utcOffset := signed 16 (fieldBe cs 10 2), leap := leap, completed := t }
    else none
  | _, _ => none

end Sys2Proof.Machine
end

