-- ==== Sys2Proof/Machine/Flags.lean ====
section
/-! DEFINITION. The interrupt causes, the line XIRQ and what a read of each register returns (R170 to R172, R191,
ch. 11.2). -/

namespace Sys2Proof.Machine

/-- The five causes of XSTAT, in bit order (ch. 11.2). -/
inductive Cause where
  | order | journal | cls | stall | layout
deriving DecidableEq, Repr

/-- R172: a cause is set. -/
def setCause (c : Cause) (cs : Causes) : Causes :=
  match c with
  | .order => { cs with order := true }
  | .journal => { cs with journal := true }
  | .cls => { cs with cls := true }
  | .stall => { cs with stall := true }
  | .layout => { cs with layout := true }

/-- Bits 4..0 as causes or enables. -/
def causesOf (v : BitVec 32) : Causes :=
  ⟨v.getLsbD 0, v.getLsbD 1, v.getLsbD 2, v.getLsbD 3, v.getLsbD 4⟩

/-- Causes or enables as bits 4..0. -/
def causesBits (c : Causes) : BitVec 32 :=
  BitVec.ofNat 32 ((if c.order then 1 else 0) + (if c.journal then 2 else 0) + (if c.cls then 4 else 0) +
    (if c.stall then 8 else 0) + (if c.layout then 16 else 0))

/-- R172: each cause written 1 is cleared, the others stand. -/
def clearCauses (written old : Causes) : Causes :=
  ⟨old.order && !written.order, old.journal && !written.journal, old.cls && !written.cls,
   old.stall && !written.stall, old.layout && !written.layout⟩

/-- R172: XIRQ is asserted while at least one cause is both set and enabled. -/
def xirq (x : Controller) : Bool :=
  (x.causes.order && x.mask.order) || (x.causes.journal && x.mask.journal) || (x.causes.cls && x.mask.cls) ||
  (x.causes.stall && x.mask.stall) || (x.causes.layout && x.mask.layout)

/-- XID: family code 0x0C4, part code 0x120, layout version 1 (ch. 11.2). -/
def xid : BitVec 32 := 0x0C412001

/-- XSTAT as it reads: the causes and the exchange state field in bits 9..8. -/
def xstatValue (x : Controller) : BitVec 32 :=
  causesBits x.causes ||| BitVec.ofNat 32 (256 * exchangeStateCode x.state)

/-- The register at a byte offset of the window as it reads, 32 bits wide (R170, ch. 11.2). -/
def registerWord (offset : Fin 32) (x : Controller) : BitVec 32 :=
  match offset.val / 4 with
  | 0 => x.baseLo
  | 1 => x.baseHi
  | 2 => if x.run then 1 else 0
  | 4 => xstatValue x
  | 5 => causesBits x.mask
  | 6 => xid
  | _ => 0

/-- R191: what a read at an offset of the register window returns: the bytes it covers, lane n for bits 8n+7..8n; those it
does not cover, which are not returned, stand as 0. -/
def registerRead (offset : Fin 32) (lanes : BitVec 4) (x : Controller) : BitVec 32 :=
  registerWord offset x &&& laneMask lanes

/-- The base address of the exchange area (R170). -/
def baseAddr (x : Controller) : Nat := x.baseHi.toNat * 4294967296 + x.baseLo.toNat

end Sys2Proof.Machine
end

