-- ==== Sys2Proof/Machine/Ops.lean ====
section
/-! DEFINITION. The operations the blocks share: changing one block's state, staging a journal record, completing
an order, queuing a client for publication or roll-call, and the evaluation of a client's state. -/

namespace Sys2Proof.Machine

/-! ## Changing one part of the state -/

def modTbs (f : Timebase → Timebase) (s : State) : State := { s with tbs := f s.tbs }
def modRfi (f : RefIntake → RefIntake) (s : State) : State := { s with rfi := f s.rfi }
def modDsv (f : Servo → Servo) (s : State) : State := { s with dsv := f s.dsv }
def modCrs (f : Roster → Roster) (s : State) : State := { s with crs := f s.crs }
def modRng (f : Ranging → Ranging) (s : State) : State := { s with rng := f s.rng }
def modBcu (f : BeaconUnit → BeaconUnit) (s : State) : State := { s with bcu := f s.bcu }
def modPou (f : PulseUnit → PulseUnit) (s : State) : State := { s with pou := f s.pou }
def modXch (f : Controller → Controller) (s : State) : State := { s with xch := f s.xch }
def modMem (f : Memory → Memory) (s : State) : State := { s with mem := f s.mem }

/-- Change one reference input. -/
def modRef (i : RefInput) (f : RefIn → RefIn) (s : State) : State :=
  { s with rfi := { s.rfi with inputs := modInput i f s.rfi.inputs } }
/-- Change one Link Port. -/
def modLink (p : Port) (f : LinkPort → LinkPort) (s : State) : State := { s with lnk := modPort p f s.lnk }
/-- Change the Ranging Engine's state of one port. -/
def modRange (p : Port) (f : RangePort → RangePort) (s : State) : State :=
  { s with rng := { s.rng with ports := modPort p f s.rng.ports } }
/-- Change the Beacon Unit's state of one port. -/
def modBeacon (p : Port) (f : BeaconPort → BeaconPort) (s : State) : State :=
  { s with bcu := { s.bcu with ports := modPort p f s.bcu.ports } }
/-- Change one pulse channel. -/
def modChannel (c : Nat) (f : Channel → Channel) (s : State) : State :=
  { s with pou := { s.pou with channels := s.pou.channels.modify c f } }
/-- Change one capture input. -/
def modCapture (i : Nat) (f : CaptureIn → CaptureIn) (s : State) : State := { s with evc := s.evc.modify i f }
/-- Change one client context. -/
def modClient (n : Nat) (f : Client → Client) (s : State) : State :=
  { s with crs := { s.crs with clients := s.crs.clients.modify n f } }
/-- Change one path of one client context. -/
def modPath (n : Nat) (p : Port) (f : Path → Path) (s : State) : State :=
  modClient n (fun c => { c with paths := modPort p f c.paths }) s

/-! ## Reading one part of the state -/

def refIn (s : State) (i : RefInput) : RefIn := atInput s.rfi.inputs i
def link (s : State) (p : Port) : LinkPort := atPort s.lnk p
def rangePort (s : State) (p : Port) : RangePort := atPort s.rng.ports p
def beaconPort (s : State) (p : Port) : BeaconPort := atPort s.bcu.ports p
def channel (s : State) (c : Nat) : Channel := s.pou.channels.getD c Channel.reset
def captureIn (s : State) (i : Nat) : CaptureIn := s.evc.getD i CaptureIn.reset
def client (s : State) (n : Nat) : Client := s.crs.clients.getD n Client.reset
def path (s : State) (n : Nat) (p : Port) : Path := atPort (client s n).paths p

/-- Device time as a block reads it (R7). -/
def now (s : State) : Nat := s.tbs.now

/-- The slots that hold a client, ascending. -/
def occupied (s : State) : List Nat :=
  (s.crs.clients.zipIdx.filter (fun p => p.1.state != .vacant)).map (·.2)

/-- A port the client is allowed to use (ch. 5.1). -/
def allows (al : Allowed) (p : Port) : Bool :=
  match al, p with
  | .a, .a => true
  | .b, .b => true
  | .both, _ => true
  | .a, .b => false
  | .b, .a => false

/-- Apply `f` for each element in turn. -/
def forEach {α : Type} (xs : List α) (f : α → State → State) (s : State) : State :=
  xs.foldl (fun s x => f x s) s

/-! ## Journal staging (R185) -/

/-- R185: a record is appended with the device time of its handing and the loss mark, or, with 64 records held, is
lost and counted. -/
def stage (body : JournalBody) (s : State) : State :=
  if s.xch.staging.length < 64 then
    modXch (fun x => { x with
      staging := x.staging ++ [{ body := body, lossBefore := x.lossMark, sec := s.tbs.time.sec, ns := s.tbs.time.ns }]
      lossMark := false }) s
  else modXch (fun x => { x with lost := incWrap32 x.lost, lossMark := true }) s

/-- Set an interrupt cause (R172). -/
def raiseCause (c : Cause) (s : State) : State := modXch (fun x => { x with causes := setCause c x.causes }) s

/-! ## The order store (R181, R182) -/

/-- The entry of an order slot. -/
def storeEntry (s : State) (slot : Nat) : Option StoreEntry := s.xch.store.getD slot none

/-- An order is held at this slot. -/
def isHeld (e : StoreEntry) : Bool :=
  match e.status with
  | .held => true
  | .completed _ _ _ => false

/-- R181: the store holds no held order and no unwritten completion for the slot, so it may be taken. -/
def canTake (s : State) (slot : Nat) : Bool :=
  match storeEntry s slot with
  | none => true
  | some e =>
    match e.status with
    | .held => false
    | .completed _ _ written => written

/-- R181: the copy of a slot's order enters the store, held. -/
def takeOrder (slot : Nat) (cookie : BitVec 16) (o : Order) (s : State) : State :=
  modXch (fun x => { x with store := x.store.set slot (some { order := o, cookie := cookie, status := .held }) }) s

/-- R182: an order completes with its result and result data, and awaits writing. -/
def complete (slot : Nat) (r : ResultCode) (data : List Byte) (s : State) : State :=
  modXch (fun x => { x with
    store := x.store.modify slot (Option.map (fun e => { e with status := .completed r data false })) }) s

/-- An order that has no result data completes. -/
def finish (slot : Nat) (r : ResultCode) (s : State) : State := complete slot r [] s

/-- OK, or ADJUSTED where clamping changed a value. -/
def okOr (adjusted : Bool) : ResultCode := if adjusted then .adjusted else .ok

/-- An order command: where the slot may be taken, its order enters the store and its owner handles it; otherwise it
is passed over (R181, log 10). -/
def handOver (src : OrderSrc) (o : Order) (owner : Nat → State → State) (s : State) : State :=
  if canTake s src.slot.val then owner src.slot.val (takeOrder src.slot.val src.cookie o s) else s

/-! ## Publication and roll-call queues -/

/-- R92: queue a slot for publication once, keeping its place. -/
def queuePub (n : Nat) (s : State) : State :=
  modCrs (fun r => { r with queue := if n ∈ r.queue then r.queue else r.queue ++ [n] }) s

/-- Two paths agree in the fields a client record carries (R97). -/
def samePath (p q : Path) : Bool :=
  p.state == q.state && p.debt == q.debt && p.delay == q.delay && p.seeds == q.seeds && p.accepted == q.accepted &&
  p.outliers == q.outliers && p.rejects == q.rejects && p.timeouts == q.timeouts && p.late == q.late &&
  p.clamps == q.clamps

/-- Two contexts agree in the fields a client record carries, the version apart (ch. 5.6). -/
def sameMeasure (c d : Client) : Bool :=
  c.state == d.state && c.offsetV == d.offsetV && c.pulseV == d.pulseV && c.offset == d.offset &&
  c.pulseError == d.pulseError && c.selfStatus == d.selfStatus && c.lastHail == d.lastHail &&
  samePath c.paths.a d.paths.a && samePath c.paths.b d.paths.b

/-- R87, R97: queue the slot where a published field differs from what it was in `before`. -/
def queueIfChanged (n : Nat) (before : Client) (s : State) : State :=
  if sameMeasure (client s n) before then s else queuePub n s

/-- R130: join a port's roll-call queue, or clear the carried mark of the entry already there. -/
def joinRoll (p : Port) (n : Nat) (s : State) : State :=
  modBeacon p (fun b => { b with
    roll := if b.roll.any (·.slot == n) then b.roll.map (fun e => if e.slot = n then { e with carried := false } else e)
            else b.roll ++ [{ slot := n, carried := false }] }) s

/-- R132: leave a port's roll-call queue; a Beacon in build still carries the client but records nothing of it. -/
def leaveRoll (p : Port) (n : Nat) (s : State) : State :=
  modBeacon p (fun b => { b with
    roll := b.roll.filter (·.slot != n)
    built := b.built.map (fun bl => { bl with
      entries := bl.entries.map (fun e => if e.slot = n then { e with live := false } else e) }) }) s

/-! ## Client state (R83, R84) -/

/-- The paths of the ports the client may use. -/
def allowedPaths (c : Client) : List Path :=
  match c.config.allowed with
  | .a => [c.paths.a]
  | .b => [c.paths.b]
  | .both => [c.paths.a, c.paths.b]

/-- R83, lines 2 to 6: the state of a slot that holds a client. -/
def derivedState (c : Client) : ClientState :=
  if (allowedPaths c).all (·.state == .lost) then .silent
  else if c.reverify then .reverify
  else if !(c.paths.a.state == .valid || c.paths.b.state == .valid) then .admitted
  else if c.offsetV.verdict = .fail || c.pulseV.verdict = .fail then .astray
  else .following

/-- R84: a change of client state is journaled, queued for publication and, into or out of FOLLOWING, queued for
roll-call on each port on which the path is VALID. -/
def changeState (n : Nat) (st : ClientState) (cause : ClientCause) (s : State) : State :=
  let c := client s n
  let s1 := modClient n (fun c => { c with state := st }) s
  let s2 := stage (.clientState n c.config.addr c.state st cause c.offsetV.verdict c.pulseV.verdict
    c.paths.a.state c.paths.b.state) s1
  let s3 := queuePub n s2
  if (c.state == .following) == (st == .following) then s3
  else
    let s4 := if c.paths.a.state = .valid then joinRoll .a n s3 else s3
    if c.paths.b.state = .valid then joinRoll .b n s4 else s4

/-- R83: evaluate the state of a slot; nothing happens where it stays as it is or the slot is VACANT. -/
def evaluate (n : Nat) (cause : ClientCause) (s : State) : State :=
  let c := client s n
  if c.state = .vacant then s
  else if derivedState c = c.state then s
  else changeState n (derivedState c) cause s

/-- R86: one judged result applied to a verdict. -/
def judge (within : Bool) (j : Judged) : Judged :=
  if within then
    let w := min (j.within + 1) 2
    { verdict := if w = 2 then .pass else j.verdict, within := w, beyond := 0 }
  else
    let b := min (j.beyond + 1) 3
    { verdict := if b = 3 then .fail else j.verdict, within := 0, beyond := b }

/-- The slot of the non-VACANT client that holds an address (R89). -/
def clientByAddr (addr : MacAddr) (s : State) : Option Nat :=
  (occupied s).find? (fun n => (client s n).config.addr == addr)

end Sys2Proof.Machine
end

