-- ==== Sys2Proof/Machine/Timebase.lean ====
section
/-! DEFINITION. The Timebase's orders, the posted step, and what a tick does to device time (ch. 1). -/

namespace Sys2Proof.Machine

/-- R9: the servo's step becomes the posted step; a posted host step completes SUPERSEDED. -/
def postServoStep (delta : Int) (s : State) : State :=
  let s1 :=
    match s.tbs.posted with
    | some { delta := _, target := _, origin := .host slot } => finish slot .superseded s
    | _ => s
  modTbs (fun t => { t with posted := some { delta := delta, target := none, origin := .servo } }) s1

/-- R10: checks and posting of a host step. -/
def orderStep (p : StepP) (slot : Nat) (s : State) : State :=
  let delta := p.delta.toInt
  let target : Option Nat := if p.targetKind = 1 then none else some p.epoch.toNat
  if 1 < p.targetKind.toNat || decide (16000000000000000 < delta.natAbs) then finish slot .badField s
  else if s.tbs.posted.isSome then finish slot .busy s
  else if target.any (fun n => decide (n ≤ s.tbs.time.sec)) then finish slot .past s
  else modTbs (fun t => { t with posted := some { delta := delta, target := target, origin := .host slot } }) s

/-- The STEP command. -/
def execStep (src : OrderSrc) (p : StepP) (s : State) : Result :=
  .next (handOver src (.postStep p) (orderStep p) s)

/-- R13: the UTC offset saturates at its 16-bit limits. -/
def satOffset (v : Int) : Int := max (-32768) (min 32767 v)

/-- R14: a leap as UTC-SETUP carries it, or the refusal that its checks give. -/
def leapOf (p : UtcSetupP) (s : State) : Except ResultCode Leap :=
  if p.direction.toInt = 1 || p.direction.toInt = -1 then
    if p.leapEpoch.toNat ≤ s.tbs.time.sec then .error .past
    else .ok { epoch := p.leapEpoch.toNat, insert := p.direction.toInt = 1 }
  else .error .badField

/-- R14: UTC-SETUP. -/
def orderUtcSetup (p : UtcSetupP) (slot : Nat) (s : State) : State :=
  match p.operation.toNat with
  | 0 => finish slot .ok (modTbs (fun t => { t with utcOffset := p.offset.toInt }) s)
  | 1 =>
    match leapOf p s with
    | .error r => finish slot r s
    | .ok l => finish slot .ok (modTbs (fun t => { t with leap := some l }) s)
  | 2 =>
    match leapOf p s with
    | .error r => finish slot r s
    | .ok l => finish slot .ok (modTbs (fun t => { t with utcOffset := p.offset.toInt, leap := some l }) s)
  | 3 =>
    if s.tbs.leap.isSome then finish slot .ok (modTbs (fun t => { t with leap := none }) s)
    else finish slot .empty s
  | _ => finish slot .badField s

/-- The UTC_SETUP command. -/
def execUtcSetup (src : OrderSrc) (p : UtcSetupP) (s : State) : Result :=
  .next (handOver src (.utcSetup p) (orderUtcSetup p) s)

/-- What the blocks are told of a second boundary (R6, R8): the epoch second N, Δ of the step applied there, and the
device time of the boundary instant, in sixteenths, after that step (log 8). -/
structure Report where
  epoch : Nat
  step : Option Int
  instant : Nat
deriving DecidableEq, Repr

/-- One tick that crosses no boundary: the tick in progress ends (R1) and the next begins (R2 to R5). -/
def Timebase.plainTick (tb : Timebase) : Timebase :=
  ({ tb with
    time := tb.time.advance tb.tickInc, lastInc := tb.tickInc, stepTick := none,
    reachedFrom := tb.time.units + 1 } : Timebase).beginTick

/-- A posted step's Δ where it is applied at the boundary the tick in progress crosses (R8). -/
def Timebase.dueDelta (tb : Timebase) : Option Int :=
  if tb.stepDue then tb.posted.map (·.delta) else none

/-- What the boundary crossed by the tick in progress reports. -/
def Timebase.report (tb : Timebase) : Report :=
  match tb.dueDelta with
  | none => { epoch := tb.nextSec, step := none, instant := tb.nextSec * sixPerSec }
  | some d => { epoch := tb.nextSec, step := some d, instant := moveBy d (tb.nextSec * sixPerSec) }

/-- The tick that crosses a boundary: device time moves on, by Δ too where a step is applied, which also drops the
slew in progress (R4, R8); then the next tick begins. Edges before the boundary instant were reached before it. A `late` mark
of a step's tick is handled after this, so that what it writes to Φ and σ (R3, R4) acts one tick later than the first tick
after its own. DESIGN CHOICE (log 3). -/
def Timebase.boundaryTick (tb : Timebase) : Timebase :=
  match tb.dueDelta with
  | none => { tb.plainTick with reachedFrom := tb.report.instant * unitsPerSix }
  | some d =>
    ({ tb with
      time := (tb.time.advance tb.tickInc).stepBy d, slew := Slew.none, lastInc := tb.tickInc,
      stepTick := some { start := tb.time.units, delta := d }, reachedFrom := tb.report.instant * unitsPerSix } : Timebase).beginTick

/-- The period timer runs out by one oscillator tick (R179). -/
def tickTimer (s : State) : State := modXch (fun x => { x with timer := x.timer.map (· - 1), timeUp := false }) s

/-- R8, R11: the Timebase's part of a boundary at which its posted step was applied. -/
def stepApplied (r : Report) (s : State) : State :=
  match r.step, s.tbs.posted with
  | some d, some p =>
    let s1 := stage (.stepApplied p.origin r.epoch d) s
    let s2 :=
      match p.origin with
      | .servo => s1
      | .host slot => complete slot .ok (le 8 r.epoch ++ leInt 8 d ++ timeBytes (now s1)) s1
    modTbs (fun t => { t with posted := none }) s2
  | _, _ => s

/-- R15: the pending leap is applied once device seconds is its epoch or greater. After a step these are the seconds at the
end of the tick that crosses the boundary. DESIGN CHOICE (log 8). -/
def applyLeap (s : State) : State :=
  match s.tbs.leap with
  | none => s
  | some l =>
    if l.epoch ≤ s.tbs.time.sec then
      let offset := satOffset (s.tbs.utcOffset + (if l.insert then 1 else -1))
      stage (.leapApplied l.insert offset l.epoch)
        (modTbs (fun t => { t with utcOffset := offset, leap := none }) s)
    else s

/-- The Timebase at a reported boundary, once device time has moved. -/
def tbsBoundary (r : Report) (s : State) : State := applyLeap (stepApplied r s)

end Sys2Proof.Machine
end

