-- ==== Sys2Proof/Machine/Capture.lean ====
section
/-! DEFINITION. The Event Capture Unit (ch. 9): edges, captures, their judgement, CAPTURE-SETUP, and the pulse check
result taken by the Client Roster (R88). -/

namespace Sys2Proof.Machine

/-! ## Captures (R163 to R166) -/

/-- R163: the interval of a capture, absent without a latest capture or with the step mark set; 0 where the stamp is earlier
than the latest capture's, as after device time has returned to 0. DESIGN CHOICE (log 30). -/
def captureInterval (ci : CaptureIn) (stamp : Nat) : Option Nat :=
  match ci.latest with
  | none => none
  | some l => if ci.stepMark then none else some (min (stamp - l.stamp) 281474976710655)

/-- R164: why a capture is left unjudged, or the slot it is judged for. -/
def captureJudge (s : State) (i : Nat) : CaptureOutcome ⊕ Nat :=
  let ci := captureIn s i
  match ci.unjudged with
  | some .setup => .inl .setup
  | some .step => .inl .step
  | none =>
    match ci.slot with
    | none => .inl .noClient
    | some n =>
      if (client s n).state = .vacant then .inl .vacant
      else if (client s n).config.capture.any (fun c => c.val == i) then .inr n
      else .inl .mismatch

/-- R165: the pulse error P in sixteenths. -/
def pulseErrorOf (stamp delay : Nat) : Int := wrapSecond stamp - delay

/-- R165: the capture is within the tolerance of the client. -/
def pulseWithin (p : Int) (c : Client) : Bool := decide (p.natAbs ≤ c.config.pulseTol * 16)

/-- R88: the Client Roster takes a judged capture. -/
def pulseResult (n : Nat) (p : Int) (within : Bool) (s : State) : State :=
  queuePub n (evaluate n .verdict
    (modClient n (fun c => { c with pulseError := some p, pulseV := judge within c.pulseV }) s))

/-- R166: the CAPTURE record, unless the input is quiet. -/
def captureRecord (i : Fin 4) (cap : Captured) (interval : Option Nat) (outcome : CaptureOutcome) (p : Option Int)
    (s : State) : State :=
  if (captureIn s i.val).quiet then s
  else stage (.capture i cap.rising cap.stamp interval (captureIn s i.val).count outcome p) s

/-- R163: the input's own fields at a capture. -/
def storeCapture (cap : Captured) (ci : CaptureIn) : CaptureIn :=
  { ci with latest := some cap, count := incWrap16 ci.count, stepMark := false, unjudged := none }

/-- R163 to R166: one capture, carried through. -/
def capture (i : Fin 4) (cap : Captured) (s : State) : State :=
  let ci := captureIn s i.val
  let interval := captureInterval ci cap.stamp
  let s1 := modCapture i.val (storeCapture cap) s
  match captureJudge s i.val with
  | .inl why =>
    captureRecord i cap interval why none
      (modCapture i.val (fun c => { c with unjudgedCount := incSat16 c.unjudgedCount }) s1)
  | .inr n =>
    let p := pulseErrorOf cap.stamp ci.wiringDelay
    if pulseWithin p (client s n) then
      pulseResult n p true (captureRecord i cap interval .within (some p)
        (modCapture i.val (fun c => { c with withinCount := incSat16 c.withinCount }) s1))
    else
      pulseResult n p false (captureRecord i cap interval .beyond (some p)
        (modCapture i.val (fun c => { c with beyondCount := incSat16 c.beyondCount }) s1))

/-! ## Edges (R161, R162) -/

/-- R161: the direction is selected. -/
def selects (e : EdgeSelect) (rising : Bool) : Bool :=
  match e with
  | .off => false
  | .rising => rising
  | .falling => !rising
  | .both => true

/-- R161: a change of the line: a candidate edge, or a glitch. -/
def lineChange (i : Fin 4) (level : Bool) (at_ : Instant) (s : State) : State :=
  let ci := captureIn s i.val
  let s1 := modCapture i.val (fun c => { c with line := level }) s
  if ci.edge = .off then s1
  else if level = ci.settled then modCapture i.val (fun c => { c with candidate := none }) s1
  else if ci.candidate.isSome then s1
  else
    let t := s.tbs.stamp at_
    modCapture i.val (fun c => { c with
      candidate := some { stamp := t, rising := level, confirmAt := t + c.minWidth * 16 } }) s1

/-- The CAPTURE_LINE_CHANGE command. -/
def execCaptureLineChange (i : Fin 4) (level : Bool) (at_ : Instant) (s : State) : Result :=
  .next (lineChange i level at_ s)

/-- R161: a candidate edge is confirmed, and captured where its direction is selected. -/
def confirm (i : Fin 4) (cd : Candidate) (s : State) : State :=
  let s1 := modCapture i.val (fun c => { c with settled := cd.rising, candidate := none }) s
  if selects (captureIn s i.val).edge cd.rising then capture i { stamp := cd.stamp, rising := cd.rising } s1 else s1

/-- A candidate edge whose confirmation time passes the test is confirmed. -/
def confirmIf (reached : Nat → Bool) (i : Fin 4) (s : State) : State :=
  match (captureIn s i.val).candidate with
  | none => s
  | some cd => if reached cd.confirmAt then confirm i cd s else s

/-- The CAPTURE_CONFIRMATION command. -/
def execCaptureConfirmation (i : Fin 4) (s : State) : Result := .next (confirmIf s.tbs.reaches i s)

/-! ## CAPTURE-SETUP (R159, R160) -/

/-- R159: the associated slot: `some none` for NONE, `none` where it is neither a slot nor NONE. -/
def assocOf (n : BitVec 16) : Option (Option Nat) :=
  if n = 0xFFFF then some none else if n.toNat < 256 then some (some n.toNat) else none

/-- R159: the input that a CAPTURE-SETUP names. -/
def captureInputOf (b : Byte) : Option (Fin 4) :=
  if h : b.toNat < 4 then some ⟨b.toNat, h⟩ else none

/-- R159: the minimum width, held within its range and rounded down to a multiple of 100 ns. -/
def captureWidth (n : Nat) : Nat := clampNat 100 100000 n - clampNat 100 100000 n % 100

/-- R160: the settings written, with their effect on the input. -/
def setupInput (edge : EdgeSelect) (slot : Option Nat) (p : CaptureSetupP) (ci : CaptureIn) : CaptureIn :=
  let width := captureWidth p.minWidth.toNat
  let c1 := { ci with
    edge := edge, minWidth := width, wiringDelay := min p.wiringDelay.toNat 1600000, slot := slot
    quiet := flagOf p.quiet, unjudged := some .setup }
  if ci.edge = .off then
    if edge = .off then c1 else { c1 with settled := ci.line, candidate := none, latest := none }
  else if edge = .off then { c1 with candidate := none }
  else { c1 with candidate := ci.candidate.map (fun cd => { cd with confirmAt := cd.stamp + width * 16 }) }

/-- R160: the result data of CAPTURE-SETUP. -/
def captureData (ci : CaptureIn) : List Byte :=
  (match ci.latest with
    | none => zeros 14
    | some c => timeBytes c.stamp ++ le 1 (if c.rising then 1 else 2)) ++
  le 2 ci.count ++ le 2 ci.withinCount ++ le 2 ci.beyondCount ++ le 2 ci.unjudgedCount

/-- R159, R160: CAPTURE-SETUP. -/
def orderCaptureSetup (p : CaptureSetupP) (slot : Nat) (s : State) : State :=
  match captureInputOf p.input, edgeOf p.edge, assocOf p.slot with
  | some i, some edge, some assoc =>
    if assoc.isSome && edge == .both then finish slot .badField s
    else
      let adjusted := captureWidth p.minWidth.toNat != p.minWidth.toNat || decide (1600000 < p.wiringDelay.toNat)
      let s1 := modCapture i.val (setupInput edge assoc p) s
      let s2 := if (captureIn s i.val).edge = .off then s1 else confirmIf (fun t => decide (t ≤ now s)) i s1
      complete slot (okOr adjusted) (captureData (captureIn s2 i.val)) s2
  | _, _, _ => finish slot .badField s

/-- The CAPTURE_SETUP command. -/
def execCaptureSetup (src : OrderSrc) (p : CaptureSetupP) (s : State) : Result :=
  .next (handOver src (.captureSetup p) (orderCaptureSetup p) s)

/-! ## A second boundary (R167) -/

/-- R167: an input at an applied step. -/
def stepCapture (d : Int) (ci : CaptureIn) : CaptureIn :=
  { ci with
    unjudged := some .step, stepMark := true
    candidate := ci.candidate.map (fun cd => { cd with stamp := moveBy d cd.stamp, confirmAt := moveBy d cd.confirmAt }) }

/-- R167: the Event Capture Unit at a reported boundary: a confirmation that the move of a step places at or before the device
time after the step, here that at the end of the tick that crosses the boundary, is reached at once. DESIGN CHOICE (log 8). -/
def evcBoundary (r : Report) (s : State) : State :=
  match r.step with
  | none => s
  | some d =>
    forEach [(0 : Fin 4), 1, 2, 3] (confirmIf (fun t => decide (t ≤ now s)))
      { s with evc := s.evc.map (stepCapture d) }

end Sys2Proof.Machine
end

