-- ==== Sys2Proof/Machine/Beacon.lean ====
section
/-! DEFINITION. The Beacon Unit (ch. 7): schedule, building and completion of Beacons, roll-call and notices. -/

namespace Sys2Proof.Machine

/-! ## The schedule (R124 to R127) -/

/-- The spacing of the points of a rate, in sixteenths (ch. 7.1). -/
def spacing (rate : Nat) : Nat := sixPerSec / rate

/-- R124: the first point of a rate at or after the instant `t`. -/
def firstPoint (rate t : Nat) : Nat := (t + spacing rate - 1) / spacing rate * spacing rate

/-- R124: the point after the instant `t` that is itself a point of the rate in force. -/
def pointAfter (rate t : Nat) : Nat := (t / spacing rate + 1) * spacing rate

/-- The BEACON_POINT command (R124): the request is raised and the next instant set to the following point. -/
def execBeaconPoint (p : Port) (s : State) : Result :=
  .next (match (beaconPort s p).next with
    | none => s
    | some t =>
      if (link s p).state = .up ∧ s.tbs.reaches t then
        modLink p (fun l => { l with beaconReq := true })
          (modBeacon p (fun b => { b with next := some (pointAfter b.rate t) }) s)
      else s)

/-- R125: the port enters UP. -/
def beaconEnterUp (p : Port) (s : State) : State :=
  modBeacon p (fun b => { b with next := some (firstPoint b.rate (now s)) }) s

/-- R126: a beacon rate handed by PORT-SETUP, judged against the port state of that moment. -/
def handRate (p : Port) (rate : Nat) (s : State) : State :=
  if (link s p).state = .up then
    modBeacon p (fun b => { b with pendingRate := if rate = b.rate then none else some rate }) s
  else modBeacon p (fun b => { b with rate := rate, pendingRate := none }) s

/-- R1, R124: the next scheduled instant at a boundary. At the one where device seconds return to 0, an instant counted past
2^48 − 1 s becomes the same point from 0 s on. -/
def wrapNext (r : Report) (t : Nat) : Nat := if r.epoch = 0 then t - secSpan * sixPerSec else t

/-- R126, R127: the first point at or after the device time of the boundary; where the boundary's own point was taken before
the boundary, `next` lying past it, and the first point is that instant again, the one after it, so that one request is
raised there and one Beacon follows (log 31). -/
def reschedule (r : Report) (rate next : Nat) : Nat :=
  if r.epoch * sixPerSec < next ∧ firstPoint rate r.instant = r.instant then pointAfter rate r.instant
  else firstPoint rate r.instant

/-- R126, R127: the schedule at a boundary: a pending rate comes into force, and after it or after a step the next
instant is set anew. -/
def scheduleAt (r : Report) (b : BeaconPort) : BeaconPort :=
  let next := b.next.map (wrapNext r)
  match b.pendingRate, r.step with
  | none, none => { b with next := next }
  | some rate, _ => { b with rate := rate, pendingRate := none, next := some (reschedule r rate (next.getD 0)) }
  | none, some _ => { b with next := some (reschedule r b.rate (next.getD 0)) }

/-- R126, R127: the schedule of a port in UP at a boundary. -/
def boundarySchedule (r : Report) (p : Port) (s : State) : State :=
  if (link s p).state = .up then modBeacon p (scheduleAt r) s else s

/-! ## Notices (R134 to R139) -/

/-- The notice held at an index. -/
def noticeAt (s : State) (i : Nat) : Option Notice := s.bcu.notices.getD i none

/-- Change the notice at an index. -/
def modNotice (i : Nat) (f : Notice → Notice) (s : State) : State :=
  modBcu (fun b => { b with notices := b.notices.modify i (Option.map f) }) s

/-- A built notice of this index is no longer that of the block held. -/
def unbindNotice (i : Nat) (b : BeaconPort) : BeaconPort :=
  { b with built := b.built.map (fun bl => { bl with
      notices := bl.notices.map (fun n => if n.index = i then { n with live := false } else n) }) }

/-- Write a block or free it, for both ports' Beacons in build too (R135). -/
def putNotice (i : Nat) (n : Option Notice) (s : State) : State :=
  modBcu (fun b => { b with notices := b.notices.set i n, ports := mapPair (unbindNotice i) b.ports }) s

/-- R134: a block is due for a Beacon of the port. -/
def noticeDue (p : Port) (n : Notice) : Bool :=
  match n.mode with
  | .once => atPort n.owed p
  | .every => true
  | .nth _ => atPort n.wait p == 0
  | .until_ _ => true

/-- No port owes the block. -/
def nobodyOwes (n : Notice) : Bool := !n.owed.a && !n.owed.b

/-- R136: every port owed at posting carried the block. -/
def allCarried (n : Notice) : Bool := (!n.owedAtPost.a || n.carried.a) && (!n.owedAtPost.b || n.carried.b)

/-- R136: the cause of the freeing of a ONCE block. -/
def onceCause (n : Notice) : NoticeCause :=
  if !n.owedAtPost.a && !n.owedAtPost.b then .noneUp else if allCarried n then .sent else .portDown

/-- A block is freed with its NOTICE_DONE record (R136, R137). -/
def freeNotice (i : Nat) (n : Notice) (cause : NoticeCause) (s : State) : State :=
  stage (.noticeDone i n.mode n.carried cause) (putNotice i none s)

/-- R136: a ONCE block that no port owes is freed. -/
def settleOnce (i : Nat) (s : State) : State :=
  match noticeAt s i with
  | none => s
  | some n => if n.mode = .once ∧ nobodyOwes n then freeNotice i n (onceCause n) s else s

/-- R136: the port leaves UP; a ONCE block it owes is owed no longer. -/
def noticeLeaveUp (p : Port) (i : Nat) (s : State) : State :=
  match noticeAt s i with
  | none => s
  | some n =>
    if n.mode = .once ∧ atPort n.owed p then
      settleOnce i (modNotice i (fun n => { n with owed := modPort p (fun _ => false) n.owed }) s)
    else s

/-- R137: UNTIL blocks whose epoch device seconds has reached are freed. At a step these are the seconds at the end of the
tick that crosses the boundary. DESIGN CHOICE (log 8). -/
def noticeEpoch (i : Nat) (s : State) : State :=
  match noticeAt s i with
  | some n =>
    match n.mode with
    | .until_ epoch => if epoch ≤ s.tbs.time.sec then freeNotice i n .epoch s else s
    | .once => s
    | .every => s
    | .nth _ => s
  | none => s

/-- R138: the mode of a NOTICE-POST; `none` where the mode or N is out of its list. -/
def noticeModeOf (p : NoticePostP) : Option NoticeMode :=
  match p.mode.toNat with
  | 0 => some .once
  | 1 => some .every
  | 2 =>
    let n := p.param.toNat % 256
    if 2 ≤ n ∧ n ≤ 16 then some (.nth n) else none
  | 3 => some (.until_ p.param.toNat)
  | _ => none

/-- R134, R136: a block as posted; the ports in UP owe a ONCE block. -/
def freshNotice (mode : NoticeMode) (payload : List Byte) (s : State) : Notice :=
  let owed : Pair Bool :=
    if mode = .once then ⟨(link s .a).state == .up, (link s .b).state == .up⟩ else ⟨false, false⟩
  { mode := mode, payload := payload, owed := owed, owedAtPost := owed, wait := ⟨0, 0⟩, carried := ⟨false, false⟩ }

/-- R138: an UNTIL block's epoch has been reached already. -/
def untilPast (mode : NoticeMode) (s : State) : Bool :=
  match mode with
  | .until_ epoch => decide (epoch ≤ s.tbs.time.sec)
  | .once => false
  | .every => false
  | .nth _ => false

/-- R138: NOTICE-POST. -/
def orderNoticePost (p : NoticePostP) (slot : Nat) (s : State) : State :=
  match noticeModeOf p with
  | none => finish slot .badField s
  | some mode =>
    if 7 < p.index.toNat ∨ p.length.toNat < 1 ∨ 16 < p.length.toNat then finish slot .badField s
    else if untilPast mode s then finish slot .past s
    else
      let n := freshNotice mode (p.payload.take p.length.toNat) s
      finish slot .ok (settleOnce p.index.toNat (putNotice p.index.toNat (some n) s))

/-- The NOTICE_POST command. -/
def execNoticePost (src : OrderSrc) (p : NoticePostP) (s : State) : Result :=
  .next (handOver src (.noticePost p) (orderNoticePost p) s)

/-- R139: NOTICE-WITHDRAW. -/
def orderNoticeWithdraw (index : Byte) (slot : Nat) (s : State) : State :=
  if 7 < index.toNat then finish slot .badField s
  else if (noticeAt s index.toNat).isNone then finish slot .empty s
  else finish slot .ok (putNotice index.toNat none s)

/-- The NOTICE_WITHDRAW command. -/
def execNoticeWithdraw (src : OrderSrc) (index : Byte) (s : State) : Result :=
  .next (handOver src (.noticeWithdraw index) (orderNoticeWithdraw index) s)

/-! ## Building a Beacon (R128, R133, R135) -/

/-- R133: the roll-call entry of a slot, and what is recorded of it at the timestamp point. -/
def rollEntry (s : State) (p : Port) (n : Nat) : List Byte × BuiltEntry :=
  let c := client s n
  let q := path s n p
  let valid := q.state == .valid
  (rollBytes c.config.addr q.delay valid (c.state == .following),
   { slot := n, delay := if valid then q.delay else none, live := true })

/-- R135: the round-robin order of the blocks. -/
def roundRobin (last : Option Nat) : List Nat :=
  let start := match last with | none => 0 | some i => i + 1
  (List.range 8).map (fun k => (start + k) % 8)

/-- R135: the blocks that the next Beacon of a port carries. -/
def noticesFor (s : State) (p : Port) : List (Nat × Notice) :=
  ((roundRobin (beaconPort s p).lastNotice).filterMap (fun i =>
    match noticeAt s i with
    | none => none
    | some n => if noticeDue p n then some (i, n) else none)).take 2

/-- The leap indicator and epoch of a Beacon (R128). -/
def leapBytes (l : Option Leap) : List Byte :=
  match l with
  | none => be 1 0 ++ zeros 1 ++ be 8 0
  | some x => be 1 (if x.insert then 1 else 2) ++ zeros 1 ++ be 8 x.epoch

/-- R128: the body of a Beacon, its departure time left 0 for the port to fill. -/
def beaconBody (s : State) (p : Port) (entries : List (List Byte × BuiltEntry)) (ns : List (Nat × Notice)) : List Byte :=
  zeros 13 ++ be 1 s.bcu.cls ++ be 1 (servoCode s.dsv.state) ++ be 1 (activeCode s.rfi.active) ++
  beInt 2 s.tbs.utcOffset ++ leapBytes s.tbs.leap ++ be 2 (beaconPort s p).seq ++ be 1 entries.length ++
  be 1 ns.length ++ zeros 2 ++ (entries.map (·.1)).flatten ++ (ns.map (fun x => noticeBytes x.1 x.2.payload)).flatten

/-- R132: the first `k` entries of the queue are marked carried. -/
def markCarried (k : Nat) (roll : List RollEntry) : List RollEntry :=
  (roll.take k).map (fun e => { e with carried := true }) ++ roll.drop k

/-- R128: the frame of a Beacon built now, and the Beacon Unit with that Beacon in build. -/
def buildBeacon (p : Port) (s : State) : List Byte × State :=
  let entries := ((beaconPort s p).roll.take 6).map (fun e => rollEntry s p e.slot)
  let ns := noticesFor s p
  (frameBytes broadcast (link s p).settings kindBeacon (beaconBody s p entries ns),
   modBeacon p (fun b => { b with
     roll := markCarried 6 b.roll
     built := some { entries := entries.map (·.2), notices := ns.map (fun x => { index := x.1, live := true }) } }) s)

/-! ## Completion at the timestamp point (R129, R132, R135) -/

/-- R132: the announcement of a carried entry is recorded. -/
def recordAnnounced (p : Port) (stamp : Nat) (e : BuiltEntry) (s : State) : State :=
  if e.live then modPath e.slot p (fun q => { q with announcedAt := some stamp, announcedDelay := e.delay }) s else s

/-- R135: the progress of a carried block. -/
def carryNotice (p : Port) (n : Notice) : Notice :=
  let n1 := { n with carried := modPort p (fun _ => true) n.carried }
  match n.mode with
  | .once => { n1 with owed := modPort p (fun _ => false) n1.owed }
  | .nth k => { n1 with wait := modPort p (fun _ => k - 1) n1.wait }
  | .every => n1
  | .until_ _ => n1

/-- R135: the progress of a block that is not carried. -/
def passNotice (p : Port) (n : Notice) : Notice :=
  match n.mode with
  | .nth _ => { n with wait := modPort p (· - 1) n.wait }
  | .once => n
  | .every => n
  | .until_ _ => n

/-- R135: the progress of the block at an index, for a Beacon that carried `ns`. -/
def advanceNotice (p : Port) (ns : List BuiltNotice) (i : Nat) (s : State) : State :=
  match ns.find? (·.index == i) with
  | none => modNotice i (passNotice p) s
  | some b => if b.live then settleOnce i (modNotice i (carryNotice p) s) else s

/-- R129: the completion of the Beacon in build. -/
def completeBeacon (p : Port) (stamp : Nat) (s : State) : State :=
  match (beaconPort s p).built with
  | none => s
  | some b =>
    let s1 := forEach b.entries (recordAnnounced p stamp) s
    let s2 := modBeacon p (fun bp => { bp with
      seq := incWrap16 bp.seq
      roll := bp.roll.filter (fun e => !e.carried)
      built := none
      lastNotice := match b.notices.getLast? with | none => bp.lastNotice | some n => some n.index }) s1
    forEach (List.range 8) (advanceNotice p b.notices) s2

/-! ## Leaving UP (R125, R129, R136) -/

/-- R125, R129, R136: the port leaves UP. -/
def beaconLeaveUp (p : Port) (s : State) : State :=
  let s1 := modBeacon p (fun b => { b with
    next := none, rate := b.pendingRate.getD b.rate, pendingRate := none, built := none
    roll := b.roll.map (fun e => { e with carried := false }) }) s
  forEach (List.range 8) (noticeLeaveUp p) s1

/-! ## A second boundary -/

/-- R131: the announcement of a VALID path has aged, or was never made. -/
def announceAged (r : Report) (age : Nat) (q : Path) : Bool :=
  q.state == .valid && (match q.announcedAt with
    | none => true
    | some t => decide (t + age * sixPerSec < r.instant))

/-- R131: a client whose announcement has aged joins the port's queue. -/
def announceBoundary (r : Report) (p : Port) (n : Nat) (s : State) : State :=
  if announceAged r (client s n).config.announceAge (path s n p) then joinRoll p n s else s

/-- R131: the last announced times move by Δ. -/
def moveAnnounced (d : Int) (c : Client) : Client :=
  { c with paths := mapPair (fun q => { q with announcedAt := q.announcedAt.map (moveBy d) }) c.paths }

/-- The Beacon Unit at a reported boundary. -/
def bcuBoundary (r : Report) (s : State) : State :=
  let s1 :=
    match r.step with
    | none => s
    | some d => modCrs (fun c => { c with clients := c.clients.map (moveAnnounced d) }) s
  let s2 := boundarySchedule r .b (boundarySchedule r .a s1)
  let s3 := forEach (occupied s2) (fun n s => announceBoundary r .b n (announceBoundary r .a n s)) s2
  forEach (List.range 8) noticeEpoch s3

end Sys2Proof.Machine
end

