-- ==== Sys2Proof/Machine/Ranging.lean ====
section
/-! DEFINITION. The Ranging Engine (ch. 6): debt, eligibility, the rolling window, the outstanding-exchange tables and
the processing of an Echo. -/

namespace Sys2Proof.Machine

/-! ## The rolling window and the Range request (R100, R102) -/

/-- The window length in sixteenths. -/
def windowSpan (st : RangeSettings) : Nat := st.window * 16000

/-- R102: at device time `t` fewer than L departures lie within the window. -/
def windowPermits (st : RangeSettings) (history : List Nat) (t : Nat) : Bool :=
  decide ((history.filter (fun u => decide (t < u + windowSpan st))).length < st.limit)

/-- R102: the instant at which a closed window opens, from the L-th most recent departure. -/
def windowOpens (st : RangeSettings) (history : List Nat) (t : Nat) : Option Nat :=
  if windowPermits st history t then none
  else (history.reverse[st.limit - 1]?).map (· + windowSpan st)

/-- The path of slot `n` has an entry in the port's table. -/
def hasEntry (s : State) (p : Port) (n : Nat) : Bool := (rangePort s p).table.any (·.slot == n)

/-- R100: the path of slot `n` on port `p` is eligible. -/
def eligible (s : State) (p : Port) (n : Nat) : Bool :=
  decide (0 < (path s n p).debt) && !hasEntry s p n && (link s p).state == .up && (client s n).state != .vacant

/-- The eligible slots of a port, ascending. -/
def eligibleSlots (s : State) (p : Port) : List Nat := (occupied s).filter (eligible s p)

/-- R100: what the Range request is held on: an eligible path, a free entry and room in the window. -/
def launchPermitted (s : State) (p : Port) : Bool :=
  !(eligibleSlots s p).isEmpty && decide ((rangePort s p).table.length < 16) &&
  windowPermits s.rng.settings (rangePort s p).history (now s)

/-- R100, R102: the Range request and the window-opening instant are brought up to date (log 17). -/
def refreshRange (p : Port) (s : State) : State :=
  let present := launchPermitted s p
  let opens := windowOpens s.rng.settings (rangePort s p).history (now s)
  modRange p (fun r => { r with windowAt := opens }) (modLink p (fun l => { l with rangeReq := present }) s)

/-- Both ports' Range requests. -/
def refreshBoth (s : State) : State := refreshRange .b (refreshRange .a s)

/-- The WINDOW_OPENING command (R102): the window is open once device time is at or past the held instant. -/
def execWindowOpening (p : Port) (s : State) : Result :=
  .next (match (rangePort s p).windowAt with
    | none => s
    | some w => if w ≤ now s then refreshRange p s else s)

/-! ## Voiding and expiry (R107, R108) -/

/-- R108: the path's last-expired tag is cleared. -/
def clearExpired (n : Nat) (p : Port) (s : State) : State := modPath n p (fun q => { q with lastExpired := none }) s

/-- R108: every entry of a port is voided. -/
def voidPort (p : Port) (s : State) : State :=
  modRange p (fun r => { r with table := [] })
    (forEach (rangePort s p).table (fun e s => clearExpired e.slot p s) s)

/-- R108: the entry of one path is voided, if there is one. -/
def voidPath (n : Nat) (p : Port) (s : State) : State :=
  if hasEntry s p n then
    clearExpired n p (modRange p (fun r => { r with table := r.table.filter (·.slot != n) }) s)
  else s

/-- The entry of a port's table that holds a tag. -/
def entryOf (s : State) (p : Port) (tag : Byte) : Option Exchange := (rangePort s p).table.find? (·.tag == tag)

/-- The entry with a tag leaves the table. -/
def freeEntry (p : Port) (tag : Byte) (s : State) : State :=
  modRange p (fun r => { r with table := r.table.filter (·.tag != tag) }) s

/-- R107: an exchange expires. -/
def expire (p : Port) (tag : Byte) (e : Exchange) (s : State) : State :=
  let before := client s e.slot
  let s1 := modPath e.slot p (fun q => { q with timeouts := incSat16 q.timeouts, lastExpired := some tag })
    (freeEntry p tag s)
  refreshRange p (queueIfChanged e.slot before s1)

/-- The EXCHANGE_EXPIRY command (R107); the expiry is compared with the end of the last completed tick (R7). -/
def execExchangeExpiry (p : Port) (tag : Byte) (s : State) : Result :=
  .next (match entryOf s p tag with
    | none => s
    | some e => if s.tbs.passed e.expiry then expire p tag e s else s)

/-! ## The launch (R101, R103, R104) -/

/-- R101: the ranks, the best first: debt 8, LOST with the Hail-urgent mark, debts 7 to 1, LOST without it. -/
def launchRank (q : Path) : Nat :=
  if q.state = .lost then (if q.urgent then 1 else 10)
  else if q.debt = 8 then 0
  else 9 - q.debt

/-- R101: the launch arbiter's choice, the lower slot among equals. -/
def chooseLaunch (s : State) (p : Port) : Option Nat :=
  (eligibleSlots s p).foldl (fun best n =>
    match best with
    | none => some n
    | some b => if launchRank (path s n p) < launchRank (path s b p) then some n else some b) none

/-- R103: the tag counter increases, passing over the tags in use and the last-expired tag; at most 17 are passed
over, so that `fuel` 17 suffices. -/
def nextTag (used : List Byte) (lastExpired : Option Byte) : Nat → Byte → Byte
  | 0, t => t + 1
  | fuel + 1, t =>
    if (t + 1) ∈ used ∨ lastExpired = some (t + 1) then nextTag used lastExpired fuel (t + 1) else t + 1

/-- R103: the tag of the next exchange of slot `n`. -/
def launchTag (s : State) (p : Port) (n : Nat) : Byte :=
  nextTag ((rangePort s p).table.map (·.tag)) (path s n p).lastExpired 17 (rangePort s p).tagCounter

/-- R103: the entry is reserved. -/
def reserve (p : Port) (n : Nat) (tag : Byte) (s : State) : State :=
  modRange p (fun r => { r with
    tagCounter := tag, table := r.table ++ [{ tag := tag, slot := n, t1 := none, expiry := none }] }) s

/-- R102: a departure joins the launch history, which keeps the last 8. -/
def joinHistory (p : Port) (stamp : Nat) (s : State) : State :=
  modRange p (fun r => { r with
    history := (r.history ++ [stamp]).drop ((r.history ++ [stamp]).length - 8) }) s

/-- R104: t1 and the expiry enter the reserved entry with a tag. -/
def stampEntry (stamp wait : Nat) (tag : Byte) (e : Exchange) : Exchange :=
  if e.tag = tag ∧ e.t1 = none then { e with t1 := some stamp, expiry := some (stamp + wait * 16000) } else e

/-- R104: the departure of the Range with a tag to the client of slot `n`: its reserved entry, where it still stands, takes
t1 and its expiry; the path's Hail-urgent mark is cleared whether it stands or was voided. -/
def departed (p : Port) (n : Nat) (tag : Byte) (stamp : Nat) (s : State) : State :=
  let wait := s.rng.settings.echoWait
  let s1 := modRange p (fun r => { r with table := r.table.map (stampEntry stamp wait tag) }) s
  joinHistory p stamp (modPath n p (fun q => { q with urgent := false }) s1)

/-! ## Processing an Echo (R110 to R120) -/

/-- The fields of an Echo handed on by a port (R72). -/
structure Echo where
  src : MacAddr
  tag : Byte
  status : SelfStatus
  sec4 : Nat
  six : Nat
  ns : Nat
  turnaround : Nat
  t4 : Nat
deriving DecidableEq, Repr

/-- R110: the outcome of a processed Echo. -/
inductive EchoOutcome where
  | accepted | outlier | rejected
deriving DecidableEq, Repr

/-- What the filter makes of a sample: the outcome and the path after it, and the old D of a reseed. -/
structure Filtered where
  outcome : EchoOutcome
  path : Path
  reseedFrom : Option Nat
deriving DecidableEq, Repr

/-- R111: the round trip in sixteenths. -/
def roundTrip (t1 : Nat) (e : Echo) : Int := (e.t4 : Int) - t1 - e.turnaround

/-- R111: the round trip passes the checks. -/
def tripOk (ceiling : Nat) (rt : Int) : Bool := decide (0 ≤ rt) && decide (rt ≤ ceiling * 16)

/-- R112: the sample, floor((RT + A) / 2), and 0 where RT + A is below 0. -/
def sampleOf (rt asym : Int) : Nat := ((rt + asym) / 2).toNat

/-- R113: a first sample. -/
def firstSample (x : Nat) (q : Path) : Path := { q with delay := some x, seeds := 1, outlierRun := 0 }

/-- R113, R114: D moved toward a sample by its difference over `div`, rounded toward zero. -/
def moveDelay (d x : Nat) (div : Nat) : Nat :=
  (max 0 (min ((max32 : Nat) : Int) ((d : Int) + ((x : Int) - d).tdiv div))).toNat

/-- R115: a sample outside the gate; `seeds` is the seed count that a reseed leaves. -/
def outside (x d seeds : Nat) (q : Path) : Filtered :=
  if q.outlierRun < 3 then { outcome := .outlier, path := { q with outlierRun := q.outlierRun + 1 }, reseedFrom := none }
  else { outcome := .accepted, path := { q with delay := some x, outlierRun := 0, seeds := seeds }, reseedFrom := some d }

/-- |S − D| is not above the gate (R113, R114). -/
def withinGate (gate d x : Nat) : Bool := decide (((x : Int) - d).natAbs ≤ gate * 16)

/-- R113: a seeding sample within the gate. -/
def seedSample (d x : Nat) (q : Path) : Path :=
  { q with
    delay := some (moveDelay d x 2), seeds := q.seeds + 1, outlierRun := 0
    state := if 4 ≤ q.seeds + 1 then .valid else .seeding }

/-- R113 to R115: the filter. A path that is IDLE, or VALID without D, has no exchange; it is left as it is. -/
def filterSample (cfg : PathConfig) (x : Nat) (q : Path) : Filtered :=
  match q.state, q.delay with
  | .lost, _ =>
    { outcome := .accepted, path := { firstSample x q with state := .seeding, debt := 0, urgent := false }, reseedFrom := none }
  | .seeding, none => { outcome := .accepted, path := firstSample x q, reseedFrom := none }
  | .seeding, some d =>
    if withinGate cfg.gate d x then { outcome := .accepted, path := seedSample d x q, reseedFrom := none }
    else outside x d 1 q
  | .valid, some d =>
    if withinGate cfg.gate d x then
      { outcome := .accepted, path := { q with delay := some (moveDelay d x (2 ^ cfg.shift)), outlierRun := 0 }, reseedFrom := none }
    else outside x d q.seeds q
  | .valid, none => { outcome := .rejected, path := q, reseedFrom := none }
  | .idle, _ => { outcome := .rejected, path := q, reseedFrom := none }

/-- R111 to R115: the round-trip checks and, for an Echo that passes them, the sample and the filter. -/
def judgeEcho (cfg : PathConfig) (ceiling t1 : Nat) (e : Echo) (q : Path) : Filtered :=
  let rt := roundTrip t1 e
  if tripOk ceiling rt then
    filterSample cfg (sampleOf rt cfg.asymmetry)
      { q with clamps := if rt + cfg.asymmetry < 0 then incSat16 q.clamps else q.clamps }
  else { outcome := .rejected, path := q, reseedFrom := none }

/-- R99: a matched Echo pays one unit of a SEEDING or VALID path's debt. -/
def payDebt (before : PathState) (q : Path) : Path :=
  if before = .seeding ∨ before = .valid then { q with debt := q.debt - 1 } else q

/-- R110: each processed Echo increases one counter of the path. -/
def countOutcome (o : EchoOutcome) (q : Path) : Path :=
  match o with
  | .accepted => { q with accepted := incSat16 q.accepted }
  | .outlier => { q with outliers := incSat16 q.outliers }
  | .rejected => { q with rejects := incSat16 q.rejects }

/-- R116: the full t2 seconds, rebuilt from t1. -/
def rebuildSeconds (t1sec field4 : Nat) : Int :=
  let u := ((field4 : Int) - (t1sec % 16 : Nat)) % 16
  if u < 8 then t1sec + u else t1sec + u - 16

/-- R116, R117: O = t2 − t1 − D, within ±2,147,483,647 sixteenths. -/
def echoOffset (t1 d : Nat) (e : Echo) : Int :=
  let t2 := rebuildSeconds (secOf t1) e.sec4 * sixPerSec + e.ns * 16 + e.six
  clampSym 2147483647 (t2 - t1 - d)

/-- R87, steps 1 to 4: what the Roster stores of a reported outcome. -/
def storeOutcome (o : EchoOutcome) (status : SelfStatus) (offset : Int) (c : Client) : Client :=
  let c1 := { c with selfStatus := some status }
  match o with
  | .rejected => c1
  | .outlier => { c1 with offset := some offset }
  | .accepted =>
    { c1 with
      offset := some offset
      offsetV := judge (decide (offset.natAbs ≤ c.config.offsetTol * 16)) c.offsetV
      reverify := false }

/-- R84: the cause of a change that an Echo outcome makes. -/
def echoCause (pathChanged flagCleared : Bool) : ClientCause :=
  if pathChanged then .path else if flagCleared then .echo else .verdict

/-- R119: PATH_VALID where the path became VALID, PATH_STEP at a reseed. -/
def pathRecords (n : Nat) (p : Port) (before : PathState) (f : Filtered) (s : State) : State :=
  let q := path s n p
  let addr := (client s n).config.addr
  let s1 :=
    if q.state = .valid ∧ before ≠ .valid then
      stage (.pathValid n p addr q.debt (q.delay.getD 0) q.accepted q.outliers) s
    else s
  match f.reseedFrom with
  | none => s1
  | some d => stage (.pathStep n p addr q.state d (q.delay.getD 0)) s1

/-- R120: an Echo outcome queues the client for roll-call. -/
def announceAfter (before : PathState) (f : Filtered) (threshold : Nat) : Bool :=
  let q := f.path
  f.reseedFrom.isSome ||
  (q.state == .valid && f.outcome == .accepted &&
    (before != .valid ||
      (match q.announcedDelay with
        | none => true
        | some a => decide (threshold < (((q.delay.getD 0 : Nat) : Int) - a).natAbs))))

/-- R110 to R120: a matched Echo is processed. -/
def processEcho (n : Nat) (p : Port) (t1 : Nat) (e : Echo) (s : State) : State :=
  let before := client s n
  let q := path s n p
  let f := judgeEcho (atPort before.config.path p) s.rng.settings.ceiling t1 e q
  let q' := countOutcome f.outcome (payDebt q.state f.path)
  let s1 := pathRecords n p q.state f (modPath n p (fun _ => q') s)
  let offset := echoOffset t1 (q'.delay.getD 0) e
  let s2 := modClient n (storeOutcome f.outcome e.status offset) s1
  let cleared := before.reverify && f.outcome == .accepted
  let s3 := queueIfChanged n before (evaluate n (echoCause (q'.state != q.state) cleared) s2)
  if announceAfter q.state f before.config.announceThreshold then joinRoll p n s3 else s3

/-- R106: the live entry that an Echo matches. -/
def matchedEntry (p : Port) (e : Echo) (s : State) : Option Exchange :=
  (rangePort s p).table.find? (fun x =>
    x.tag == e.tag && x.t1.isSome && (client s x.slot).state != .vacant && (client s x.slot).config.addr == e.src)

/-- R106: the client whose last-expired tag on this port is the Echo's. -/
def lateClient (p : Port) (e : Echo) (s : State) : Option Nat :=
  (clientByAddr e.src s).filter (fun n => (path s n p).lastExpired == some e.tag)

/-- R106: an Echo is matched, late or stray. -/
def handleEcho (p : Port) (e : Echo) (s : State) : State :=
  match matchedEntry p e s with
  | some x => processEcho x.slot p (x.t1.getD 0) e (freeEntry p x.tag s)
  | none =>
    match lateClient p e s with
    | some n => queueIfChanged n (client s n) (modPath n p (fun q => { q with late := incSat16 q.late }) s)
    | none =>
      modLink p (fun l => { l with counters := { l.counters with stray := incWrap32 l.counters.stray } }) s

/-! ## RANGING-SETUP (R121) -/

/-- R121: the settings, each held within its range. -/
def rangeSettingsOf (p : RangingSetupP) : RangeSettings :=
  { limit := clampNat 1 8 p.launchLimit.toNat, window := clampNat 250 8000 p.window.toNat,
    echoWait := clampNat 100 16000 p.echoWait.toNat, ceiling := clampNat 1 1000000 p.ceiling.toNat }

/-- The settings as the order carries them. -/
def rangeSettingsRaw (p : RangingSetupP) : RangeSettings :=
  { limit := p.launchLimit.toNat, window := p.window.toNat, echoWait := p.echoWait.toNat, ceiling := p.ceiling.toNat }

/-- R121: RANGING-SETUP. -/
def orderRangingSetup (p : RangingSetupP) (slot : Nat) (s : State) : State :=
  finish slot (okOr (rangeSettingsOf p != rangeSettingsRaw p))
    (refreshBoth (modRng (fun r => { r with settings := rangeSettingsOf p }) s))

/-- The RANGING_SETUP command. -/
def execRangingSetup (src : OrderSrc) (p : RangingSetupP) (s : State) : Result :=
  .next (handOver src (.rangingSetup p) (orderRangingSetup p) s)

/-! ## A second boundary (R98, R109) -/

/-- R98: the path of slot `n` is due at epoch second `epoch`. -/
def due (s : State) (epoch n : Nat) (p : Port) : Bool :=
  let q := path s n p
  (q.state == .seeding || q.state == .valid) && (epoch + n) % 2 ^ (client s n).config.period == 0

/-- R98: one unit of debt on a due path, LOST with its record at 9. -/
def addDebt (epoch n : Nat) (p : Port) (s : State) : State :=
  if due s epoch n p then
    let q := path s n p
    if 9 ≤ q.debt + 1 then
      stage (.pathLost n p (client s n).config.addr q.delay q.timeouts q.rejects q.late)
        (modPath n p (fun q => { q with debt := 9, state := .lost, urgent := false }) s)
    else modPath n p (fun q => { q with debt := q.debt + 1 }) s
  else s

/-- R98, R120: the path has become LOST since `before`, so its client joins the port's roll-call queue. -/
def joinIfLost (before : Client) (n : Nat) (p : Port) (s : State) : State :=
  if (path s n p).state = .lost ∧ (atPort before.paths p).state ≠ .lost then joinRoll p n s else s

/-- R98: the debts of one client, A before B, then one evaluation (logs 18, 19). -/
def clientDebt (epoch n : Nat) (s : State) : State :=
  let before := client s n
  let s1 := addDebt epoch n .b (addDebt epoch n .a s)
  joinIfLost before n .b (joinIfLost before n .a (queueIfChanged n before (evaluate n .path s1)))

/-- R109: an applied step voids both tables and moves the launch histories, from which `refreshBoth` of the same boundary
computes the window-opening instants anew. -/
def rngStep (d : Int) (s : State) : State :=
  modRng (fun r => { r with ports := mapPair (fun q => { q with history := q.history.map (moveBy d) }) r.ports })
    (voidPort .b (voidPort .a s))

/-- R98, R109: the Ranging Engine at a reported boundary. A window-opening instant that the move of a step places at or before
the device time after the step, here that at the end of the tick that crosses the boundary (`now`), is reached at once. DESIGN
CHOICE (log 8). -/
def rngBoundary (r : Report) (s : State) : State :=
  let s1 := match r.step with | none => s | some d => rngStep d s
  refreshBoth (forEach (occupied s1) (clientDebt r.epoch) s1)

end Sys2Proof.Machine
end

