-- ==== Sys2Proof/Machine/Roster.lean ====
section
/-! DEFINITION. The Client Roster (ch. 5): admission, reconfiguration and retirement, Hails and the newcomer list,
and the Roster at a second boundary. -/

namespace Sys2Proof.Machine

/-- A path as ADMIT leaves it on an allowed port (R79). -/
def Path.seeding : Path := { Path.idle with state := .seeding, debt := 1 }

/-- R79: a path as ADMIT leaves it. -/
def freshPath (al : Allowed) (p : Port) : Path := if allows al p then Path.seeding else Path.idle

/-- R79: both paths as ADMIT leaves them. -/
def freshPaths (al : Allowed) : Pair Path := ⟨freshPath al .a, freshPath al .b⟩

/-- R79: the context that ADMIT makes, before its evaluation. -/
def admittedClient (cfg : ClientConfig) (old : Client) : Client :=
  { Client.reset with config := cfg, paths := freshPaths cfg.allowed, version := old.version }

/-- An address leaves the newcomer list (R79, R80). -/
def dropNewcomer (addr : MacAddr) (s : State) : State :=
  modCrs (fun r => { r with newcomers := r.newcomers.filter (·.addr != addr) }) s

/-- Another non-VACANT context holds the address (R78, R80). -/
def duplicateAddr (addr : MacAddr) (n : Nat) (s : State) : Bool :=
  (occupied s).any (fun m => m != n && (client s m).config.addr == addr)

/-- The evaluation of a slot whose order has just changed it, from any state (R83, R84). -/
def settleState (n : Nat) (st : ClientState) (cause : ClientCause) (s : State) : State :=
  if st = (client s n).state then s else changeState n st cause s

/-! ## ADMIT (R78, R79) -/

/-- R79: a successful ADMIT. -/
def makeClient (n : Nat) (cfg : ClientConfig) (s : State) : State :=
  let s1 := dropNewcomer cfg.addr (modClient n (admittedClient cfg) s)
  refreshBoth (settleState n (derivedState (client s1 n)) .admitted s1)

/-- R78: what decides ADMIT before the configuration group is read: a refusal, or the slot to be read. -/
def admitCheck (c : BitVec 16) (s : State) : Except ResultCode Nat :=
  match clientSlot c with
  | none => .error .badField
  | some n => if (client s n).state = .vacant then .ok n else .error .occupied

/-- R78, R79: ADMIT with its configuration group read. -/
def admitRead (n : Nat) (bytes : List Byte) (slot : Nat) (s : State) : State :=
  match parseConfig bytes with
  | none => finish slot .badField s
  | some (cfg, adjusted) =>
    if duplicateAddr cfg.addr n s then finish slot .duplicate s
    else finish slot (okOr adjusted) (makeClient n cfg s)

/-! ## RECONFIG (R80, R81) -/

/-- R80: what decides RECONFIG before the configuration group is read. -/
def reconfigCheck (c : BitVec 16) (s : State) : Except ResultCode Nat :=
  match clientSlot c with
  | none => .error .badField
  | some n => if (client s n).state = .vacant then .error .vacant else .ok n

/-- R81: the path after RECONFIG with the address unchanged; `changed` says that one of its three settings did. -/
def reconfigured (allowed changed : Bool) (q : Path) : Path :=
  match q.state with
  | .idle => if allowed then Path.seeding else q
  | .lost =>
    if !allowed then
      { q with state := .idle, debt := 0, delay := none, seeds := 0, outlierRun := 0, urgent := false,
               announcedDelay := none, announcedAt := none }
    else if changed then { q with delay := none, seeds := 0 } else q
  | .seeding | .valid =>
    if !allowed then
      { q with state := .idle, debt := 0, delay := none, seeds := 0, outlierRun := 0, urgent := false,
               announcedDelay := none, announcedAt := none }
    else if changed then { q with state := .seeding, delay := none, seeds := 0, outlierRun := 0 } else q

/-- R81: one port's path under RECONFIG with the address unchanged. -/
def reconfigPath (n : Nat) (p : Port) (old new : ClientConfig) (s : State) : State :=
  let q := path s n p
  let allowed := allows new.allowed p
  let changed := atPort old.path p != atPort new.path p
  let s1 := modPath n p (reconfigured allowed changed) s
  if q.state = .idle then s1
  else if !allowed then leaveRoll p n (voidPath n p s1)
  else if changed && q.state == .valid then joinRoll p n s1
  else s1

/-- R80: RECONFIG to another address. -/
def readdress (n : Nat) (new : ClientConfig) (s : State) : State :=
  let s1 := leaveRoll .b n (leaveRoll .a n (voidPath n .b (voidPath n .a s)))
  dropNewcomer new.addr (modClient n (fun c => { c with
    paths := freshPaths new.allowed, offsetV := Judged.reset, pulseV := Judged.reset, offset := none,
    pulseError := none, selfStatus := none, lastHail := none }) s1)

/-- R80: the new configuration copy is installed and acts, field by field. -/
def installConfig (n : Nat) (new : ClientConfig) (s : State) : State :=
  let old := (client s n).config
  let s1 := modClient n (fun c => { c with config := new }) s
  let s2 :=
    if old.addr != new.addr then readdress n new s1
    else reconfigPath n .b old new (reconfigPath n .a old new s1)
  let s3 :=
    if old.capture != new.capture then
      modClient n (fun c => { c with pulseV := Judged.reset, pulseError := none }) s2
    else s2
  refreshBoth (queuePub n (evaluate n .reconfig s3))

/-- R80: RECONFIG with its configuration group read. -/
def reconfigRead (n : Nat) (bytes : List Byte) (slot : Nat) (s : State) : State :=
  match parseConfig bytes with
  | none => finish slot .badField s
  | some (cfg, adjusted) =>
    if duplicateAddr cfg.addr n s then finish slot .duplicate s
    else finish slot (okOr adjusted) (installConfig n cfg s)

/-- The configuration group of a client slot in memory (R76, ch. 11.5). -/
def configGroup (n : Nat) (s : State) : List Byte := Memory.block s.mem (baseAddr s.xch) (clientOffset n) 48

/-- ADMIT handled with its read at once. -/
def orderAdmit (c : BitVec 16) (slot : Nat) (s : State) : State :=
  match admitCheck c s with
  | .error r => finish slot r s
  | .ok n => admitRead n (configGroup n s) slot s

/-- RECONFIG handled with its read at once. -/
def orderReconfig (c : BitVec 16) (slot : Nat) (s : State) : State :=
  match reconfigCheck c s with
  | .error r => finish slot r s
  | .ok n => reconfigRead n (configGroup n s) slot s

/-- The ADMIT command. -/
def execAdmit (src : OrderSrc) (c : BitVec 16) (host : HostWrites) (s : State) : Result :=
  .next (handOver src (.admitClient c) (orderAdmit c) (modMem (Memory.writeAll host) s))

/-- The RECONFIG command. -/
def execReconfig (src : OrderSrc) (c : BitVec 16) (host : HostWrites) (s : State) : Result :=
  .next (handOver src (.reconfig c) (orderReconfig c) (modMem (Memory.writeAll host) s))

/-! ## RETIRE (R82) -/

/-- R82: the context that RETIRE leaves, before its state changes. -/
def retiredClient (c : Client) : Client :=
  { Client.reset with config := c.config, state := c.state, version := c.version }

/-- R82: RETIRE of a slot that holds a client. -/
def removeClient (n : Nat) (s : State) : State :=
  let s1 := leaveRoll .b n (leaveRoll .a n (voidPath n .b (voidPath n .a s)))
  refreshBoth (changeState n .vacant .retire (modClient n retiredClient s1))

/-- R82: RETIRE. -/
def orderRetire (c : BitVec 16) (slot : Nat) (s : State) : State :=
  match reconfigCheck c s with
  | .error r => finish slot r s
  | .ok n => finish slot .ok (removeClient n s)

/-- The RETIRE command. -/
def execRetire (src : OrderSrc) (c : BitVec 16) (s : State) : Result :=
  .next (handOver src (.retire c) (orderRetire c) s)

/-! ## Hails (R89, R90) -/

/-- A Hail handed on by a port (R72). -/
structure Hail where
  src : MacAddr
  kind : ClientKind
  period : Nat
  stamp : Nat
deriving DecidableEq, Repr

/-- R89: a Hail of an admitted client. -/
def knownHail (n : Nat) (p : Port) (stamp : Nat) (s : State) : State :=
  let s1 := queuePub n (modClient n (fun c => { c with lastHail := some stamp }) s)
  if (path s n p).state = .lost then modPath n p (fun q => { q with urgent := true }) s1 else s1

/-- R90: a Hail of any other address. -/
def newcomerHail (p : Port) (h : Hail) (s : State) : State :=
  if s.crs.newcomers.any (·.addr == h.src) then
    modCrs (fun r => { r with
      newcomers := r.newcomers.map (fun e => if e.addr = h.src then { e with heard := h.stamp } else e) }) s
  else if s.crs.newcomers.length < 16 then
    let s1 := modCrs (fun r => { r with newcomers := r.newcomers ++ [{ addr := h.src, heard := h.stamp }] }) s
    stage (.hail p h.src h.kind h.period s1.crs.newcomers.length s1.crs.overflow) s1
  else modCrs (fun r => { r with overflow := incSat16 r.overflow }) s

/-- R89, R90: a Hail. -/
def handleHail (p : Port) (h : Hail) (s : State) : State :=
  match clientByAddr h.src s with
  | some n => knownHail n p h.stamp s
  | none => newcomerHail p h s

/-! ## A second boundary (R85, R91) -/

/-- R85: one client at an applied step. -/
def stepClient (n : Nat) (s : State) : State :=
  let before := client s n
  queueIfChanged n before (evaluate n .step
    (modClient n (fun c => { c with reverify := true, offsetV := Judged.reset, pulseV := Judged.reset }) s))

/-- R85, R91: the Roster at an applied step. -/
def crsStep (d : Int) (s : State) : State :=
  forEach (occupied s) stepClient
    (modCrs (fun r => { r with newcomers := r.newcomers.map (fun e => { e with heard := moveBy d e.heard }) }) s)

/-- R91: the newcomers heard within 60 s of the boundary. -/
def ageNewcomers (r : Report) (s : State) : State :=
  modCrs (fun c => { c with newcomers := c.newcomers.filter (fun e => decide (r.instant < e.heard + 960000000000)) }) s

/-- The Roster at a reported boundary. -/
def crsBoundary (r : Report) (s : State) : State :=
  ageNewcomers r (match r.step with | none => s | some d => crsStep d s)

end Sys2Proof.Machine
end

