-- ==== Sys2Proof/Machine/Links.lean ====
section
/-! DEFINITION. The Link Ports (ch. 4): port state, PORT-SETUP, the transmit arbiter, timestamp points and the
receive filter. -/

namespace Sys2Proof.Machine

/-! ## Port state (R61, R62) -/

/-- R62: the frames in hand of a port that leaves UP. From the end of a sent frame to ARBITER_FREE the frame still stands in
`tx`, so that a port that leaves UP in that gap ends it with the error indication too. DESIGN CHOICE (log 27). -/
def dropFrames (new : PortState) (l : LinkPort) : LinkPort :=
  { l with
    state := new, beaconReq := false, rangeReq := false, tx := none, rx := none
    macError := l.macError || l.tx.any (·.stamped) }

/-- R61, R62: the port leaves UP. -/
def leaveUp (p : Port) (new : PortState) (s : State) : State :=
  refreshRange p (beaconLeaveUp p (voidPort p (modLink p (dropFrames new) s)))

/-- R61, R125: the port enters UP. -/
def enterUp (p : Port) (s : State) : State :=
  refreshRange p (beaconEnterUp p (modLink p (fun l => { l with state := .up }) s))

/-- R61: the link-status input takes a level. -/
def linkLevel (p : Port) (level : Bool) (s : State) : State :=
  let s1 := modLink p (fun l => { l with link := level }) s
  match (link s p).state with
  | .disabled => s1
  | .down => if level then enterUp p s1 else s1
  | .up => if level then s1 else leaveUp p .down s1

/-- The LINK_STATUS_CHANGE command. -/
def execLinkStatusChange (p : Port) (level : Bool) (s : State) : Result := .next (linkLevel p level s)

/-! ## PORT-SETUP (R63, R64) -/

/-- R63: the settings of a PORT-SETUP that passes its checks. -/
def portSettingsOf (p : PortSetupP) : Option (Port × PortSettings) :=
  match portOf p.port with
  | none => none
  | some port =>
    if p.typeCode = 0 || isMulticast p.station || !(p.rate.toNat ∈ [1, 2, 4, 8, 16]) then none
    else some (port,
      { enable := flagOf p.enable, station := p.station, typeCode := p.typeCode, domain := p.domain,
        rate := p.rate.toNat, reporting := flagOf p.reporting })

/-- R61: the enable setting acts on the port state. -/
def enableEffect (p : Port) (enable : Bool) (s : State) : State :=
  match (link s p).state with
  | .disabled =>
    if !enable then s
    else if (link s p).link then enterUp p s
    else modLink p (fun l => { l with state := .down }) s
  | .down => if enable then s else modLink p (fun l => { l with state := .disabled }) s
  | .up => if enable then s else leaveUp p .disabled s

/-- R63, R64, R126: PORT-SETUP; the beacon rate is handed over before the enable setting acts. -/
def orderPortSetup (p : PortSetupP) (slot : Nat) (s : State) : State :=
  match portSettingsOf p with
  | none => finish slot .badField s
  | some (port, st) =>
    let s1 := modLink port (fun l => { l with
      settings := st, holdoff := if st.enable && st.reporting then l.holdoff else none }) s
    finish slot .ok (refreshRange port (enableEffect port st.enable (handRate port st.rate s1)))

/-- The PORT_SETUP command. -/
def execPortSetup (src : OrderSrc) (p : PortSetupP) (s : State) : Result :=
  .next (handOver src (.portSetup p) (orderPortSetup p) s)

/-! ## The transmit arbiter (R68) -/

/-- A granted frame starts (R69). It ends the error indication of a frame cut off before it, whose length R62 leaves open.
DESIGN CHOICE (log 27). -/
def startFrame (p : Port) (kind : TxKind) (bytes : List Byte) (s : State) : State :=
  modLink p (fun l => { l with macError := false, tx := some { kind := kind, bytes := bytes, stamped := false } }) s

/-- R68, R128: the grant of a Beacon. -/
def grantBeacon (p : Port) (s : State) : State :=
  let s1 := modLink p (fun l => { l with beaconReq := false }) s
  startFrame p .beacon (buildBeacon p s1).1 (buildBeacon p s1).2

/-- R68, R103: the grant of a Range; one that finds no eligible path does nothing. -/
def grantRange (p : Port) (s : State) : State :=
  let s1 := modLink p (fun l => { l with rangeReq := false }) s
  match chooseLaunch s1 p with
  | none => s1
  | some n =>
    let tag := launchTag s1 p n
    let bytes := frameBytes (client s1 n).config.addr (link s1 p).settings kindRange ([tag] ++ zeros 1)
    refreshRange p (startFrame p (.range n tag) bytes (reserve p n tag s1))

/-- R68: the arbiter is free and grants, a Beacon before a Range. -/
def grant (p : Port) (s : State) : State :=
  if (link s p).beaconReq then grantBeacon p s
  else if (link s p).rangeReq then grantRange p s
  else s

/-- R68: the arbiter becomes free; a frame whose timestamp point is not passed is still being sent. -/
def arbiterFree (p : Port) (s : State) : State :=
  if (link s p).state = .up then
    if (link s p).tx.any (fun t => !t.stamped) then s
    else grant p (refreshRange p (modLink p (fun l => { l with tx := none }) s))
  else s

/-- The ARBITER_FREE command. -/
def execArbiterFree (p : Port) (s : State) : Result := .next (arbiterFree p s)

/-! ## Timestamp points (R66, R67, R69) -/

/-- R67, R69: the frame leaves; it is counted, and the wire carries it with its check sequence. -/
def frameLeaves (t : TxFrame) (stamp : Nat) (l : LinkPort) : LinkPort :=
  let sent (bytes : List Byte) : List Byte := bytes ++ fcsOf bytes
  let l1 := { l with tx := some { t with stamped := true } }
  match t.kind with
  | .beacon =>
    { l1 with sent := sent (withDeparture t.bytes stamp)
              counters := { l.counters with beacons := incWrap32 l.counters.beacons } }
  | .range _ _ =>
    { l1 with sent := sent t.bytes, counters := { l.counters with ranges := incWrap32 l.counters.ranges } }

/-- R66, R69: a sent frame passes its timestamp point, in the time before or after a step of its tick (R7). -/
def txTimestamp (p : Port) (at_ : Instant) (s : State) : State :=
  match (link s p).tx with
  | none => s
  | some t =>
    if t.stamped then s
    else
      let stamp := s.tbs.stamp at_
      let s1 := modLink p (frameLeaves t stamp) s
      refreshRange p (match t.kind with
        | .beacon => completeBeacon p stamp s1
        | .range n tag => departed p n tag stamp s1)

/-- The TX_TIMESTAMP_POINT command. -/
def execTxTimestampPoint (p : Port) (at_ : Instant) (s : State) : Result := .next (txTimestamp p at_ s)

/-- R66: the first byte of a frame arrives on a port in UP. -/
def rxTimestamp (p : Port) (at_ : Instant) (s : State) : State :=
  if (link s p).state = .up then modLink p (fun l => { l with rx := some (s.tbs.stamp at_) }) s else s

/-- The RECEIVE_TIMESTAMP_POINT command. -/
def execReceiveTimestampPoint (p : Port) (at_ : Instant) (s : State) : Result := .next (rxTimestamp p at_ s)

/-! ## Receiving (R70 to R73) -/

/-- R70: the receive filter. -/
def filterPasses (st : PortSettings) (bs : List Byte) : Bool :=
  let f := parseFrame bs
  frameIntact bs && f.etherType == st.typeCode && (f.dest == st.station || f.dest == broadcast)

/-- R71: the checks on every BTX frame. -/
def btxOk (st : PortSettings) (f : RxFrame) : Bool :=
  f.version == 1 && decide (f.bodyLen ≤ f.body.length) && f.domain == st.domain && !isMulticast f.src

/-- R72: the fields of an Echo, where they pass their checks. -/
def echoOf (f : RxFrame) (stamp : Nat) : Option Echo :=
  match selfStatusOf (byteAt f.body 1) with
  | none => none
  | some status =>
    if f.bodyLen = 12 ∧ fieldBe f.body 4 4 ≤ 999999999 ∧ (byteAt f.body 3).toNat ≤ 15 then
      some { src := f.src, tag := byteAt f.body 0, status := status, sec4 := (byteAt f.body 2).toNat % 16,
             six := (byteAt f.body 3).toNat, ns := fieldBe f.body 4 4, turnaround := fieldBe f.body 8 4, t4 := stamp }
    else none

/-- R72: the fields of a Hail, where they pass their checks. -/
def hailOf (f : RxFrame) (stamp : Nat) : Option Hail :=
  match clientKindOf (byteAt f.body 0) with
  | none => none
  | some kind =>
    if f.bodyLen = 2 ∧ (byteAt f.body 1).toNat ≤ 7 then
      some { src := f.src, kind := kind, period := (byteAt f.body 1).toNat, stamp := stamp }
    else none

/-- A frame is dropped and counted (R71 to R73). -/
def dropFrame (p : Port) (s : State) : State :=
  modLink p (fun l => { l with counters := { l.counters with dropped := incWrap32 l.counters.dropped } }) s

/-- R73: a Beacon that passed its field check. -/
def receiveBeacon (p : Port) (f : RxFrame) (stamp : Nat) (s : State) : State :=
  if f.src = s.lnk.a.settings.station ∨ f.src = s.lnk.b.settings.station ∨ !(link s p).settings.reporting then
    dropFrame p s
  else
    let s1 := modLink p (fun l => { l with counters := { l.counters with foreign := incWrap32 l.counters.foreign } }) s
    if (link s p).holdoff.isSome then s1
    else
      stage (.foreignBeacon p f.src (byteAt f.body 13) (byteAt f.body 14) (fieldBe f.body 28 2) (link s1 p).counters.foreign)
        (modLink p (fun l => { l with holdoff := some (stamp + 160000000000) }) s1)

/-- R72: dispatch by kind. -/
def dispatch (p : Port) (f : RxFrame) (stamp : Nat) (s : State) : State :=
  match f.kind.toNat with
  | 1 => if 34 ≤ f.bodyLen then receiveBeacon p f stamp s else dropFrame p s
  | 3 =>
    match echoOf f stamp with
    | none => dropFrame p s
    | some e =>
      handleEcho p e
        (modLink p (fun l => { l with counters := { l.counters with echoes := incWrap32 l.counters.echoes } }) s)
  | 4 =>
    match hailOf f stamp with
    | none => dropFrame p s
    | some h =>
      handleHail p h
        (modLink p (fun l => { l with counters := { l.counters with hails := incWrap32 l.counters.hails } }) s)
  | _ => dropFrame p s

/-- R70 to R72: a frame received from its start on ends. -/
def frameReceived (p : Port) (bytes : List Byte) (s : State) : State :=
  match (link s p).rx with
  | none => s
  | some stamp =>
    let s1 := modLink p (fun l => { l with rx := none }) s
    let st := (link s p).settings
    if filterPasses st bytes then
      refreshRange p (if btxOk st (parseFrame bytes) then dispatch p (parseFrame bytes) stamp s1 else dropFrame p s1)
    else s1

/-- The FRAME_RECEIVED command. -/
def execFrameReceived (p : Port) (bytes : List Byte) (s : State) : Result := .next (frameReceived p bytes s)

/-- The HOLDOFF_EXPIRY command (R73). -/
def execHoldoffExpiry (p : Port) (s : State) : Result :=
  .next (if s.tbs.reachesOpt (link s p).holdoff then modLink p (fun l => { l with holdoff := none }) s else s)

/-! ## A second boundary (R73) -/

/-- R73: an applied step moves the holdoff deadlines; one it places at or before device time is reached at once, device time
being that at the end of the tick that crosses the boundary. DESIGN CHOICE (log 8). -/
def lnkBoundary (r : Report) (s : State) : State :=
  match r.step with
  | none => s
  | some d =>
    { s with lnk := mapPair (fun l => { l with
        holdoff := (l.holdoff.map (moveBy d)).filter (fun t => decide (now s < t)) }) s.lnk }

end Sys2Proof.Machine
end

