-- ==== Sys2Proof/Machine/Gate.lean ====
section
/-! DEFINITION. The output gate (ch. 8.6) and the class copies handed out by the servo (R57). -/

namespace Sys2Proof.Machine

/-- The channels whose pulse a closing gate cuts: gated, with a pulse in progress. -/
def cutChannels (s : State) : List Nat :=
  (s.pou.channels.zipIdx.filter (fun p => p.1.active.gated && p.1.fall.isSome)).map (·.2)

/-- R155: an OPEN gate closes, cutting the pulses of gated channels, with its record; a CLOSED one is left. -/
def closeGate (cause : GateCause) (s : State) : State :=
  if s.pou.gateOpen then
    stage (.gateClosed cause s.pou.cls s.pou.floor s.pou.inhibit (cutChannels s))
      (modPou (fun u => { u with
        gateOpen := false
        channels := u.channels.map (fun c => if c.active.gated then { c with fall := none } else c) }) s)
  else s

/-- The Pulse Output Unit takes a new class; one above the floor closes the gate (R155). -/
def pouClass (cls : Nat) (s : State) : State :=
  let s1 := modPou (fun u => { u with cls := cls }) s
  if s1.pou.floor < cls then closeGate .cls s1 else s1

/-- R157: GATE-SETUP. -/
def orderGateSetup (floor : Byte) (slot : Nat) (s : State) : State :=
  let f := clampNat 1 6 floor.toNat
  let s1 := modPou (fun u => { u with floor := f }) s
  let s2 := if f < s1.pou.cls then closeGate .floor s1 else s1
  finish slot (okOr (f != floor.toNat)) s2

/-- The GATE_SETUP command. -/
def execGateSetup (src : OrderSrc) (floor : Byte) (s : State) : Result :=
  .next (handOver src (.gateSetup floor) (orderGateSetup floor) s)

/-- R156: GATE-OPEN. -/
def orderGateOpen (slot : Nat) (s : State) : State :=
  if s.pou.floor < s.pou.cls then finish slot .qualityLow s
  else if s.pou.inhibit then finish slot .inhibited s
  else if s.pou.gateOpen then finish slot .ok s
  else
    finish slot .ok (stage (.gateOpened s.pou.cls s.pou.floor) (modPou (fun u => { u with gateOpen := true }) s))

/-- The GATE_OPEN command. -/
def execGateOpen (src : OrderSrc) (s : State) : Result := .next (handOver src .gateOpen orderGateOpen s)

/-- R155: assertion of the output inhibit input closes the gate. -/
def execInhibitAssert (s : State) : Result :=
  .next (closeGate .inhibit (modPou (fun u => { u with inhibit := true }) s))

/-- R155, R156: release of the output inhibit input; the gate stays as it is. -/
def execInhibitDeassert (s : State) : Result := .next (modPou (fun u => { u with inhibit := false }) s)

end Sys2Proof.Machine
end

