-- ==== Sys2Proof/Machine/Pulse.lean ====
section
/-! DEFINITION. The pulse channels (ch. 8): schedules, edges, programming, synchronized start and steps. Edge times
count nanoseconds since 0 s 0 ns. -/

namespace Sys2Proof.Machine

/-! ## Edges (R141 to R146) -/

/-- R142: `r` is a rising edge of the schedule. -/
def isRising (sc : Schedule) (r : Nat) : Bool :=
  match sc.mode with
  | .off => false
  | .second => r % nsPerSec == sc.phase
  | .mark => r % nsPerSec == sc.phase
  | .train => r % sc.period == sc.phase % sc.period
  | .single => r == sc.start

/-- R142, R143: the width of a pulse that rises now. -/
def pulseWidth (cls : Nat) (sc : Schedule) : Nat :=
  if sc.mode = .mark ∧ sc.markClass < cls then sc.longWidth else sc.width

/-- A channel the gate silences (R154). -/
def gateSilences (s : State) (sc : Schedule) : Bool := sc.gated && !s.pou.gateOpen

/-- R141: the level of the output of channel `c`, high for `true`. -/
def outputLevel (s : State) (c : Nat) : Bool :=
  let ch := channel s c
  ch.active.idleHigh != (ch.state == .running && ch.fall.isSome && !gateSilences s ch.active)

/-- Device time reaches the instant `d` on the output stage. In a tick that crosses a boundary this holds up to the
boundary, and short of it where a step is applied there (R144). -/
def edgeReached (tb : Timebase) (d : Nat) : Bool :=
  if tb.atBoundary then
    if tb.stepDue then decide (d < tb.boundarySix) else decide (d ≤ tb.boundarySix)
  else tb.reaches d

/-- R145: the rising edge `r` is reached now: not passed over by a step, not yet past, and, at a boundary at which a
new schedule comes in, before it. An edge at the boundary instant that is taken before a PULSE-PROGRAM or a STEP of the same
instant is driven by the schedule and the time of then, and the order still acts at that boundary. DESIGN CHOICE (log 6). -/
def risingReached (tb : Timebase) (ch : Channel) (r : Nat) : Bool :=
  decide (tb.reachedFrom ≤ r * unitsPerNs) && edgeReached tb (r * 16) &&
  !(tb.atBoundary && ch.pending.isSome && r * 16 == tb.boundarySix)

/-- R144: the position of an edge `off` fraction units into a tick of increment `inc`, the later of two as near. -/
def positionIn (off inc : Nat) : Nat := min 8 ((16 * off + inc) / (2 * inc))

/-- R144: the first position at or after `off` fraction units into a tick of increment `inc`. -/
def positionFrom (off inc : Nat) : Nat := (8 * off + inc - 1) / inc

/-- R144: the position of an edge in the tick in progress or in the last completed one (log 25). In the tick of a step only
the positions on the edge's own side of the boundary instant have device times of its time (R8). -/
def placedAt (tb : Timebase) (edge : Nat) : Nat :=
  let u := edge * unitsPerNs
  if tb.time.units < u then
    let near := positionIn (u - tb.time.units) tb.tickInc
    if tb.stepDue then
      min near (positionFrom (tb.boundarySix * unitsPerSix - tb.time.units) tb.tickInc - 1)
    else near
  else
    let near := positionIn (tb.lastInc - (tb.time.units - u)) tb.lastInc
    if tb.stepTick.isSome then max near (positionFrom (tb.lastInc - (tb.time.units - tb.reachedFrom)) tb.lastInc) else near

/-- R145: a reached rising edge may be driven, the gate apart. -/
def mayRise (ch : Channel) (r : Nat) : Bool :=
  ch.runStart.all (fun t => decide (t ≤ r * 16)) && ch.lastRise.all (fun l => decide (l < r)) && ch.fall.isNone

/-- R145: `r` becomes the last reached rising edge unless it is earlier than it. -/
def laterRise (ch : Channel) (r : Nat) : Option Nat :=
  if ch.lastRise.all (fun l => decide (l ≤ r)) then some r else ch.lastRise

/-- R145: a rising edge of a RUNNING channel is reached. -/
def riseChannel (c r : Nat) (s : State) : State :=
  let ch := channel s c
  let driven := mayRise ch r && !gateSilences s ch.active
  modChannel c (fun ch =>
    let ch1 := { ch with lastRise := laterRise ch r }
    if driven then
      { ch1 with fall := some (r + pulseWidth s.pou.cls ch.active), placed := some (placedAt s.tbs r) }
    else ch1) s

/-- The PULSE_RISING_EDGE command. -/
def execPulseRisingEdge (c : Fin 8) (r : Nat) (s : State) : Result :=
  .next (if (channel s c.val).state = .running ∧ isRising (channel s c.val).active r ∧
      risingReached s.tbs (channel s c.val) r then riseChannel c.val r s else s)

/-- R146: back to READY, with no pulse. -/
def toReady (ch : Channel) : Channel := { ch with state := .ready, fall := none }

/-- R146: a SINGLE channel whose falling edge time is reached and that has no pulse left returns to READY (log 26). Where its
rising edge was not driven because the pulse of the schedule before it was still high (R148), that pulse must have fallen too.
DESIGN CHOICE (log 26). -/
def singleDone (tb : Timebase) (ch : Channel) : Bool :=
  ch.state == .running && ch.active.mode == .single && ch.fall.isNone &&
  edgeReached tb ((ch.active.start + ch.active.width) * 16)

/-- R145: a pulse in progress ends at its falling edge. -/
def endFall (tb : Timebase) (ch : Channel) : Channel :=
  match ch.fall with
  | none => ch
  | some f => if edgeReached tb (f * 16) then { ch with fall := none, placed := some (placedAt tb f) } else ch

/-- R145, R146: the falling edge of a channel's pulse. -/
def fallChannel (tb : Timebase) (ch : Channel) : Channel :=
  let ch1 := endFall tb ch
  if singleDone tb ch1 then toReady ch1 else ch1

/-- The PULSE_FALLING_EDGE command. -/
def execPulseFallingEdge (c : Fin 8) (s : State) : Result := .next (modChannel c.val (fallChannel s.tbs) s)

/-- R146: a SINGLE schedule whose start time can no longer be driven. -/
def singleMissed (ch : Channel) : Bool :=
  ch.active.mode == .single &&
  (ch.runStart.any (fun t => decide (ch.active.start * 16 < t)) || ch.lastRise.any (fun l => decide (ch.active.start ≤ l)))

/-! ## PULSE-PROGRAM (R147 to R149) -/

/-- The schedule that a PULSE-PROGRAM carries. -/
def scheduleOf (p : PulseProgramP) (mode : PulseMode) : Schedule :=
  { mode := mode, idleHigh := p.polarity = 1, gated := flagOf p.gated, phase := p.at8.toNat,
    period := p.at16.toNat % 4294967296, width := p.at12.toNat, longWidth := p.at16.toNat % 4294967296,
    markClass := p.markClass.toNat, start := p.at16.toNat * nsPerSec + p.at8.toNat }

/-- `n` lies in `lo`..`hi`. -/
def inRange (lo hi n : Nat) : Bool := decide (lo ≤ n) && decide (n ≤ hi)

/-- R147: the fields that a schedule's mode uses are in range. -/
def scheduleOk (p : PulseProgramP) (sc : Schedule) : Bool :=
  match sc.mode with
  | .off => true
  | .second => inRange 0 999999999 sc.phase && inRange 1 999999999 sc.width
  | .train =>
    inRange 0 999999999 sc.phase && inRange 1000 1000000000 sc.period && 1000000000 % sc.period == 0 &&
    inRange 1 (sc.period - 1) sc.width
  | .mark =>
    inRange 0 999999999 sc.phase && inRange 1 999999999 sc.width && inRange 1 999999999 sc.longWidth &&
    inRange 1 6 sc.markClass
  | .single => inRange 1 999999999 sc.width && inRange 0 999999999 p.at8.toNat

/-- R147: an older pending schedule is replaced and its order completes. -/
def replacePending (c : Nat) (s : State) : State :=
  match (channel s c).pending with
  | none => s
  | some old => finish old.slot .replaced s

/-- R147: PULSE-PROGRAM. -/
def orderPulseProgram (p : PulseProgramP) (slot : Nat) (s : State) : State :=
  match pulseModeOf p.mode with
  | none => finish slot .badField s
  | some mode =>
    let sc := scheduleOf p mode
    if 7 < p.channel.toNat || 1 < p.polarity.toNat || !scheduleOk p sc then finish slot .badField s
    else if sc.mode == .single && decide (sc.start * 16 ≤ now s) then finish slot .past s
    else
      modChannel p.channel.toNat (fun ch => { ch with pending := some { sched := sc, slot := slot } })
        (replacePending p.channel.toNat s)

/-- The PULSE_PROGRAM command. -/
def execPulseProgram (src : OrderSrc) (p : PulseProgramP) (s : State) : Result :=
  .next (handOver src (.pulseProgram p) (orderPulseProgram p) s)

/-- R148: the channel state after a transfer. -/
def transferState (st : ChannelState) (mode : PulseMode) : ChannelState :=
  if mode = .off then .off
  else
    match st with
    | .off => .ready
    | .ready => .ready
    | .waiting => .waiting
    | .running => .running

/-- R148: the channel after its pending schedule becomes active. A pulse in progress whose gated setting changes while the
gate is OPEN, in neither list of R148, keeps its falling edge. DESIGN CHOICE (log 26). -/
def transferred (gateOpen : Bool) (sc : Schedule) (ch : Channel) : Channel :=
  let st := transferState ch.state sc.mode
  let ends := sc.mode == .off || sc.idleHigh != ch.active.idleHigh || (sc.gated && !gateOpen)
  let ch1 : Channel :=
    { ch with state := st, active := sc, pending := none, arm := if st = .off then none else ch.arm
              fall := if ends then none else ch.fall }
  if st = .running ∧ singleMissed ch1 then toReady ch1 else ch1

/-- R148: one channel's transfer at a reported boundary. -/
def transfer (r : Report) (c : Nat) (s : State) : State :=
  match (channel s c).pending with
  | none => s
  | some ps =>
    let s1 := modChannel c (transferred s.pou.gateOpen ps.sched) s
    complete ps.slot .ok (le 8 r.epoch ++ le 1 (channelStateCode (channel s1 c).state)) s1

/-- R149: a pending schedule is withdrawn from the channel that holds it for this slot. -/
def dropPending (slot : Nat) (s : State) : State :=
  modPou (fun u => { u with
    channels := u.channels.map (fun ch => if ch.pending.any (·.slot == slot) then { ch with pending := none } else ch) }) s

/-! ## PULSE-ARM (R150 to R152) -/

/-- The channels that a PULSE-ARM names. -/
def armChannels (p : PulseArmP) : List Nat := (p.channels.take p.count.toNat).map BitVec.toNat

/-- R150: PULSE-ARM. -/
def orderPulseArm (p : PulseArmP) (slot : Nat) (s : State) : State :=
  let cs := armChannels p
  if !inRange 1 8 p.count.toNat || cs.any (fun c => decide (7 < c)) || !decide cs.Nodup then finish slot .badField s
  else if cs.any (fun c => (channel s c).state == .off) then finish slot .empty s
  else if cs.any (fun c => (channel s c).state != .ready) then finish slot .busy s
  else if p.epoch.toNat ≤ s.tbs.time.sec then finish slot .past s
  else forEach cs (fun c => modChannel c (fun ch => { ch with state := .waiting, arm := some slot })) s

/-- The PULSE_ARM command. -/
def execPulseArm (src : OrderSrc) (p : PulseArmP) (s : State) : Result :=
  .next (handOver src (.pulseArm p) (orderPulseArm p) s)

/-- The channels whose arm is the order of a slot. -/
def armedBy (slot : Nat) (s : State) : List Nat :=
  (s.pou.channels.zipIdx.filter (fun p => p.1.arm == some slot)).map (·.2)

/-- R151: a channel enters RUNNING at the device time `t`. -/
def startChannel (t : Nat) (ch : Channel) : Channel :=
  let ch1 := { ch with state := .running, arm := none, runStart := some t }
  if singleMissed ch1 then toReady ch1 else ch1

/-- R151: the order of a slot is a held PULSE-ARM whose epoch device seconds has reached. After a step these are the seconds
at the end of the tick that crosses the boundary. DESIGN CHOICE (log 8). -/
def armDue (slot : Nat) (s : State) : Bool :=
  match storeEntry s slot with
  | some { order := .pulseArm p, cookie := _, status := .held } => decide (p.epoch.toNat ≤ s.tbs.time.sec)
  | _ => false

/-- R151: a held PULSE-ARM starts (log 24). The run start is the boundary instant after any step, the seconds reported are those
at the end of the tick that crosses the boundary. DESIGN CHOICE (log 8). -/
def startArm (r : Report) (slot : Nat) (s : State) : State :=
  if armDue slot s then
    let cs := armedBy slot s
    let s1 := forEach cs (fun c => modChannel c (startChannel r.instant)) s
    let missed := cs.filter (fun c => (channel s1 c).state == .ready)
    complete slot .ok (le 8 s.tbs.time.sec ++ le 1 (bitMask cs) ++ le 1 (bitMask missed)) s1
  else s

/-- R152, R158: the channels that wait on a slot's order return to READY. -/
def dropArm (slot : Nat) (s : State) : State :=
  modPou (fun u => { u with
    channels := u.channels.map (fun ch => if ch.arm == some slot then { ch with state := .ready, arm := none } else ch) }) s

/-! ## Steps (R153) -/

/-- R153: a SINGLE channel that the step takes back to READY; a pulse of a schedule replaced at the same boundary is not the
SINGLE schedule's. DESIGN CHOICE (log 26). -/
def singleStepped (d : Int) (t : Nat) (ch : Channel) : Bool :=
  ch.state == .running && ch.active.mode == .single &&
  ((ch.fall.isSome && ch.lastRise == some ch.active.start) ||
    (decide (0 < d) && decide ((ch.active.start + ch.active.width) * 16 ≤ t)))

/-- R153: a channel at an applied step, device time being `t` after it. -/
def stepChannel (d : Int) (t : Nat) (ch : Channel) : Channel :=
  if singleStepped d t ch then toReady ch else { ch with fall := none }

/-- R153: the channels at an applied step; the device time after it is that at the end of the tick. DESIGN CHOICE (log 8). -/
def pouStep (d : Int) (s : State) : State :=
  modPou (fun u => { u with channels := u.channels.map (stepChannel d (now s)) }) s

/-- The pulse channels at a reported boundary: transfers, starts, then the step (R148, R151, R153). -/
def pouBoundary (r : Report) (s : State) : State :=
  let s1 := forEach (List.range 32) (startArm r) (forEach (List.range 8) (transfer r) s)
  match r.step with
  | none => s1
  | some d => pouStep d s1

end Sys2Proof.Machine
end

