-- ==== Sys2Proof/Machine/Servo.lean ====
section
/-! DEFINITION. The Discipline Servo (ch. 3): marks, corrections, state changes, the error estimate and the class. -/

namespace Sys2Proof.Machine

/-- R50: the mean of the error history, rounded up; 0 for an empty history. -/
def errMean (h : List Nat) : Nat := (h.sum + h.length - 1) / h.length

/-- R54: the error estimate under a reference. -/
def estimate (d : Servo) : Nat := min (errMean d.errHist + d.rcvEstimate) max32

/-- R56: the candidate that an error estimate gives. -/
def candidateOf (eps : Nat) : Nat :=
  if eps ≤ 100 then 1 else if eps ≤ 1000 then 2 else if eps ≤ 10000 then 3 else if eps ≤ 100000 then 4
  else if eps ≤ 1000000 then 5 else 6

/-- R57: a change of class is journaled, raises CLASS and goes at once to the Beacon Unit and the Pulse Output Unit. The
CLASS_CHANGE record is handed on before the GATE_CLOSED record of the same change, where R185 allows either order. DESIGN
CHOICE (log 18). -/
def changeClass (new : Nat) (s : State) : State :=
  let prev := s.dsv.cls
  let s1 := modDsv (fun d => { d with cls := new }) s
  let s2 := raiseCause .cls (stage (.classChange prev new s1.dsv.state s1.dsv.eps) s1)
  pouClass new (modBcu (fun b => { b with cls := new }) s2)

/-- R57: the class follows the candidate, with a dwell on improvement. -/
def applyCandidate (cand : Nat) (s : State) : State :=
  if s.dsv.cls < cand then changeClass cand (modDsv (fun d => { d with dwell := 0 }) s)
  else if cand = s.dsv.cls then modDsv (fun d => { d with dwell := 0 }) s
  else if s.dsv.settings.improveDwell ≤ s.dsv.dwell + 1 then
    changeClass cand (modDsv (fun d => { d with dwell := 0 }) s)
  else modDsv (fun d => { d with dwell := d.dwell + 1 }) s

/-- R56: ε is brought up to date and the candidate of the servo's state is applied. -/
def evaluateClass (s : State) : State :=
  match s.dsv.state with
  | .freerun => applyCandidate 7 s
  | .holdover => applyCandidate (candidateOf s.dsv.eps) s
  | .track =>
    let s1 := modDsv (fun d => { d with eps := estimate d }) s
    applyCandidate (candidateOf s1.dsv.eps) s1
  | .acquire =>
    let s1 := modDsv (fun d => { d with eps := estimate d }) s
    applyCandidate (max 3 (candidateOf s1.dsv.eps)) s1

/-- R52: what entering a state does to the servo's own fields. -/
def entryEffects (new : ServoState) (d : Servo) : Servo :=
  match new with
  | .freerun => { d with state := new, freqHist := [], holdSeconds := 0 }
  | .acquire => { d with state := new, errHist := [], lockRun := 0, labelRun := 0, gateRun := 0, holdSeconds := 0 }
  | .track => { d with state := new, lockRun := 0, labelRun := 0, gateRun := 0 }
  | .holdover => { d with state := new, eps := estimate d, holdSeconds := 0 }

/-- R3, R52: Φ at entry to HOLDOVER: the mean of a frequency history of 4 values or more is written, a shorter one leaves it. -/
def holdoverPhi (d : Servo) (phi : Int) : Int :=
  if 4 ≤ d.freqHist.length then clampSym phiLimit (d.freqHist.sum.tdiv d.freqHist.length) else phi

/-- R52, R53: a change of servo state, its SERVO_STATE record, and then the class evaluation (log 22). -/
def enterServo (new : ServoState) (cause : ServoCause) (s : State) : State :=
  let prev := s.dsv.state
  let s1 := modDsv (entryEffects new) s
  let s2 := if new = .holdover then modTbs (fun t => { t with phi := holdoverPhi s1.dsv t.phi }) s1 else s1
  evaluateClass (stage (.servoState prev new cause s2.tbs.phi s2.dsv.eps s2.dsv.labelCount s2.dsv.gatedCount) s2)

/-- R52: what a selection notice does in each state of the servo. -/
def takeNotice (prev new : Option RefInput) (s : State) : State :=
  match prev, new, s.dsv.state with
  | none, some _, .freerun => enterServo .acquire .refActive s
  | none, some _, .holdover => enterServo .acquire .refActive s
  | some _, none, .acquire => enterServo .freerun .refLost s
  | some _, none, .track => enterServo .holdover .refLost s
  | some _, some _, .acquire => modDsv (fun d => { d with errHist := [] }) s
  | some _, some _, .track => modDsv (fun d => { d with errHist := [], labelRun := 0, gateRun := 0 }) s
  | _, _, _ => s

/-- R45, R52: a selection notice, which gives a change of active input; the lock run becomes 0. -/
def selectionNotice (prev new : Option RefInput) (s : State) : State :=
  takeNotice prev new (modDsv (fun d => { d with lockRun := 0 }) s)

/-- A mark handed to the servo (R35); `label` and `accuracy` are absent for an unlabelled mark. -/
structure Mark where
  stamp : Nat
  label : Option Nat
  width : WidthClass
  accuracy : Option Nat
  cableDelay : Nat
deriving DecidableEq, Repr

/-- R40: the phase error E in sixteenths. -/
def phaseError (m : Mark) : Int := wrapSecond m.stamp - m.cableDelay

/-- R40: the mark is a label disagreement. -/
def labelDisagrees (m : Mark) : Bool := m.label.any (fun l => l != nearestSecond m.stamp)

/-- R41 step 1: a labelled mark's accuracy estimate becomes the latest receiver estimate. -/
def noteEstimate (m : Mark) (s : State) : State :=
  match m.accuracy with
  | none => s
  | some e => modDsv (fun d => { d with rcvEstimate := e }) s

/-- R42, R43: a step is posted; the error history and the lock run are cleared and the flag set (R46). -/
def servoStep (delta : Int) (s : State) : State :=
  modDsv (fun d => { d with errHist := [], lockRun := 0, stepOutstanding := true }) (postServoStep delta s)

/-- R44: Φ and σ written from E with the gains kp and ki. -/
def correct (e : Int) (kp ki : Nat) (s : State) : State :=
  modTbs (fun t => (t.writePhi (t.phi - (e * 16).tdiv (2 ^ ki : Nat))).writeSigma (-(e.tdiv (2 ^ kp : Nat)))) s

/-- R50: |E| joins the error history, rounded up to whole ns. -/
def recordError (e : Int) (d : Servo) : Servo :=
  let h := d.errHist ++ [(e.natAbs + 15) / 16]
  { d with errHist := if 8 < h.length then h.drop 1 else h }

/-- R51: the Φ just written joins the frequency history. -/
def recordFreq (phi : Int) (d : Servo) : Servo :=
  let h := d.freqHist ++ [phi]
  { d with freqHist := if 16 < h.length then h.drop 1 else h }

/-- R45: a used mark counts toward lock; the eighth enters TRACK. -/
def countLock (e : Int) (s : State) : State :=
  if s.dsv.settings.lockThreshold * 16 < e.natAbs then modDsv (fun d => { d with lockRun := 0 }) s
  else if 8 ≤ s.dsv.lockRun + 1 then enterServo .track .lock s
  else modDsv (fun d => { d with lockRun := d.lockRun + 1 }) s

/-- R41: a mark in ACQUIRE, after its estimate is noted. -/
def acquireMark (m : Mark) (s : State) : State :=
  let e := phaseError m
  if s.dsv.stepOutstanding then s
  else if m.label.isNone || m.width = .degraded then modDsv (fun d => { d with lockRun := 0 }) s
  else if labelDisagrees m then
    servoStep (((m.label.getD 0 : Nat) - (nearestSecond m.stamp : Nat) : Int) * sixPerSec - e) s
  else if s.dsv.settings.stepThreshold * 16 < e.natAbs then servoStep (-e) s
  else
    countLock e (modDsv (recordError e) (correct e s.dsv.settings.kpA s.dsv.settings.kiA s))

/-- R48, R49: the phase gate and, within it, the tracking correction. -/
def gateMark (m : Mark) (s : State) : State :=
  let e := phaseError m
  if s.dsv.settings.phaseGate * 16 < e.natAbs then
    let s1 := modDsv (fun d => { d with gatedCount := incSat16 d.gatedCount, gateRun := d.gateRun + 1 }) s
    if 3 ≤ s1.dsv.gateRun then enterServo .acquire .gate s1 else s1
  else
    let s1 := correct e s.dsv.settings.kpT s.dsv.settings.kiT (modDsv (fun d => { d with gateRun := 0 }) s)
    modDsv (fun d => recordFreq s1.tbs.phi (recordError e d)) s1

/-- R47: a mark in TRACK, after its estimate is noted. -/
def trackMark (m : Mark) (s : State) : State :=
  if labelDisagrees m then
    let s1 := modDsv (fun d => { d with labelCount := incSat16 d.labelCount, labelRun := d.labelRun + 1 }) s
    if 3 ≤ s1.dsv.labelRun then enterServo .acquire .label s1 else s1
  else gateMark m (if m.label.isSome then modDsv (fun d => { d with labelRun := 0 }) s else s)

/-- R39: what the servo does with a mark in each of its states. -/
def handleMark (m : Mark) (s : State) : State :=
  match s.dsv.state with
  | .acquire => acquireMark m (noteEstimate m s)
  | .track => trackMark m (noteEstimate m s)
  | .freerun => s
  | .holdover => s

/-- R55: one holdover second: n and ε grow. -/
def holdSecond (d : Servo) : Servo :=
  let n := min (d.holdSeconds + 1) max32
  { d with holdSeconds := n, eps := min (d.eps + d.settings.drift + n * d.settings.aging / 1024) max32 }

/-- R55: the holdover limit is reached. -/
def limitReached (d : Servo) : Bool :=
  d.settings.holdoverLimit != 0 && decide (d.settings.holdoverLimit ≤ d.holdSeconds)

/-- R46, R55, R56: the servo at a reported boundary. -/
def dsvBoundary (s : State) : State :=
  let s1 := modDsv (fun d => { d with stepOutstanding := false }) s
  match s1.dsv.state with
  | .holdover =>
    let s2 := modDsv holdSecond s1
    if limitReached s2.dsv then enterServo .freerun .limit s2 else evaluateClass s2
  | _ => evaluateClass s1

/-- R58: the settings of SERVO-SETUP, each held within its range. -/
def servoSettingsOf (p : ServoSetupP) : ServoSettings :=
  { kpA := clampNat 0 7 p.kpA.toNat, kiA := clampNat 0 15 p.kiA.toNat, kpT := clampNat 0 7 p.kpT.toNat,
    kiT := clampNat 0 15 p.kiT.toNat, stepThreshold := clampNat 1000 100000000 p.stepThreshold.toNat,
    lockThreshold := clampNat 50 100000 p.lockThreshold.toNat, phaseGate := clampNat 1000 100000 p.phaseGate.toNat,
    drift := p.drift.toNat, aging := p.aging.toNat, holdoverLimit := p.holdoverLimit.toNat,
    improveDwell := clampNat 1 60 p.improveDwell.toNat }

/-- The settings of SERVO-SETUP as the order carries them. -/
def servoSettingsRaw (p : ServoSetupP) : ServoSettings :=
  { kpA := p.kpA.toNat, kiA := p.kiA.toNat, kpT := p.kpT.toNat, kiT := p.kiT.toNat,
    stepThreshold := p.stepThreshold.toNat, lockThreshold := p.lockThreshold.toNat,
    phaseGate := p.phaseGate.toNat, drift := p.drift.toNat, aging := p.aging.toNat,
    holdoverLimit := p.holdoverLimit.toNat, improveDwell := p.improveDwell.toNat }

/-- R58: SERVO-SETUP. -/
def orderServoSetup (p : ServoSetupP) (slot : Nat) (s : State) : State :=
  finish slot (okOr (servoSettingsOf p != servoSettingsRaw p))
    (modDsv (fun d => { d with settings := servoSettingsOf p }) s)

/-- The SERVO_SETUP command. -/
def execServoSetup (src : OrderSrc) (p : ServoSetupP) (s : State) : Result :=
  .next (handOver src (.servoSetup p) (orderServoSetup p) s)

end Sys2Proof.Machine
end

