-- ==== Sys2Proof/Machine/Reference.lean ====
section
/-! DEFINITION. The Reference Intake (ch. 2): pulses, messages, pairing, qualification, selection and the marks
handed to the servo. -/

namespace Sys2Proof.Machine

/-- Sixteenths from the rise of a pulse to its stuck deadline, 200 ms (R20). -/
def stuckSpan : Nat := 3200000000
/-- Sixteenths after which a message in the FIFO is stale, 1.2 s (R25). -/
def staleSpan : Nat := 19200000000
/-- Sixteenths from an accepted mark to the loss deadline, 3 s (R29). -/
def lossSpan : Nat := 48000000000
/-- Sixteenths of the revert dwell, 60 s (R32). -/
def revertSpan : Nat := 960000000000
/-- Sixteenths of the gap limit in a message, 10 ms (R23). -/
def gapSpan : Nat := 160000000

/-! ## Selection (R31 to R34) -/

/-- The input is QUALIFIED. -/
def qualified (s : State) (i : RefInput) : Bool := (refIn s i).qual == .qualified

/-- R31: the active input that AUTO chooses. -/
def autoChoice (s : State) : Option RefInput :=
  let pref := s.rfi.preference
  let other := otherInput pref
  if s.rfi.active = some other then
    if qualified s other then some other else if qualified s pref then some pref else none
  else if qualified s pref then some pref
  else if qualified s other then some other
  else none

/-- R32: AUTO, the other input active, the preferred one QUALIFIED. -/
def revertArrangement (s : State) : Bool :=
  s.rfi.mode == .auto && s.rfi.active == some (otherInput s.rfi.preference) && qualified s s.rfi.preference

/-- R32: the revert deadline is set when the arrangement is first found and cleared when it ends. -/
def updateRevert (s : State) : State :=
  let d : Option Nat := if revertArrangement s then some (s.rfi.revertAt.getD (now s + revertSpan)) else none
  modRfi (fun r => { r with revertAt := d }) s

/-- R31, R36: the outcome of a re-evaluation: mode and active input, the revert deadline, the REF_CHANGE record of a
change, and for a change of active input the selection notice. -/
def applySelection (mode : SelMode) (active : Option RefInput) (cause : RefChangeCause) (s : State) : State :=
  let prev := s.rfi.active
  let s1 := updateRevert (modRfi (fun r => { r with mode := mode, active := active }) s)
  let s2 := if active = prev && mode == s.rfi.mode then s1 else stage (.refChange prev active mode cause) s1
  if active = prev then s2
  else selectionNotice prev active (modRfi (fun r => { r with disagreeRun := 0, disagreeFlag := false }) s2)

/-- R31, R34: re-evaluation of the selection. -/
def reselect (cause : RefChangeCause) (s : State) : State :=
  match s.rfi.mode with
  | .auto => applySelection .auto (autoChoice s) cause s
  | .force i => if qualified s i then s else applySelection .auto (autoChoice s) .forceLost s

/-! ## Qualification (R27 to R29) -/

/-- R28: a change of qualification state with its effects on the input and its REF_STATE record. -/
def changeQual (i : RefInput) (new : Qual) (cause : RefStateCause) (s : State) : State :=
  let prev := (refIn s i).qual
  let s1 := modRef i (fun r =>
    let r1 := { r with qual := new, goodRun := 0, nonGoodRun := 0 }
    match new with
    | .absent => { r1 with interval := none, labelMem := none, lossAt := none }
    | .disabled => { r1 with pulse := none, stuckEpisode := false, assembly := none, fifo := [], lossAt := none }
    | .qualifying => r1
    | .qualified => r1) s
  stage (.refState i prev new cause (refIn s1 i).counters) s1

/-- A change into or out of QUALIFIED is followed by a re-evaluation (R28). -/
def reselectIfChanged (i : RefInput) (was : Bool) (s : State) : State :=
  if qualified s i = was then s else reselect .qualification s

/-- R27: a good second. -/
def goodSecond (r : RefIn) (cls : WidthClass) (msg : Option RefMsg) : Bool :=
  match msg with
  | none => false
  | some m => cls == .good && m.status == .locked && (match r.labelMem with | none => true | some l => m.label == l + 1)

/-- R28: the effect of a judgement in QUALIFYING or QUALIFIED. -/
def applyJudgement (i : RefInput) (good : Bool) (s : State) : State :=
  let r := refIn s i
  match r.qual with
  | .qualifying =>
    if good then
      if 4 ≤ r.goodRun + 1 then changeQual i .qualified .goodRun s
      else modRef i (fun r => { r with goodRun := r.goodRun + 1 }) s
    else modRef i (fun r => { r with goodRun := 0 }) s
  | .qualified =>
    if good then modRef i (fun r => { r with nonGoodRun := 0 }) s
    else if 3 ≤ r.nonGoodRun + 1 then changeQual i .qualifying .nonGoodRun s
    else modRef i (fun r => { r with nonGoodRun := r.nonGoodRun + 1 }) s
  | .disabled => s
  | .absent => s

/-- R27, R28: an accepted mark leaves ABSENT, is judged, and its label is remembered. -/
def judgeMark (i : RefInput) (cls : WidthClass) (msg : Option RefMsg) (s : State) : State :=
  let s1 := if (refIn s i).qual = .absent then changeQual i .qualifying .pulse s else s
  let good := goodSecond (refIn s1 i) cls msg
  applyJudgement i good (modRef i (fun r => { r with labelMem := msg.map (·.label) }) s1)

/-! ## Pairing, the interval check and the hand-off (R25, R26, R35, R36) -/

/-- R25: stale messages leave the FIFO, each counted. -/
def dropStale (rise : Nat) (r : RefIn) : RefIn :=
  let fresh := r.fifo.filter (fun m => decide (rise ≤ m.completed + staleSpan))
  { r with
    fifo := fresh
    counters := { r.counters with stale := addSat16 (r.fifo.length - fresh.length) r.counters.stale } }

/-- R25: the message that labels a mark, the oldest completed by the rising stamp. -/
def labelFor (rise : Nat) (r : RefIn) : Option RefMsg := r.fifo.find? (fun m => decide (m.completed ≤ rise))

/-- R26: the mark lies 999 ms to 1,001 ms after the interval reference, or there is none. -/
def intervalOk (rise : Nat) (r : RefIn) : Bool :=
  match r.interval with
  | none => true
  | some v => decide (v + 15984000000 ≤ rise) && decide (rise ≤ v + 16016000000)

/-- R36: the UTC offset of a labelled mark handed on is compared with the Timebase's. -/
def compareUtc (i : RefInput) (m : RefMsg) (s : State) : State :=
  if m.utcOffset = s.tbs.utcOffset then modRfi (fun r => { r with disagreeRun := 0, disagreeFlag := false }) s
  else
    let run := min (s.rfi.disagreeRun + 1) 3
    let s1 := modRfi (fun r => { r with disagreeRun := run }) s
    if run = 3 && !s.rfi.disagreeFlag then
      stage (.utcDisagree i m.utcOffset s.tbs.utcOffset m.leap) (modRfi (fun r => { r with disagreeFlag := true }) s1)
    else s1

/-- R35, R36: the hand-off of an accepted mark of the active input. -/
def handOn (i : RefInput) (rise : Nat) (cls : WidthClass) (msg : Option RefMsg) (s : State) : State :=
  if s.rfi.active = some i then
    let s1 := handleMark { stamp := rise, label := msg.map (·.label), width := cls, accuracy := msg.map (·.accuracy),
                           cableDelay := (refIn s i).settings.cableDelay } s
    match msg with
    | none => s1
    | some m => compareUtc i m s1
  else s

/-- R35: an accepted mark, from its judgement to its hand-off. -/
def acceptMark (i : RefInput) (rise : Nat) (cls : WidthClass) (msg : Option RefMsg) (s : State) : State :=
  let was := qualified s i
  let s1 := modRef i (fun r => { r with lossAt := some (rise + lossSpan) }) (judgeMark i cls msg s)
  handOn i rise cls msg (reselectIfChanged i was s1)

/-- R35: a classified pulse, from its pairing on. -/
def classifiedPulse (i : RefInput) (rise : Nat) (cls : WidthClass) (s : State) : State :=
  let s1 := modRef i (dropStale rise) s
  let msg := labelFor rise (refIn s1 i)
  let ok := intervalOk rise (refIn s1 i)
  let s2 := modRef i (fun r => { r with
    fifo := match msg with | none => r.fifo | some m => r.fifo.erase m
    interval := some rise }) s1
  if ok then acceptMark i rise cls msg s2
  else modRef i (fun r => { r with counters := { r.counters with misplaced := incSat16 r.counters.misplaced } }) s2

/-! ## Pulses (R20 to R22) -/

/-- R22: a pulse in progress is STUCK; `high` says whether the line is still high, so that the episode goes on. -/
def makeStuck (i : RefInput) (high : Bool) (rise : Nat) (s : State) : State :=
  let s1 := modRef i (fun r => { r with
    pulse := none, stuckEpisode := high
    counters := { r.counters with stuck := incSat16 r.counters.stuck } }) s
  stage (.pulseStuck i rise (refIn s1 i).counters) s1

/-- R20: a rising edge of the pulse line. -/
def pulseRise (i : RefInput) (at_ : Instant) (s : State) : State :=
  let r := refIn s i
  let s1 := modRef i (fun r => { r with line := true }) s
  if r.line || r.qual = .disabled || r.pulse.isSome || r.stuckEpisode then s1
  else
    let t := s.tbs.stamp at_
    modRef i (fun r => { r with pulse := some { rise := t, stuckAt := t + stuckSpan } }) s1

/-- The REF_PULSE_RISE command. -/
def execRefPulseRise (i : RefInput) (at_ : Instant) (s : State) : Result := .next (pulseRise i at_ s)

/-- R21: the pulse in progress is cleared and classified by its width. A fall past a stuck deadline that has not
been taken finds the pulse STUCK (log 21). -/
def endPulse (i : RefInput) (p : RefPulse) (fall : Nat) (s : State) : State :=
  let w := fall - p.rise
  let st := (refIn s i).settings
  let s1 := modRef i (fun r => { r with pulse := none }) s
  if stuckSpan < w then makeStuck i false p.rise s1
  else if w < st.minWidth * 16 then s1
  else if w < st.longWidth * 16000000 then classifiedPulse i p.rise .good s1
  else classifiedPulse i p.rise .degraded s1

/-- R20, R22: a falling edge of the pulse line. -/
def pulseFall (i : RefInput) (at_ : Instant) (s : State) : State :=
  let s1 := modRef i (fun r => { r with line := false, stuckEpisode := false }) s
  match (refIn s i).pulse with
  | none => s1
  | some p => endPulse i p (s.tbs.stamp at_) s1

/-- The REF_PULSE_FALL command. -/
def execRefPulseFall (i : RefInput) (at_ : Instant) (s : State) : Result := .next (pulseFall i at_ s)

/-- The STUCK_DEADLINE command (R22). -/
def execStuckDeadline (i : RefInput) (s : State) : Result :=
  .next (match (refIn s i).pulse with
    | none => s
    | some p => if s.tbs.reaches p.stuckAt then makeStuck i true p.rise s else s)

/-! ## Messages (R23, R24) -/

/-- R23: the message being assembled is bad: discarded and counted. -/
def badMessage (i : RefInput) (s : State) : State :=
  modRef i (fun r => { r with assembly := none, counters := { r.counters with bad := incSat16 r.counters.bad } }) s

/-- R24: a complete message enters the FIFO, or is lost with MSG_OVERRUN. -/
def completeMessage (i : RefInput) (m : RefMsg) (s : State) : State :=
  if (refIn s i).fifo.length < 2 then modRef i (fun r => { r with assembly := none, fifo := r.fifo ++ [m] }) s
  else
    let s1 := modRef i (fun r => { r with
      assembly := none, counters := { r.counters with overrun := incSat16 r.counters.overrun } }) s
    stage (.msgOverrun i m.label (refIn s1 i).counters) s1

/-- R23: `n` characters in, the last of them `c`, the message has become bad before its checksum (log 20). -/
def charBad (n : Nat) (c : Character) : Bool :=
  !c.framed || (n == 2 && c.bits != 14) || (n == 8 && (fixStatusOf c.bits).isNone) ||
  (n == 13 && (leapFlagsOf c.bits).isNone)

/-- R23: one character of the message line. Its stop bit is stamped as an edge is (R7, R30), and the stamp of the last one is
the completion time of the message (log 28). -/
def messageChar (i : RefInput) (c : Character) (s : State) : State :=
  if (refIn s i).qual = .disabled then s
  else
    let t := s.tbs.stamp c.stop
    match (refIn s i).assembly with
    | none =>
      if c.bits = startCode then modRef i (fun r => { r with assembly := some ⟨[c.bits], t⟩ }) s else s
    | some a =>
      let cs := a.chars ++ [c.bits]
      if charBad cs.length c then badMessage i s
      else if cs.length < 14 then modRef i (fun r => { r with assembly := some ⟨cs, t⟩ }) s
      else
        match parseMessage cs t with
        | none => badMessage i s
        | some m => completeMessage i m s

/-- The MESSAGE_CHARACTER command. -/
def execMessageCharacter (i : RefInput) (c : Character) (s : State) : Result := .next (messageChar i c s)

/-- The REF_MESSAGE command: a run of characters. -/
def execRefMessage (i : RefInput) (cs : List Character) (s : State) : Result := .next (forEach cs (messageChar i) s)

/-- The MSG_GAP_EXPIRY command: more than 10 ms since the last character (R23). -/
def execMsgGapExpiry (i : RefInput) (s : State) : Result :=
  .next (match (refIn s i).assembly with
    | none => s
    | some a => if s.tbs.reaches (a.last + gapSpan + 1) then badMessage i s else s)

/-! ## Deadlines and orders -/

/-- The LOSS_DEADLINE command (R29). -/
def execLossDeadline (i : RefInput) (s : State) : Result :=
  .next (if s.tbs.reachesOpt (refIn s i).lossAt then
      reselectIfChanged i (qualified s i) (changeQual i .absent .loss s)
    else s)

/-- The REVERT_DEADLINE command (R32). -/
def execRevertDeadline (s : State) : Result :=
  .next (if s.tbs.reachesOpt s.rfi.revertAt && revertArrangement s then
      applySelection .auto (some s.rfi.preference) .revert s
    else s)

/-- R33: SET-REF. -/
def orderSetRef (mode : Byte) (slot : Nat) (s : State) : State :=
  let force (i : RefInput) : State :=
    if qualified s i then finish slot .ok (applySelection (.force i) (some i) .order s)
    else finish slot .notQualified s
  match mode.toNat with
  | 0 => finish slot .ok (applySelection .auto (autoChoice s) .order s)
  | 1 => force .a
  | 2 => force .b
  | _ => finish slot .badField s

/-- The SET_REF command. -/
def execSetRef (src : OrderSrc) (mode : Byte) (s : State) : Result :=
  .next (handOver src (.setRef mode) (orderSetRef mode) s)

/-- R19: the settings of REF-SETUP, each held within its range. -/
def refSettingsOf (p : RefSetupP) (baud : Baud) : RefSettings :=
  let m := clampNat 100 100000 p.minWidth.toNat
  { enable := flagOf p.enable, baud := baud, minWidth := m - m % 100,
    longWidth := clampNat 1 200 p.longWidth.toNat, cableDelay := min p.cableDelay.toNat 1600000 }

/-- R19: clamping changed a value. -/
def refAdjusted (p : RefSetupP) (st : RefSettings) : Bool :=
  st.minWidth != p.minWidth.toNat || st.longWidth != p.longWidth.toNat || st.cableDelay != p.cableDelay.toNat

/-- R19: the effect of written settings on the input's qualification state. -/
def refEnableEffect (i : RefInput) (enable baudChanged : Bool) (s : State) : State :=
  let was := qualified s i
  if (refIn s i).qual = .disabled then
    if enable then
      changeQual i .absent .enable (modRef i (fun r => { r with fifo := [], assembly := none }) s)
    else s
  else if enable then
    if baudChanged then modRef i (fun r => { r with assembly := none }) s else s
  else reselectIfChanged i was (changeQual i .disabled .disable s)

/-- R19: REF-SETUP, in the order settings and preference, enable effects, re-evaluation (log 23). -/
def orderRefSetup (p : RefSetupP) (slot : Nat) (s : State) : State :=
  match inputOf p.input, baudOf p.baud, inputOf p.preference with
  | some i, some baud, some pref =>
    let st := refSettingsOf p baud
    let baudChanged := (refIn s i).settings.baud != baud
    let prefChanged := s.rfi.preference != pref
    let s1 := modRfi (fun r => { r with preference := pref }) (modRef i (fun r => { r with settings := st }) s)
    let s2 := refEnableEffect i st.enable baudChanged s1
    finish slot (okOr (refAdjusted p st)) (if prefChanged then reselect .preference s2 else s2)
  | _, _, _ => finish slot .badField s

/-- The REF_SETUP command. -/
def execRefSetup (src : OrderSrc) (p : RefSetupP) (s : State) : Result :=
  .next (handOver src (.refSetup p) (orderRefSetup p) s)

/-! ## A step (R30) -/

/-- R30: the device times an input holds move by Δ. -/
def RefIn.move (d : Int) (r : RefIn) : RefIn :=
  { r with
    pulse := r.pulse.map (fun p => { rise := moveBy d p.rise, stuckAt := moveBy d p.stuckAt })
    fifo := r.fifo.map (fun m => { m with completed := moveBy d m.completed })
    assembly := r.assembly.map (fun a => { a with last := moveBy d a.last })
    interval := r.interval.map (moveBy d)
    lossAt := r.lossAt.map (moveBy d) }

/-- R30: the Reference Intake at an applied step. -/
def rfiStep (d : Int) (s : State) : State :=
  modRfi (fun r => { r with
    inputs := mapPair (RefIn.move d) r.inputs, revertAt := r.revertAt.map (moveBy d) }) s

end Sys2Proof.Machine
end

