-- ==== Sys2Proof/Machine/Exchange.lean ====
section
/-! DEFINITION. The Exchange Controller (ch. 10): registers, exchange states, accesses, sweeps, SNAPSHOT and CANCEL. -/

namespace Sys2Proof.Machine

/-! ## SNAPSHOT and CANCEL (R183, R184) -/

/-- Two 4-bit codes in a byte, the first in the low bits. -/
def nibbles (lo hi : Nat) : List Byte := le 1 (lo + 16 * hi)

/-- R183: the SYSTEM view. -/
def systemView (s : State) : List Byte :=
  timeBytes (now s) ++ le 1 s.dsv.cls ++ le 1 (servoCode s.dsv.state) ++ le 1 (activeCode s.rfi.active) ++
  leInt 4 s.tbs.phi ++ le 4 s.dsv.eps ++
  nibbles (qualCode s.rfi.inputs.a.qual) (qualCode s.rfi.inputs.b.qual) ++
  nibbles (portStateCode s.lnk.a.state) (portStateCode s.lnk.b.state) ++
  le 1 s.crs.newcomers.length ++ zeros 1 ++ le 4 s.xch.lost

/-- R183: the view of a port. -/
def portView (l : LinkPort) : List Byte :=
  le 1 (portStateCode l.state) ++ zeros 3 ++ le 4 l.counters.beacons ++ le 4 l.counters.ranges ++
  le 4 l.counters.echoes ++ le 4 l.counters.stray ++ le 4 l.counters.hails ++ le 4 l.counters.foreign ++
  le 4 l.counters.dropped

/-- R183: SNAPSHOT. -/
def orderSnapshot (view : Byte) (slot : Nat) (s : State) : State :=
  match view.toNat with
  | 0 => complete slot .ok (systemView s) s
  | 1 => complete slot .ok (portView s.lnk.a) s
  | 2 => complete slot .ok (portView s.lnk.b) s
  | _ => finish slot .badField s

/-- The SNAPSHOT command. -/
def execSnapshot (src : OrderSrc) (view : Byte) (s : State) : Result :=
  .next (handOver src (.snapshot view) (orderSnapshot view) s)

/-- R184: a completed order took effect. -/
def tookEffect (r : ResultCode) : Bool := r == .ok || r == .adjusted

/-- R11: a posted host step is withdrawn. -/
def withdrawStep (slot : Nat) (s : State) : State :=
  modTbs (fun t => { t with
    posted := if t.posted.any (fun p => p.origin == .host slot) then none else t.posted }) s

/-- R184: a held order that CANCEL may withdraw, withdrawn by its owner; `none` for the orders it may not. -/
def withdraw (o : Order) (slot : Nat) (s : State) : Option State :=
  match o with
  | .postStep _ => some (withdrawStep slot s)
  | .pulseProgram _ => some (dropPending slot s)
  | .pulseArm _ => some (dropArm slot s)
  | _ => none

/-- R184: CANCEL of a target held in the store. -/
def cancelEntry (e : StoreEntry) (target slot : Nat) (s : State) : State :=
  match e.status with
  | .completed r _ _ => finish slot (if tookEffect r then .tooLate else .vacant) s
  | .held =>
    match withdraw e.order target s with
    | none => finish slot .badField s
    | some s1 => finish slot .ok (finish target .cancelled s1)

/-- R184: CANCEL. -/
def orderCancel (target : Byte) (cookie : BitVec 16) (slot : Nat) (s : State) : State :=
  if 31 < target.toNat ∨ target.toNat = slot then finish slot .badField s
  else
    match storeEntry s target.toNat with
    | none => finish slot .vacant s
    | some e => if e.cookie = cookie then cancelEntry e target.toNat slot s else finish slot .vacant s

/-- The CANCEL command. -/
def execCancel (src : OrderSrc) (target : Byte) (cookie : BitVec 16) (s : State) : Result :=
  .next (handOver src (.cancel target cookie) (orderCancel target cookie) s)

/-! ## Handing an order to its owner (R181) -/

/-- A halt or an exchange reset waits for the access in progress (R176, R188). -/
def stopping (x : Controller) : Bool := x.haltAsked || x.resetAsked

/-- An ADMIT or RECONFIG that passed its first checks begins the read of its configuration group, or stays held
where the exchange is being stopped (R76, R77, R176). -/
def beginConfigRead (slot : Nat) (s : State) : State :=
  if stopping s.xch then s else modXch (fun x => { x with access := some (.readConfig slot) }) s

/-- R181: a taken order goes to its owner. -/
def handOrder (o : Order) (slot : Nat) (s : State) : State :=
  match o with
  | .portSetup p => orderPortSetup p slot s
  | .refSetup p => orderRefSetup p slot s
  | .setRef m => orderSetRef m slot s
  | .servoSetup p => orderServoSetup p slot s
  | .postStep p => orderStep p slot s
  | .utcSetup p => orderUtcSetup p slot s
  | .admitClient c =>
    match admitCheck c s with
    | .error r => finish slot r s
    | .ok _ => beginConfigRead slot s
  | .reconfig c =>
    match reconfigCheck c s with
    | .error r => finish slot r s
    | .ok _ => beginConfigRead slot s
  | .retire c => orderRetire c slot s
  | .rangingSetup p => orderRangingSetup p slot s
  | .noticePost p => orderNoticePost p slot s
  | .noticeWithdraw i => orderNoticeWithdraw i slot s
  | .pulseProgram p => orderPulseProgram p slot s
  | .pulseArm p => orderPulseArm p slot s
  | .gateSetup f => orderGateSetup f slot s
  | .gateOpen => orderGateOpen slot s
  | .captureSetup p => orderCaptureSetup p slot s
  | .snapshot v => orderSnapshot v slot s
  | .cancel t c => orderCancel t c slot s
  | .unknown _ => finish slot .unknown s

/-- R77: a held ADMIT or RECONFIG. -/
def heldConfigOrder (s : State) (slot : Nat) : Option Order :=
  match storeEntry s slot with
  | some { order := .admitClient c, cookie := _, status := .held } => some (.admitClient c)
  | some { order := .reconfig c, cookie := _, status := .held } => some (.reconfig c)
  | _ => none

/-- The end of a configuration read: the order is handled in full (R76, R78, R80). -/
def configRead (slot : Nat) (s : State) : State :=
  match heldConfigOrder s slot with
  | some (.admitClient c) => orderAdmit c slot s
  | some (.reconfig c) => orderReconfig c slot s
  | _ => s

/-! ## The steps of a sweep (R180) -/

/-- An access begins and the sweep stands at `step`. -/
def beginAccess (a : Access) (step : SweepStep) (s : State) : State :=
  modXch (fun x => { x with access := some a, sweep := some step }) s

/-- R186: the fill of the memory journal. -/
def journalFill (x : Controller) : Nat := (x.produced + 4294967296 - x.consumed.getD 0) % 4294967296

/-- R186: the journal has room. -/
def journalRoom (x : Controller) : Bool := decide (journalFill x < x.capacity.getD 0)

/-- Step 5, after the JOURNAL cause is judged (R187). -/
def goHeader (s : State) : State :=
  beginAccess .headerPart .header
    (if s.xch.threshold.getD 0 ≤ journalFill s.xch then raiseCause .journal s else s)

/-- Step 4: the next staged record, or on to step 5 (R186). -/
def goJournal (left : Nat) (s : State) : State :=
  if 0 < left ∧ s.xch.staging ≠ [] ∧ journalRoom s.xch then beginAccess .journal (.journal (left - 1)) s
  else goHeader s

/-- R93, R177: the odd version of a publication; one that a bus error left odd is kept. -/
def oddVersion (v : Nat) : Nat := if v % 2 = 0 then incWrap32 v else v

/-- R92, R93: the publication of the slot at the head of the queue begins with its first part: it leaves the queue, its
version becomes odd and its fields are copied. -/
def beginPublish (n left : Nat) (s : State) : State :=
  let s1 := modClient n (fun c => { c with version := oddVersion c.version })
    (modCrs (fun r => { r with queue := r.queue.drop 1 }) s)
  beginAccess (.publish n .odd (measureFields (client s1 n))) (.clients left) s1

/-- Step 3: the next client record, or on to step 4, whose header read comes first. -/
def goClients (left : Nat) (s : State) : State :=
  match left, s.crs.queue with
  | k + 1, n :: _ => beginPublish n k s
  | _, _ => beginAccess .headerHost (.journal s.xch.staging.length) s

/-- A completion that awaits writing (R182). -/
def awaitsWriting (s : State) (slot : Nat) : Bool :=
  match storeEntry s slot with
  | some { order := _, cookie := _, status := .completed _ _ written } => !written
  | _ => false

/-- The slots from `k` on. -/
def slotsFrom (k : Nat) : List Nat := (List.range 32).drop k

/-- Step 2: the next completion, or on to step 3. -/
def goCompletions (k : Nat) (s : State) : State :=
  match (slotsFrom k).find? (awaitsWriting s) with
  | some n => beginAccess (.complete n) (.completions (n + 1)) s
  | none => goClients 32 s

/-- R181: the slot reads POSTED and may be taken. -/
def slotReady (s : State) (n : Nat) : Bool :=
  Memory.read s.mem (busAddr (baseAddr s.xch) (slotOffset n)) == slotPosted && canTake s n

/-- Step 1: the next POSTED slot, or on to step 2. The states of the slots that are not taken are read at one instant and in no
access of their own, so that no store of the host falls between two of these reads and no bus error meets one. DESIGN CHOICE
(log 9). -/
def goOrders (k : Nat) (s : State) : State :=
  match (slotsFrom k).find? (slotReady s) with
  | some n => beginAccess (.takeSlot n) (.orders (n + 1)) s
  | none => goCompletions 0 s

/-- R179: a sweep begins and starts the period timer. -/
def beginSweep (s : State) : State :=
  goOrders 0 (modXch (fun x => { x with timer := some (x.period.getD 0 * 125), sweep := some (.orders 0) }) s)

/-- R175, R178: the held ADMIT and RECONFIG orders from slot `k` on are handed again, then the first sweep begins;
`fuel` counts the slots left. -/
def goRetry : Nat → Nat → State → State
  | 0, _, s => beginSweep s
  | fuel + 1, k, s =>
    match heldConfigOrder s k with
    | none => goRetry fuel (k + 1) s
    | some o =>
      let s1 := handOrder o k (modXch (fun x => { x with sweep := some (.retry (k + 1)) }) s)
      if s1.xch.access.isSome then s1 else goRetry fuel (k + 1) s1

/-- Step 6: the sweep count advances and the sweep ends. -/
def endSweep (s : State) : State := modXch (fun x => { x with sweeps := incWrap32 x.sweeps, sweep := none }) s

/-- The sweep goes on from where it stands. -/
def goOn (s : State) : State :=
  match s.xch.sweep with
  | none => s
  | some (.retry k) => goRetry (32 - k) k s
  | some (.orders k) => goOrders k s
  | some (.completions k) => goCompletions k s
  | some (.clients left) => goClients left s
  | some (.journal left) => goJournal left s
  | some .header => endSweep s

/-! ## The accesses (R173) -/

/-- R182: the stores of a completion, DONE last. -/
def completionStores (s : State) (slot : Nat) : List Host.Cell :=
  match storeEntry s slot with
  | some { order := _, cookie := cookie, status := .completed r data _ } =>
    let base := baseAddr s.xch
    let off := slotOffset slot
    storesAt base (off + 28) (le 1 (resultCodeOf r)) ++ storesAt base (off + 2) (le 2 cookie.toNat) ++
    storesAt base (off + 32) (padTo 32 data) ++ storesAt base off [slotDone]
  | _ => []

/-- R93: the stores of a part of a publication: the odd version, the fields, the even version. -/
def publishStores (s : State) (n : Nat) (part : PublishPart) (fields : List Byte) : List Host.Cell :=
  let base := baseAddr s.xch
  let off := clientOffset n + 48
  let v := (client s n).version
  match part with
  | .odd => storesAt base off (le 4 v)
  | .fields => storesAt base (off + 4) fields
  | .even => storesAt base off (le 4 (incWrap32 v))

/-- R186: the stores of the journal record at the head of the staging queue. -/
def journalStores (s : State) : List Host.Cell :=
  match s.xch.staging with
  | [] => []
  | r :: _ => storesAt (baseAddr s.xch) (journalOffset (s.xch.produced % s.xch.capacity.getD 1)) (recordBytes r)

/-- R180: the part words of the header as they stand now. The spec has the device time read, and the class, servo state and
active reference held, at step 5, and names no instant of it; the model takes all of them, and the counts, at one instant, the end
of the access, or where a bus error or a full reset cuts it short (`pendingStores`, `cutStores`). DESIGN CHOICE (log 9). -/
def headerWords (s : State) : List Byte :=
  le 4 s.xch.produced ++ le 4 s.xch.lost ++ le 4 s.xch.sweeps ++ zeros 4 ++ timeBytes (now s) ++
  le 1 s.dsv.cls ++ le 1 (servoCode s.dsv.state) ++ le 1 (activeCode s.rfi.active)

/-- The stores of an access, in their order. -/
def accessStores (a : Access) (s : State) : List Host.Cell :=
  match a with
  | .headerStart => []
  | .takeSlot n => storesAt (baseAddr s.xch) (slotOffset n) [slotTaken]
  | .readConfig _ => []
  | .complete n => completionStores s n
  | .publish n part fields => publishStores s n part fields
  | .headerHost => []
  | .journal => journalStores s
  | .headerPart => storesAt (baseAddr s.xch) 0x20 (headerWords s)

/-- The stores of the access in progress. -/
def pendingStores (s : State) : List Host.Cell :=
  match s.xch.access with
  | none => []
  | some a => accessStores a s

/-- R177: the stores of the access in progress that may have landed where a bus error ends it: all but the last byte, and none
of an even version (log 11). -/
def cutStores (s : State) : List Host.Cell :=
  match s.xch.access with
  | none => []
  | some (.publish _ .even _) => []
  | some a => (accessStores a s).dropLast

/-- The host words of the header. -/
def hostWords (s : State) : List Byte := Memory.block s.mem (baseAddr s.xch) 0 32

/-- R174: the threshold as the controller uses it. -/
def thresholdOf (cap v : Nat) : Nat := if v = 0 then 1 else min v cap

/-- R174: the sweep period as the controller uses it, in µs. -/
def periodOf (v : Nat) : Nat := if v = 0 then 1000 else clampNat 125 8000 v

/-- R174: the host words read at every start, resume and sweep, with the capacity in force. -/
def takeHostWords (cap : Nat) (ws : List Byte) (x : Controller) : Controller :=
  { x with consumed := some (fieldLe ws 0x0C 4), threshold := some (thresholdOf cap (fieldLe ws 0x10 4)),
           period := some (periodOf (fieldLe ws 0x14 4)) }

/-- R174: the header is usable. -/
def headerUsable (ws : List Byte) : Bool :=
  fieldLe ws 0 4 == 0x4B575845 && fieldLe ws 4 2 == 1 &&
  decide (fieldLe ws 8 4 ∈ [64, 128, 256, 512, 1024, 2048, 4096])

/-- R181, R193: the end of a slot's taking: its fields are read, TAKEN is written and the order goes to its owner. The code,
cookie and parameters are read at one instant, so that no store of the host falls between two of them. DESIGN CHOICE (log 9). -/
def slotTakenEnd (n : Nat) (s : State) : State :=
  let bytes := Memory.block s.mem (baseAddr s.xch) (slotOffset n) 64
  let o := decodeOrder (byteAt bytes 1) (field bytes 4 24)
  let s1 := modMem (Memory.writeAll (accessStores (.takeSlot n) s)) s
  handOrder o n (takeOrder n (BitVec.ofNat 16 (fieldLe bytes 2 2)) o s1)

/-- R182: the entry of a slot is marked written. -/
def markWritten (slot : Nat) (s : State) : State :=
  modXch (fun x => { x with
    store := x.store.modify slot (Option.map (fun e =>
      match e.status with
      | .held => e
      | .completed r d _ => { e with status := .completed r d true })) }) s

/-- R93: the end of a part of a publication: the next part begins, or the version in the context becomes even. -/
def endPublish (n : Nat) (part : PublishPart) (fields : List Byte) (s : State) : State :=
  match part with
  | .odd => modXch (fun x => { x with access := some (.publish n .fields fields) }) s
  | .fields => modXch (fun x => { x with access := some (.publish n .even fields) }) s
  | .even => modClient n (fun c => { c with version := incWrap32 c.version }) s

/-- What the end of an access does, beside the sweep's going on. -/
def endAccess (a : Access) (s : State) : State :=
  let s1 := modMem (Memory.writeAll (accessStores a s)) s
  match a with
  | .headerStart => s
  | .takeSlot n => slotTakenEnd n s
  | .readConfig n => configRead n s
  | .complete n => raiseCause .order (markWritten n s1)
  | .publish n part fields => endPublish n part fields s1
  | .headerHost => modXch (takeHostWords (s.xch.capacity.getD 0) (hostWords s)) s
  | .journal => modXch (fun x => { x with staging := x.staging.drop 1, produced := incWrap32 x.produced }) s1
  | .headerPart => s1

/-- No access in progress. -/
def clearAccess (s : State) : State := modXch (fun x => { x with access := none }) s

/-- The sweep goes on unless the exchange is being stopped, an order has begun its configuration read, or a publication has
parts to come. -/
def afterAccess (s : State) : State :=
  if stopping s.xch || s.xch.access.isSome then s else goOn s

/-- R173, R180: an access of a sweep, or a part of a publication, ends without error. -/
def accessEnd (s : State) : State :=
  match s.xch.access with
  | none => s
  | some .headerStart => s
  | some a => afterAccess (endAccess a (clearAccess s))

/-- The ACCESS_END command. -/
def execAccessEnd (host : HostWrites) (s : State) : Result := .next (accessEnd (modMem (Memory.writeAll host) s))

/-! ## Starts, halts and bus errors (R175 to R178) -/

/-- R175, R178: the header read of STARTING ends; with a halt or a reset asked for, the header is not judged. Where the header
is not usable, the consumed count, threshold and period of it do not take effect: the values of before stand. DESIGN CHOICE
(log 14). -/
def headerRead (s : State) : State :=
  if s.xch.access = some .headerStart then
    let s1 := clearAccess s
    let ws := hostWords s
    if stopping s.xch then s1
    else if headerUsable ws then
      let cap := fieldLe ws 8 4
      goRetry 32 0 (modXch (fun x => takeHostWords cap ws
        { x with capacity := some cap, state := .running, sweep := some (.retry 0) }) s1)
    else raiseCause .layout (modXch (fun x => { x with state := .halted, run := false }) s1)
  else s

/-- The HEADER_READ command. -/
def execHeaderRead (host : HostWrites) (s : State) : Result := .next (headerRead (modMem (Memory.writeAll host) s))

/-- R176: the exchange is HALTED. -/
def toHalted (s : State) : State :=
  modXch (fun x => { x with
    state := .halted, run := false, haltAsked := false, timer := none, timeUp := false, sweepPending := false, sweep := none
    access := none }) s

/-- No access in progress that a halt or a reset must wait for. -/
def mayStop (x : Controller) : Bool := x.access == none || x.access == some .headerStart

/-- The HALT command (R176): the halt asked for is made once the access in progress has ended. -/
def execHalt (s : State) : Result := .next (if s.xch.haltAsked && mayStop s.xch then toHalted s else s)

/-- R177: what a bus error leaves of an access. -/
def cutAccess (a : Access) (s : State) : State :=
  match a with
  | .publish n _ _ => modCrs (fun r => { r with queue := n :: r.queue.erase n }) s
  | .headerStart => s
  | .takeSlot _ => s
  | .readConfig _ => s
  | .complete _ => s
  | .headerHost => s
  | .journal => s
  | .headerPart => s

/-- R177: the exchange enters STALLED, or, with a halt or a reset asked for, waits for it (R176, R188). -/
def toStalled (s : State) : State :=
  modXch (fun x => { x with
    state := if stopping x then x.state else .stalled
    timer := none, timeUp := false, sweepPending := false, sweep := none, access := none }) s

/-- R177: a bus error ends the access in progress after `landed` of the bytes that may have landed (log 11). -/
def busError (landed : Nat) (s : State) : State :=
  match s.xch.access with
  | none => s
  | some a =>
    let s1 := modMem (Memory.writeAll ((cutStores s).take landed)) s
    raiseCause .stall (toStalled (cutAccess a s1))

/-- The BUS_ERROR command. -/
def execBusError (landed : Nat) (s : State) : Result := .next (busError landed s)

/-- The timer or a nudge asks for a sweep (R179). While held orders are handed again before the first sweep (R175), that sweep
counts as in progress. DESIGN CHOICE (log 33). -/
def askSweep (s : State) : State :=
  if s.xch.sweep.isSome then modXch (fun x => { x with sweepPending := true }) s else beginSweep s

/-- The exchange sweeps: RUNNING, and not being stopped. -/
def sweeping (x : Controller) : Bool := x.state == .running && !stopping x

/-- The SWEEP_PERIOD_EXPIRY command (R179). -/
def execSweepPeriodExpiry (host : HostWrites) (s : State) : Result :=
  let s1 := modMem (Memory.writeAll host) s
  .next (if sweeping s1.xch && s1.xch.timer == some 0 then
      askSweep (modXch (fun x => { x with timer := none, timeUp := true }) s1)
    else s1)

/-- The PENDING_SWEEP_START command (R179). -/
def execPendingSweepStart (host : HostWrites) (s : State) : Result :=
  let s1 := modMem (Memory.writeAll host) s
  .next (if sweeping s1.xch && s1.xch.sweepPending && s1.xch.sweep.isNone then
      beginSweep (modXch (fun x => { x with sweepPending := false }) s1)
    else s1)

/-! ## Register writes (R170 to R172, R191) -/

/-- R170: a write of XBASE_HI or XBASE_LO. -/
def writeBase (hi : Bool) (w : RegWrite) (x : Controller) : Controller :=
  if x.state = .halted then
    if hi then { x with baseHi := writeOver w x.baseHi }
    else { x with baseLo := writeOver w x.baseLo &&& 0xFFFFF000 }
  else x

/-- R175: a header read begins. -/
def beginStart (x : Controller) : Controller := { x with state := .starting, run := true, access := some .headerStart }

/-- R171: a write of XCTL with the bits of `v`. -/
def writeControl (v : BitVec 32) (s : State) : State :=
  if v.getLsbD 2 then modXch (fun x => { x with resetAsked := true }) s
  else if v.getLsbD 0 then
    match s.xch.state with
    | .halted => modXch beginStart s
    | .stalled => if v.getLsbD 1 then modXch beginStart s else s
    | .starting => s
    | .running => s
  else
    match s.xch.state with
    | .halted => s
    | .stalled => toHalted s
    | .starting => modXch (fun x => { x with run := false, haltAsked := true }) s
    | .running => modXch (fun x => { x with run := false, haltAsked := true }) s

/-- The causes written 1 are cleared (R172). -/
def writeStatus (w : RegWrite) (x : Controller) : Controller :=
  { x with causes := clearCauses (causesOf (writeWhole w)) x.causes }

/-- R172: the enables are written. -/
def writeMask (w : RegWrite) (x : Controller) : Controller :=
  { x with mask := causesOf (writeOver w (causesBits x.mask)) }

/-- R179: a write of XNUDGE; one that falls together with the timer's expiry asks for no sweep beside the expiry's. -/
def nudge (s : State) : State := if sweeping s.xch && !s.xch.timeUp then askSweep s else s

/-- The XBASE_WRITE command. -/
def execXbaseWrite (hi : Bool) (w : RegWrite) (s : State) : Result := .next (modXch (writeBase hi w) s)

/-- The RUN_SET command: a write of XCTL with RUN 1. -/
def execRunSet (w : RegWrite) (s : State) : Result := .next (writeControl (writeWhole w ||| 1) s)

/-- The RUN_CLEAR command: a write of XCTL with RUN 0. -/
def execRunClear (w : RegWrite) (s : State) : Result := .next (writeControl (writeWhole w &&& 0xFFFFFFFE) s)

/-- The RESUME command: a write of XCTL with RESUME 1. -/
def execResume (w : RegWrite) (s : State) : Result := .next (writeControl (writeWhole w ||| 2) s)

/-- The XRST command: a write of XCTL with XRST 1. -/
def execXrst (w : RegWrite) (s : State) : Result := .next (writeControl (writeWhole w ||| 4) s)

/-- The XNUDGE command; any value written requests a sweep. -/
def execXnudge (_w : RegWrite) (host : HostWrites) (s : State) : Result :=
  .next (nudge (modMem (Memory.writeAll host) s))

/-- The XSTAT_CLEAR command. -/
def execXstatClear (w : RegWrite) (s : State) : Result := .next (modXch (writeStatus w) s)

/-- The XMASK_WRITE command. -/
def execXmaskWrite (w : RegWrite) (s : State) : Result := .next (modXch (writeMask w) s)

/-- R191: a write at an offset of the register window; XID and the unused offset ignore it. -/
def writeRegister (offset : Fin 32) (w : RegWrite) (s : State) : State :=
  match offset.val / 4 with
  | 0 => modXch (writeBase false w) s
  | 1 => modXch (writeBase true w) s
  | 2 => writeControl (writeWhole w) s
  | 3 => nudge s
  | 4 => modXch (writeStatus w) s
  | 5 => modXch (writeMask w) s
  | _ => s

/-- The REGISTER_WRITE command. -/
def execRegisterWrite (offset : Fin 32) (w : RegWrite) (s : State) : Result := .next (writeRegister offset w s)

/-! ## Exchange reset (R188) -/

/-- R17: a posted host step is withdrawn at an exchange reset, a servo step is kept. -/
def abandonStep (t : Timebase) : Timebase :=
  match t.posted with
  | some { delta := _, target := _, origin := .host _ } => { t with posted := none }
  | _ => t

/-- R158: a channel at an exchange reset: its pending schedule is removed and WAITING becomes READY. -/
def abandonChannel (ch : Channel) : Channel :=
  { ch with pending := none, arm := none, state := if ch.state = .waiting then .ready else ch.state }

/-- R94: the non-VACANT slots that are not queued join the publication queue. -/
def requeueClients (s : State) : State := forEach (occupied s) queuePub s

/-- R188: the controller at an exchange reset. -/
def resetController (x : Controller) : Controller :=
  { x with
    run := false, causes := Causes.none, state := .halted, haltAsked := false, resetAsked := false
    store := List.replicate 32 none, staging := [], lossMark := false, lost := 0, produced := 0
    timer := none, timeUp := false, sweepPending := false, sweep := none, access := none }

/-- R188: the exchange reset. -/
def exchangeReset (s : State) : State :=
  requeueClients (modXch resetController (modPou (fun u => { u with channels := u.channels.map abandonChannel })
    (modTbs abandonStep s)))

/-- The EXCHANGE_RESET command (R188): the reset asked for is made once the access in progress has ended. -/
def execExchangeReset (s : State) : Result :=
  .next (if s.xch.resetAsked && mayStop s.xch then exchangeReset s else s)

end Sys2Proof.Machine
end

