-- ==== Sys2Proof/Machine/Boundary.lean ====
section
/-! DEFINITION. The oscillator tick, the second boundary with every block's part in it (R6, R8), and full reset. -/

namespace Sys2Proof.Machine

/-- One block's handling of a boundary report. -/
def blockBoundary (r : Report) (b : Block) (s : State) : State :=
  match b with
  | .tbs => tbsBoundary r s
  | .rfi => match r.step with | none => s | some d => rfiStep d s
  | .dsv => dsvBoundary s
  | .lnk => lnkBoundary r s
  | .crs => crsBoundary r s
  | .rng => rngBoundary r s
  | .bcu => bcuBoundary r s
  | .pou => pouBoundary r s
  | .evc => evcBoundary r s

/-- The order in which the blocks take a report: the blocks named, then the others (log 6). -/
def blockOrder (named : List Block) : List Block :=
  named.eraseDups ++ Config.blockOrder.filter (fun b => !named.contains b)

/-- The tick in progress crosses a second boundary: device time moves, and the report reaches every block. -/
def boundary (named : List Block) (s : State) : State :=
  forEach (blockOrder named) (blockBoundary s.tbs.report) (tickTimer (modTbs Timebase.boundaryTick s))

/-- The SECOND_BOUNDARY command: a tick that crosses a boundary; where the tick in progress crosses none, nothing. -/
def execSecondBoundary (named : List Block) (s : State) : Result :=
  .next (if s.tbs.atBoundary then boundary named s else s)

/-- The OSCILLATOR_TICK command (R1): a tick ends; one that crosses a boundary is the boundary (log 6). -/
def execOscillatorTick (s : State) : Result :=
  .next (if s.tbs.atBoundary then boundary [] s else tickTimer (modTbs Timebase.plainTick s))

/-- The levels of an input's pulse line kept through full reset (log 12). -/
def keepLine (r : RefIn) : RefIn := { RefIn.reset with line := r.line }

/-- A port after full reset: the link-status level stands, and a frame being sent ends with an error indication (R75), also one
that ARBITER_FREE has not yet cleared from `tx`. DESIGN CHOICE (log 27). -/
def keepLink (l : LinkPort) : LinkPort := { LinkPort.reset with link := l.link, macError := l.tx.isSome }

/-- A capture input after full reset. -/
def keepCapture (c : CaptureIn) : CaptureIn := { CaptureIn.reset with line := c.line }

/-- R189 and the reset table of every block. The levels of the input pins, the memory and the waiting commands are not
the part's own state and stand; `landed` bytes of an access in progress reach memory (log 12). -/
def fullReset (landed : Nat) (s : State) : State :=
  { State.reset with
    rfi := { RefIntake.reset with inputs := mapPair keepLine s.rfi.inputs }
    lnk := mapPair keepLink s.lnk
    pou := { PulseUnit.reset with inhibit := s.pou.inhibit }
    evc := s.evc.map keepCapture
    mem := Memory.writeAll ((pendingStores s).take landed) s.mem
    pending := s.pending }

/-- The FULL_RESET command. -/
def execFullReset (landed : Nat) (s : State) : Result := .next (fullReset landed s)

end Sys2Proof.Machine
end

