-- ==== Sys2Proof/Machine/Dispatch.lean ====
section
/-! DEFINITION. One arm per command, each one call of its meaning. -/

namespace Sys2Proof.Machine

def exec (i : Instr) (s : State) : Host.Outcome State Fault Refusal :=
  match i with
  | .fullReset landed => Sys2Proof.Machine.execFullReset landed s
  | .secondBoundary blocks => Sys2Proof.Machine.execSecondBoundary blocks s
  | .refPulseRise input at_ => Sys2Proof.Machine.execRefPulseRise input at_ s
  | .refPulseFall input at_ => Sys2Proof.Machine.execRefPulseFall input at_ s
  | .stuckDeadline input => Sys2Proof.Machine.execStuckDeadline input s
  | .refMessage input chars => Sys2Proof.Machine.execRefMessage input chars s
  | .msgGapExpiry input => Sys2Proof.Machine.execMsgGapExpiry input s
  | .lossDeadline input => Sys2Proof.Machine.execLossDeadline input s
  | .revertDeadline => Sys2Proof.Machine.execRevertDeadline s
  | .linkStatusChange port level => Sys2Proof.Machine.execLinkStatusChange port level s
  | .beaconPoint port => Sys2Proof.Machine.execBeaconPoint port s
  | .arbiterFree port => Sys2Proof.Machine.execArbiterFree port s
  | .txTimestampPoint port at_ => Sys2Proof.Machine.execTxTimestampPoint port at_ s
  | .windowOpening port => Sys2Proof.Machine.execWindowOpening port s
  | .frameReceived port bytes => Sys2Proof.Machine.execFrameReceived port bytes s
  | .holdoffExpiry port => Sys2Proof.Machine.execHoldoffExpiry port s
  | .exchangeExpiry port tag => Sys2Proof.Machine.execExchangeExpiry port tag s
  | .pulseRisingEdge channel ns => Sys2Proof.Machine.execPulseRisingEdge channel ns s
  | .pulseFallingEdge channel => Sys2Proof.Machine.execPulseFallingEdge channel s
  | .inhibitAssert => Sys2Proof.Machine.execInhibitAssert s
  | .captureLineChange input level at_ => Sys2Proof.Machine.execCaptureLineChange input level at_ s
  | .captureConfirmation input => Sys2Proof.Machine.execCaptureConfirmation input s
  | .portSetup src p => Sys2Proof.Machine.execPortSetup src p s
  | .refSetup src p => Sys2Proof.Machine.execRefSetup src p s
  | .setRef src mode => Sys2Proof.Machine.execSetRef src mode s
  | .servoSetup src p => Sys2Proof.Machine.execServoSetup src p s
  | .postStep src p => Sys2Proof.Machine.execStep src p s
  | .utcSetup src p => Sys2Proof.Machine.execUtcSetup src p s
  | .admitClient src client host => Sys2Proof.Machine.execAdmit src client host s
  | .reconfig src client host => Sys2Proof.Machine.execReconfig src client host s
  | .retire src client => Sys2Proof.Machine.execRetire src client s
  | .rangingSetup src p => Sys2Proof.Machine.execRangingSetup src p s
  | .noticePost src p => Sys2Proof.Machine.execNoticePost src p s
  | .noticeWithdraw src index => Sys2Proof.Machine.execNoticeWithdraw src index s
  | .pulseProgram src p => Sys2Proof.Machine.execPulseProgram src p s
  | .pulseArm src p => Sys2Proof.Machine.execPulseArm src p s
  | .gateSetup src floor => Sys2Proof.Machine.execGateSetup src floor s
  | .gateOpen src => Sys2Proof.Machine.execGateOpen src s
  | .captureSetup src p => Sys2Proof.Machine.execCaptureSetup src p s
  | .snapshot src view => Sys2Proof.Machine.execSnapshot src view s
  | .cancel src target cookie => Sys2Proof.Machine.execCancel src target cookie s
  | .sweepPeriodExpiry host => Sys2Proof.Machine.execSweepPeriodExpiry host s
  | .pendingSweepStart host => Sys2Proof.Machine.execPendingSweepStart host s
  | .busError landed => Sys2Proof.Machine.execBusError landed s
  | .headerRead host => Sys2Proof.Machine.execHeaderRead host s
  | .xbaseWrite hi w => Sys2Proof.Machine.execXbaseWrite hi w s
  | .runSet w => Sys2Proof.Machine.execRunSet w s
  | .runClear w => Sys2Proof.Machine.execRunClear w s
  | .halt => Sys2Proof.Machine.execHalt s
  | .resume w => Sys2Proof.Machine.execResume w s
  | .xrst w => Sys2Proof.Machine.execXrst w s
  | .exchangeReset => Sys2Proof.Machine.execExchangeReset s
  | .xnudge w host => Sys2Proof.Machine.execXnudge w host s
  | .xstatClear w => Sys2Proof.Machine.execXstatClear w s
  | .xmaskWrite w => Sys2Proof.Machine.execXmaskWrite w s
  | .registerWrite offset w => Sys2Proof.Machine.execRegisterWrite offset w s
  | .oscillatorTick => Sys2Proof.Machine.execOscillatorTick s
  | .inhibitDeassert => Sys2Proof.Machine.execInhibitDeassert s
  | .receiveTimestampPoint port at_ => Sys2Proof.Machine.execReceiveTimestampPoint port at_ s
  | .messageCharacter input c => Sys2Proof.Machine.execMessageCharacter input c s
  | .accessEnd host => Sys2Proof.Machine.execAccessEnd host s

end Sys2Proof.Machine
end

