-- ==== Sys2Proof/Safety.lean ====
section
/-! DEFINITION. What holds in every state the part can be in: the laws the spec gives of the whole machine. Each is kept
by every step, and holds at reset. -/

namespace Sys2Proof.Machine

/-- System memory is in its canonical form. -/
def MemoryOk (s : State) : Prop := Memory.wf s.mem = true

/-- Device time, the increment of a tick, Φ and the UTC offset lie in their ranges (ch. 1.1, R3, R5, R13). -/
def TimeOk (s : State) : Prop :=
  s.tbs.time.sec < secSpan ∧ s.tbs.time.ns < nsPerSec ∧ s.tbs.time.frac < unitsPerNs ∧
  minInc ≤ (s.tbs.tickInc : Int) ∧ (s.tbs.tickInc : Int) ≤ maxInc ∧
  -phiLimit ≤ s.tbs.phi ∧ s.tbs.phi ≤ phiLimit ∧
  -32768 ≤ s.tbs.utcOffset ∧ s.tbs.utcOffset ≤ 32767

/-- The class lies in 1..7, is 7 in FREERUN, and the Beacon Unit and the Pulse Output Unit hold it too (R56, R57). -/
def ClassOk (s : State) : Prop :=
  1 ≤ s.dsv.cls ∧ s.dsv.cls ≤ 7 ∧ s.bcu.cls = s.dsv.cls ∧ s.pou.cls = s.dsv.cls ∧
  (s.dsv.state = .freerun → s.dsv.cls = 7)

/-- An OPEN gate has a class within its floor and no inhibit, and a CLOSED one leaves no gated channel a pulse in
progress (R154 to R157). -/
def GateOk (s : State) : Prop :=
  (s.pou.gateOpen = true → s.pou.cls ≤ s.pou.floor ∧ s.pou.inhibit = false) ∧
  ∀ ch ∈ s.pou.channels, ch.active.gated = true → s.pou.gateOpen = false → ch.fall = none

/-- A path's debt lies in 0..9, is 9 exactly when the path is LOST, and is 0 when it is IDLE (R97, R98). -/
def PathDebtOk (q : Path) : Prop := q.debt ≤ 9 ∧ (q.state = .lost ↔ q.debt = 9) ∧ (q.state = .idle → q.debt = 0)

/-- Every path of every context keeps the debt law (R98). -/
def DebtOk (s : State) : Prop := ∀ c ∈ s.crs.clients, PathDebtOk c.paths.a ∧ PathDebtOk c.paths.b

/-- The outstanding-exchange table of a port: at most 16 entries, tags and slots distinct (R105). -/
def TableOk (r : RangePort) : Prop :=
  r.table.length ≤ 16 ∧ (r.table.map (·.tag)).Nodup ∧ (r.table.map (·.slot)).Nodup

/-- The tables of both ports (R105). -/
def TablesOk (s : State) : Prop := TableOk s.rng.ports.a ∧ TableOk s.rng.ports.b

/-- The bounded queues are within their bounds: staging 64 (R185), message FIFOs 2 (R24), launch histories 8 (R102),
newcomers 16 (R90), error history 8 (R50), frequency history 16 (R51); and the part has its 256 contexts, 8 notice
blocks, 8 pulse channels, 4 capture inputs and 32 order slots. -/
def BoundsOk (s : State) : Prop :=
  s.xch.staging.length ≤ 64 ∧ s.rfi.inputs.a.fifo.length ≤ 2 ∧ s.rfi.inputs.b.fifo.length ≤ 2 ∧
  s.rng.ports.a.history.length ≤ 8 ∧ s.rng.ports.b.history.length ≤ 8 ∧ s.crs.newcomers.length ≤ 16 ∧
  s.dsv.errHist.length ≤ 8 ∧ s.dsv.freqHist.length ≤ 16 ∧ s.crs.clients.length = 256 ∧ s.bcu.notices.length = 8 ∧
  s.pou.channels.length = 8 ∧ s.evc.length = 4 ∧ s.xch.store.length = 32

/-- The publication queue and both roll-call queues hold a slot at most once (R92, R130). -/
def QueuesOk (s : State) : Prop :=
  s.crs.queue.Nodup ∧ (s.bcu.ports.a.roll.map (·.slot)).Nodup ∧ (s.bcu.ports.b.roll.map (·.slot)).Nodup

/-- The addresses of the non-VACANT contexts. -/
def heldAddrs (s : State) : List MacAddr := (s.crs.clients.filter (·.state != .vacant)).map (·.config.addr)

/-- No two non-VACANT contexts hold one address, no two newcomers do, and no newcomer's is held (R90). -/
def AddressesOk (s : State) : Prop :=
  (heldAddrs s).Nodup ∧ (s.crs.newcomers.map (·.addr)).Nodup ∧ ∀ e ∈ s.crs.newcomers, e.addr ∉ heldAddrs s

/-! ## Terms of the statements -/

/-- `s` with the order of `src` in the store, completed with a result and result data and not yet written (R182). -/
def answered (src : OrderSrc) (o : Order) (r : ResultCode) (data : List Byte) (s : State) : State :=
  modXch (fun x => { x with
    store := x.store.set src.slot.val (some { order := o, cookie := src.cookie, status := .completed r data false }) }) s

/-- `s` with the order of `src` in the store, held (R181). -/
def holding (src : OrderSrc) (o : Order) (s : State) : State :=
  modXch (fun x => { x with
    store := x.store.set src.slot.val (some { order := o, cookie := src.cookie, status := .held }) }) s

/-- The order that a command hands over, with the slot it comes from. -/
def orderHanded : Instr → Option (OrderSrc × Order)
  | .portSetup src p => some (src, .portSetup p)
  | .refSetup src p => some (src, .refSetup p)
  | .setRef src m => some (src, .setRef m)
  | .servoSetup src p => some (src, .servoSetup p)
  | .postStep src p => some (src, .postStep p)
  | .utcSetup src p => some (src, .utcSetup p)
  | .admitClient src c _ => some (src, .admitClient c)
  | .reconfig src c _ => some (src, .reconfig c)
  | .retire src c => some (src, .retire c)
  | .rangingSetup src p => some (src, .rangingSetup p)
  | .noticePost src p => some (src, .noticePost p)
  | .noticeWithdraw src i => some (src, .noticeWithdraw i)
  | .pulseProgram src p => some (src, .pulseProgram p)
  | .pulseArm src p => some (src, .pulseArm p)
  | .gateSetup src f => some (src, .gateSetup f)
  | .gateOpen src => some (src, .gateOpen)
  | .captureSetup src p => some (src, .captureSetup p)
  | .snapshot src v => some (src, .snapshot v)
  | .cancel src t c => some (src, .cancel t c)
  | _ => none

/-- The host's own stores that come with a command (log 9). -/
def hostStores : Instr → List Host.Cell
  | .admitClient _ _ host => host
  | .reconfig _ _ host => host
  | .sweepPeriodExpiry host => host
  | .pendingSweepStart host => host
  | .headerRead host => host
  | .xnudge _ host => host
  | .accessEnd host => host
  | _ => []

/-- The part's own stores that a command lets reach memory: those of the access in progress (R173, R177). -/
def partStores (c : Instr) (s : State) : List Host.Cell :=
  match c with
  | .accessEnd _ => pendingStores s
  | .busError landed => (cutStores s).take landed
  | .fullReset landed => (pendingStores s).take landed
  | _ => []

/-- R102: fewer than L departures of the port lie within the window that ends now. -/
def windowHasRoom (s : State) (p : Port) : Prop :=
  ((rangePort s p).history.filter (fun u => decide (now s < u + s.rng.settings.window * 16000))).length < s.rng.settings.limit

/-- R100: a path with debt, no outstanding exchange and a client that is not VACANT, on a port in UP. -/
def wantsLaunch (s : State) (p : Port) (n : Nat) : Prop :=
  n < s.crs.clients.length ∧ (client s n).state ≠ .vacant ∧ 0 < (path s n p).debt ∧
  (∀ x ∈ (rangePort s p).table, x.slot ≠ n) ∧ (link s p).state = .up

/-- R100: a launch is permitted on the port in every respect but the arbiter's. -/
def launchHolds (s : State) (p : Port) : Prop :=
  (∃ n, wantsLaunch s p n) ∧ (rangePort s p).table.length < 16 ∧ windowHasRoom s p

/-- A record with this body is among those that `t` has staged since `s`, unless staging is full (R185). -/
def handedOn (s t : State) (body : JournalBody) : Prop :=
  (∃ r ∈ t.xch.staging.drop s.xch.staging.length, r.body = body) ∨ 64 ≤ t.xch.staging.length

/-- A structure's bytes against the rows (offset, size, value) of its table in ch. 11: each field is little-endian, a signed
value in two's complement of its size (R190). -/
def laidOut (bs : List Byte) (rows : List (Nat × Nat × Int)) : Prop :=
  ∀ r ∈ rows, (fieldLe bs r.1 r.2.1 : Int) = r.2.2 % (256 ^ r.2.1 : Nat)

/-! ### The selection and its notice -/

/-- R54, R56, R57: the servo's fields after a class evaluation. -/
def classEvaluated (d : Servo) : Servo :=
  let eps := match d.state with
    | .acquire | .track => min ((d.errHist.sum + d.errHist.length - 1) / d.errHist.length + d.rcvEstimate) 4294967295
    | .freerun | .holdover => d.eps
  let grade := if eps ≤ 100 then 1 else if eps ≤ 1000 then 2 else if eps ≤ 10000 then 3 else if eps ≤ 100000 then 4
    else if eps ≤ 1000000 then 5 else 6
  let cand := match d.state with
    | .freerun => 7
    | .acquire => max 3 grade
    | .track | .holdover => grade
  { d with
    eps := eps
    cls := if d.cls < cand ∨ cand < d.cls ∧ d.settings.improveDwell ≤ d.dwell + 1 then cand else d.cls
    dwell := if cand < d.cls ∧ d.dwell + 1 < d.settings.improveDwell then d.dwell + 1 else 0 }

/-- R45, R50 to R54: the servo and Φ from `s` to `t` under a selection notice of a change from `prev` to `new`. -/
def noticeTaken (prev new : Option RefInput) (s t : State) : Prop :=
  let d := { s.dsv with lockRun := 0 }
  let lasting := min ((d.errHist.sum + d.errHist.length - 1) / d.errHist.length + d.rcvEstimate) 4294967295
  let mean := d.freqHist.sum.tdiv d.freqHist.length
  let entered := fun (e : Servo) (cause : ServoCause) (phi : Int) =>
    t.dsv = classEvaluated e ∧ t.tbs = { s.tbs with phi := phi } ∧
    handedOn s t (.servoState d.state e.state cause phi e.eps e.labelCount e.gatedCount)
  match prev, new, d.state with
  | none, some _, .freerun | none, some _, .holdover =>
    entered { d with state := .acquire, errHist := [], labelRun := 0, gateRun := 0, holdSeconds := 0 } .refActive s.tbs.phi
  | some _, none, .acquire => entered { d with state := .freerun, freqHist := [], holdSeconds := 0 } .refLost s.tbs.phi
  | some _, none, .track =>
    entered { d with state := .holdover, eps := lasting, holdSeconds := 0 } .refLost
      (if 4 ≤ d.freqHist.length then max (-25600000) (min 25600000 mean) else s.tbs.phi)
  | some _, some _, .acquire => t.dsv = { d with errHist := [] } ∧ t.tbs = s.tbs
  | some _, some _, .track => t.dsv = { d with errHist := [], labelRun := 0, gateRun := 0 } ∧ t.tbs = s.tbs
  | _, _, _ => t.dsv = d ∧ t.tbs = s.tbs

/-- R31 to R33, R36, R52: `t` is `s` with this mode and active input selected: the revert deadline, the disagreement run and
flag, the REF_CHANGE record of a change, and the selection notice of a change of active input. -/
def selected (mode : SelMode) (active : Option RefInput) (cause : RefChangeCause) (s t : State) : Prop :=
  let pref := s.rfi.preference
  let changed := active ≠ s.rfi.active
  t = { s with rfi := t.rfi, tbs := t.tbs, dsv := t.dsv, bcu := t.bcu, pou := t.pou, xch := t.xch } ∧
  t.rfi = { s.rfi with
    mode := mode, active := active
    revertAt := if mode = .auto ∧ active = some (otherInput pref) ∧ (refIn s pref).qual = .qualified then
      some (s.rfi.revertAt.getD (now s + 960000000000)) else none
    disagreeRun := if changed then 0 else s.rfi.disagreeRun
    disagreeFlag := if changed then false else s.rfi.disagreeFlag } ∧
  (changed ∨ mode ≠ s.rfi.mode → handedOn s t (.refChange s.rfi.active active mode cause)) ∧
  (¬ changed → t.dsv = s.dsv ∧ t.tbs = s.tbs) ∧
  (changed → noticeTaken s.rfi.active active s t)

/-- R31: the active input that AUTO chooses. -/
def autoInput (s : State) : Option RefInput :=
  let pref := s.rfi.preference
  let other := otherInput pref
  let up := fun i => (refIn s i).qual = .qualified
  if s.rfi.active = some other ∧ up other then some other
  else if up pref then some pref
  else if up other then some other
  else none

/-- R28, R31, R34: the re-evaluation of the selection with this cause, which from a forced mode has FORCE_LOST instead. -/
def reselected (cause : RefChangeCause) (s t : State) : Prop :=
  match s.rfi.mode with
  | .auto => selected .auto (autoInput s) cause s t
  | .force i =>
    ((refIn s i).qual = .qualified → t = s) ∧
    ((refIn s i).qual ≠ .qualified → selected .auto (autoInput s) .forceLost s t)

/-! ### The state of a client -/

/-- R83, lines 2 to 6: the state that the table gives a slot that holds a client. -/
def tableState (c : Client) : ClientState :=
  if (c.config.allowed = .b ∨ c.paths.a.state = .lost) ∧ (c.config.allowed = .a ∨ c.paths.b.state = .lost) then .silent
  else if c.reverify then .reverify
  else if c.paths.a.state ≠ .valid ∧ c.paths.b.state ≠ .valid then .admitted
  else if c.offsetV.verdict = .fail ∨ c.pulseV.verdict = .fail then .astray
  else .following

/-- R83, R84: between `s` and `t` slot `n`, which held a client in state `prev`, was evaluated as `c`. A change hands on its
CLIENT_STATE record, queues the slot for publication, and, into or out of FOLLOWING, queues the client for roll-call, its entry
uncarried, on each port on which its path is VALID. -/
def evaluatedFrom (n : Nat) (cause : ClientCause) (prev : ClientState) (c : Client) (s t : State) : Prop :=
  let new := tableState c
  new ≠ prev →
    handedOn s t (.clientState n c.config.addr prev new cause c.offsetV.verdict c.pulseV.verdict c.paths.a.state c.paths.b.state) ∧
    n ∈ t.crs.queue ∧
    (prev = .following ∨ new = .following → ∀ port, (atPort c.paths port).state = .valid →
      ∃ e ∈ (beaconPort t port).roll, e.slot = n ∧ e.carried = false)

/-- R83, R84: slot `n`, which held a client in `s`, has in `t` the state that the table gives it, and a change is recorded. -/
def stateFollows (n : Nat) (cause : ClientCause) (s t : State) : Prop :=
  (client t n).state = tableState (client t n) ∧ evaluatedFrom n cause (client s n).state (client t n) s t

/-! ### A port out of UP -/

/-- R136: a ONCE block as port `p` leaves it, which owes it no longer: free, with its NOTICE_DONE record, where no port owes it. -/
def onceSettled (p : Port) (i : Nat) (n : Notice) (s t : State) : Prop :=
  let left : Notice := { n with owed := modPort p (fun _ => false) n.owed }
  (left.owed ≠ ⟨false, false⟩ → noticeAt t i = some left) ∧
  (left.owed = ⟨false, false⟩ → noticeAt t i = none ∧ handedOn s t (.noticeDone i .once n.carried
    (if n.owedAtPost = ⟨false, false⟩ then .noneUp
      else if (n.owedAtPost.a = true → n.carried.a = true) ∧ (n.owedAtPost.b = true → n.carried.b = true) then .sent
      else .portDown)))

/-- R62, R108, R125, R129, R136: port `p`, in UP in `s`, has left it in `t`. -/
def upLeft (p : Port) (s t : State) : Prop :=
  (link t p).beaconReq = false ∧ (link t p).rangeReq = false ∧ (link t p).tx = none ∧ (link t p).rx = none ∧
  (link t p).macError = ((link s p).macError || (link s p).tx.any (fun f => f.stamped)) ∧
  rangePort t p = { rangePort s p with table := [], windowAt := (rangePort t p).windowAt } ∧
  (∀ x ∈ (rangePort s p).table, (path t x.slot p).lastExpired = none) ∧
  beaconPort t p = { beaconPort s p with
    next := none, rate := (beaconPort t p).rate, pendingRate := none, built := none
    roll := (beaconPort s p).roll.map (fun e => { e with carried := false }) } ∧
  ∀ i < 8,
    ((∀ n, noticeAt s i = some n → ¬ (n.mode = .once ∧ atPort n.owed p = true)) → noticeAt t i = noticeAt s i) ∧
    (∀ n, noticeAt s i = some n → n.mode = .once → atPort n.owed p = true → onceSettled p i n s t)

/-! ### Sweeps -/

/-- R181: the slot reads POSTED, and the store holds no held order and no completion not yet written for it. -/
def slotWaits (s : State) (n : Nat) : Prop :=
  Memory.read s.mem ((s.xch.baseHi.toNat * 2 ^ 32 + s.xch.baseLo.toNat + (0x40 + 64 * n)) % 2 ^ 64) = 1 ∧
  ∀ en, storeEntry s n = some en → ∃ r data, en.status = .completed r data true

/-- R182: the store holds a completion not yet written for the slot. -/
def completionWaits (s : State) (n : Nat) : Prop :=
  ∃ en r data, storeEntry s n = some en ∧ en.status = .completed r data false

/-- R77: the store holds an ADMIT or RECONFIG of this client slot, not yet handled. -/
def configWaits (s : State) (n : Nat) (o : Order) : Prop :=
  (∃ c, o = .admitClient c ∨ o = .reconfig c) ∧ ∃ cookie, storeEntry s n = some { order := o, cookie := cookie, status := .held }

/-- `n` is the first slot from `k` on, of the 32, that meets `q`. -/
def firstFrom (k : Nat) (q : Nat → Prop) (n : Nat) : Prop := k ≤ n ∧ n < 32 ∧ q n ∧ ∀ j, k ≤ j → j < n → ¬ q j

/-- R76, R78, R80: what the checks before the read of the configuration group make of an ADMIT or RECONFIG: a refusal, or
nothing, and the group is read. -/
def firstRefusal (s : State) : Order → Option ResultCode
  | .admitClient c => if 256 ≤ c.toNat then some .badField else if (client s c.toNat).state ≠ .vacant then some .occupied else none
  | .reconfig c => if 256 ≤ c.toNat then some .badField else if (client s c.toNat).state = .vacant then some .vacant else none
  | _ => none

/-- `s` with this access in progress and the sweep standing at this step. -/
def reaching (a : Access) (step : SweepStep) (s : State) : State :=
  { s with xch := { s.xch with access := some a, sweep := some step } }

/-- `s` with the sweep standing at this step and no access. -/
def standing (step : SweepStep) (s : State) : State := { s with xch := { s.xch with sweep := some step } }

/-- R180: `s` at the beginning of a sweep, which starts the period timer (R179). -/
def sweepStarted (s : State) : State :=
  { s with xch := { s.xch with timer := some (s.xch.period.getD 0 * 125), sweep := some (.orders 0) } }

/-- R186: the fill of the memory journal. -/
def fillOf (x : Controller) : Nat := (x.produced + 2 ^ 32 - x.consumed.getD 0) % 2 ^ 32

/-- R77, R175, R178, R180 to R182, R186, R187, R92, R93: how a sweep goes on from where it stands, to its next access or to
its end. -/
inductive SweepGoesOn : State → State → Prop where
  /-- A held ADMIT or RECONFIG is handed again, and refused before its read. -/
  | refuse (s t : State) (k n : Nat) (o : Order) (en : StoreEntry) (r : ResultCode) : s.xch.sweep = some (.retry k) →
      firstFrom k (fun n => ∃ o, configWaits s n o) n → configWaits s n o → storeEntry s n = some en →
      firstRefusal s o = some r →
      SweepGoesOn (standing (.retry (n + 1)) { s with xch := { s.xch with
        store := s.xch.store.set n (some { en with status := .completed r [] false }) } }) t →
      SweepGoesOn s t
  /-- A held ADMIT or RECONFIG is handed again and its configuration group read anew. -/
  | readAgain (s : State) (k n : Nat) (o : Order) : s.xch.sweep = some (.retry k) →
      firstFrom k (fun n => ∃ o, configWaits s n o) n → configWaits s n o → firstRefusal s o = none →
      SweepGoesOn s (reaching (.readConfig n) (.retry (n + 1)) s)
  /-- No held ADMIT or RECONFIG is left: the first sweep begins. -/
  | first (s t : State) (k : Nat) : s.xch.sweep = some (.retry k) → (∀ n o, k ≤ n → n < 32 → ¬ configWaits s n o) →
      SweepGoesOn (sweepStarted s) t → SweepGoesOn s t
  /-- Step 1: the next slot that may be taken. -/
  | take (s : State) (k n : Nat) : s.xch.sweep = some (.orders k) → firstFrom k (slotWaits s) n →
      SweepGoesOn s (reaching (.takeSlot n) (.orders (n + 1)) s)
  /-- Step 1 ends. -/
  | taken (s t : State) (k : Nat) : s.xch.sweep = some (.orders k) → (∀ n, k ≤ n → n < 32 → ¬ slotWaits s n) →
      SweepGoesOn (standing (.completions 0) s) t → SweepGoesOn s t
  /-- Step 2: the next completion not yet written. -/
  | complete (s : State) (k n : Nat) : s.xch.sweep = some (.completions k) → firstFrom k (completionWaits s) n →
      SweepGoesOn s (reaching (.complete n) (.completions (n + 1)) s)
  /-- Step 2 ends; step 3 publishes up to 32 records. -/
  | completed (s t : State) (k : Nat) : s.xch.sweep = some (.completions k) →
      (∀ n, k ≤ n → n < 32 → ¬ completionWaits s n) → SweepGoesOn (standing (.clients 32) s) t → SweepGoesOn s t
  /-- Step 3: the slot at the head of the publication queue leaves it, its version is odd and its fields are copied. -/
  | publish (s : State) (left n : Nat) (rest : List Nat) (c : Client) : s.xch.sweep = some (.clients (left + 1)) →
      s.crs.queue = n :: rest →
      c = { client s n with version :=
        if (client s n).version % 2 = 0 then ((client s n).version + 1) % 2 ^ 32 else (client s n).version } →
      SweepGoesOn s (reaching (.publish n .odd (measureFields (client s n))) (.clients left)
        { s with crs := { s.crs with clients := s.crs.clients.set n c, queue := rest } })
  /-- Step 3 ends; step 4 reads the host words and takes no more records than are staged now. -/
  | published (s : State) (left : Nat) : s.xch.sweep = some (.clients left) → (left = 0 ∨ s.crs.queue = []) →
      SweepGoesOn s (reaching .headerHost (.journal s.xch.staging.length) s)
  /-- Step 4: the next staged record, the fill being below the capacity. -/
  | journal (s : State) (left : Nat) : s.xch.sweep = some (.journal (left + 1)) → s.xch.staging ≠ [] →
      fillOf s.xch < s.xch.capacity.getD 0 → SweepGoesOn s (reaching .journal (.journal left) s)
  /-- Step 4 ends; JOURNAL is set where the fill is not below the threshold, and step 5 writes the part words. -/
  | header (s : State) (left : Nat) : s.xch.sweep = some (.journal left) →
      (left = 0 ∨ s.xch.staging = [] ∨ s.xch.capacity.getD 0 ≤ fillOf s.xch) →
      SweepGoesOn s (reaching .headerPart .header { s with xch := { s.xch with causes := { s.xch.causes with
        journal := s.xch.causes.journal || decide (s.xch.threshold.getD 0 ≤ fillOf s.xch) } } })
  /-- Step 6: the sweep count, and the end. -/
  | ended (s : State) : s.xch.sweep = some .header →
      SweepGoesOn s { s with xch := { s.xch with sweeps := (s.xch.sweeps + 1) % 2 ^ 32, sweep := none } }

/-- R176, R180, R188: the sweep goes on from `s` to `t` unless the exchange is being stopped. -/
def sweepContinues (s t : State) : Prop :=
  if s.xch.haltAsked ∨ s.xch.resetAsked then t = s else SweepGoesOn s t

/-! ### Runs -/

/-- The ticks that a command ends: one for OSCILLATOR_TICK, one for a SECOND_BOUNDARY that is due. -/
def ticksBy (c : Instr) (s : State) : Nat :=
  match c with
  | .oscillatorTick => 1
  | .secondBoundary _ => if s.tbs.atBoundary then 1 else 0
  | _ => 0

/-- Commands carried out one after another, with the number of ticks they end; nothing where one of them is a full
reset or applies a step. -/
def runUnstepped : List Instr → State → Option (State × Nat)
  | [], s => some (s, 0)
  | .fullReset _ :: _, _ => none
  | c :: cs, s =>
    if ticksBy c s = 1 && s.tbs.stepDue then none
    else
      match exec c s with
      | .next t => (runUnstepped cs t).map (fun r => (r.1, r.2 + ticksBy c s))
      | .fault _ => none
      | .refused _ => none

end Sys2Proof.Machine
end

