-- ==== Sys2Proof/Certificates/Slice0/Obligations.lean ====
section
/-! DEFINITION. The statements for the provers. Each docstring names the rule, or the log entry of a model's choice, that
the statement formalises. -/

open Sys2Proof Sys2Proof.Machine

/-! ## The machine -/

/-- Log 1: a step takes the command at the front of the queue, and with no command waiting the part idles. -/
def Obligations.StepTakesFrontCommand : Prop :=
  ∀ s : State,
    (∀ c rest, s.pending = c :: rest → step s = exec c { s with pending := rest }) ∧ (s.pending = [] → step s = .next s)

/-- Every command answers a next state in every state and leaves the queue as it is (ch. 11.8, log 1).
That `exec` leaves the queue alone is the model's (log 1). -/
def Obligations.EveryCommandAnswersAndKeepsQueue : Prop :=
  ∀ (c : Instr) (s : State), ∃ t, exec c s = .next t ∧ t.pending = s.pending

/-- R173: only the controller's accesses write memory. After any command memory is what the host's stores and those of
the access in progress make of it, and every other byte reads as before.
The model's choices: the host's stores are operands (log 9), so is how much of a cut access landed (logs 11, 12). -/
def Obligations.MemoryChangesByStoresOnly : Prop :=
  ∀ (c : Instr) (s : State), ∃ t, exec c s = .next t ∧
    t.mem = Memory.writeAll (hostStores c ++ partStores c s) s.mem ∧
    (MemoryOk s → ∀ a, (∀ w ∈ hostStores c ++ partStores c s, w.1 ≠ a) → Memory.read t.mem a = Memory.read s.mem a)

/-- R181: an order whose slot still holds a held order or a completion not yet written is passed over (log 10), and a slot may
be taken exactly where the store holds neither for it.
That the order rows hand over directly is the model's choice (log 10). -/
def Obligations.OrderPassedOverWhileSlotHeld : Prop :=
  (∀ (c : Instr) (src : OrderSrc) (o : Order) (s : State) (en : StoreEntry), orderHanded c = some (src, o) →
    storeEntry s src.slot.val = some en → (en.status = .held ∨ ∃ r data, en.status = .completed r data false) →
    exec c s = .next (modMem (Memory.writeAll (hostStores c)) s)) ∧
  ∀ (s : State) (n : Nat),
    canTake s n = true ↔ ∀ en, storeEntry s n = some en → ∃ r data, en.status = .completed r data true

/-- R57, R172: whenever a command changes the class, the CLASS cause stands after it; only full reset, which clears
the causes, is apart. -/
def Obligations.ClassChangeSetsCause : Prop :=
  ∀ (c : Instr) (s : State), ∃ t, exec c s = .next t ∧
    ((∀ landed, c ≠ .fullReset landed) → t.dsv.cls ≠ s.dsv.cls → t.xch.causes.cls = true)

/-! ## What every step keeps -/

/-- Memory keeps its canonical form. -/
def Obligations.StepKeepsMemoryForm : Prop := ∀ s t : State, MemoryOk s → step s = .next t → MemoryOk t

/-- R1, R3, R5, R13: device time, the increment of a tick, Φ and the UTC offset stay in their ranges. -/
def Obligations.StepKeepsTimeInRange : Prop := ∀ s t : State, TimeOk s → step s = .next t → TimeOk t

/-- R56, R57: the class stays in 1..7, is 7 in FREERUN, and the Beacon Unit and the Pulse Output Unit hold the same. -/
def Obligations.StepKeepsClass : Prop := ∀ s t : State, ClassOk s → step s = .next t → ClassOk t

/-- R154 to R157: an OPEN gate has a class within its floor and no inhibit; a CLOSED one leaves no gated pulse. -/
def Obligations.StepKeepsGate : Prop := ∀ s t : State, GateOk s → step s = .next t → GateOk t

/-- R98: every path's debt lies in 0..9, a path with debt 9 is LOST and a LOST path has debt 9. -/
def Obligations.StepKeepsDebt : Prop := ∀ s t : State, DebtOk s → step s = .next t → DebtOk t

/-- R105: each port's outstanding-exchange table holds at most 16 entries, with distinct tags and at most one entry per
client path. -/
def Obligations.StepKeepsExchangeTables : Prop := ∀ s t : State, TablesOk s → step s = .next t → TablesOk t

/-- R24, R50, R51, R90, R102, R185: the bounded queues and histories stay within their bounds. -/
def Obligations.StepKeepsQueueBounds : Prop := ∀ s t : State, BoundsOk s → step s = .next t → BoundsOk t

/-- R92, R130: the publication queue and the roll-call queues hold a slot at most once. Ch. 5.1, R90: no two clients and no two
newcomers share an address, and no newcomer has a client's. -/
def Obligations.StepKeepsSlotsAndAddressesOnce : Prop :=
  (∀ s t : State, QueuesOk s → step s = .next t → QueuesOk t) ∧
  ∀ s t : State, AddressesOk s → step s = .next t → AddressesOk t

/-- The reset state meets all of these laws. -/
def Obligations.ResetMeetsLaws : Prop :=
  MemoryOk State.reset ∧ TimeOk State.reset ∧ ClassOk State.reset ∧ GateOk State.reset ∧ DebtOk State.reset ∧
  TablesOk State.reset ∧ BoundsOk State.reset ∧ QueuesOk State.reset ∧ AddressesOk State.reset

/-! ## Timebase (ch. 1) -/

/-- R1, R2, R4, R5: a tick that crosses no second boundary adds the increment it began with, the carry going into the
nanoseconds; the next tick's increment is the nominal one, the frequency term of Φ and the slew share, held between
34,352,866,421 and 34,366,610,315, and what the slew then applies leaves its remaining amount. Nothing but the Timebase
and the period timer changes. The frequency term is Φ × 134,217,728 / 1,000,000,000 rounded half away from zero: it is
odd in Φ, and for Φ not below 0 it is the integer nearest the quotient, the greater of two as near.
A tick that crosses a boundary is that boundary, the blocks taking it in the model's order, and a SECOND_BOUNDARY while the
tick in progress crosses none changes nothing: both are the model's choice (log 6). The fields `lastInc`, `stepTick` and
`reachedFrom` are the model's (log 3), and so is `timeUp` (log 33). -/
def Obligations.TickAddsIncrementOrIsBoundary : Prop :=
  (∀ s : State, s.tbs.time.ns + (s.tbs.time.frac + s.tbs.tickInc) / 2 ^ 32 < 1000000000 →
    ∃ t, exec .oscillatorTick s = .next t ∧
      t.tbs.time = ⟨s.tbs.time.sec, s.tbs.time.ns + (s.tbs.time.frac + s.tbs.tickInc) / 2 ^ 32,
        (s.tbs.time.frac + s.tbs.tickInc) % 2 ^ 32⟩ ∧
      (t.tbs.tickInc : Int) = max 34352866421 (min 34366610315 (34359738368 + freqTerm s.tbs.phi +
        (if 1 < s.tbs.slew.ticksLeft then s.tbs.slew.share else s.tbs.slew.remaining))) ∧
      t.tbs.slew.remaining = s.tbs.slew.remaining - (t.tbs.tickInc - 34359738368 - freqTerm s.tbs.phi) ∧
      t.tbs.slew.ticksLeft = s.tbs.slew.ticksLeft - 1 ∧ t.tbs.slew.share = s.tbs.slew.share ∧
      t = { s with
        tbs := { s.tbs with time := t.tbs.time, tickInc := t.tbs.tickInc, slew := t.tbs.slew, lastInc := s.tbs.tickInc,
                            stepTick := none, reachedFrom := s.tbs.time.units + 1 }
        xch := { s.xch with timer := s.xch.timer.map (· - 1), timeUp := false } }) ∧
  (∀ (s : State) (blocks : List Block),
    (s.tbs.atBoundary = true → exec .oscillatorTick s = exec (.secondBoundary []) s) ∧
    (s.tbs.atBoundary = false → exec (.secondBoundary blocks) s = .next s)) ∧
  ∀ phi : Int, freqTerm (-phi) = -freqTerm phi ∧
    (0 ≤ phi → 2 * freqTerm phi * 1000000000 ≤ 2 * phi * 134217728 + 1000000000 ∧
      2 * phi * 134217728 + 1000000000 < 2 * freqTerm phi * 1000000000 + 2000000000)

/-- R1, R2, R4 to R6, R8: a tick that crosses a second boundary. A posted step is due there exactly where its target is NEXT or
the epoch second N, the seconds as counted before the step. Without a step due, 1,000,000,000 leaves the nanoseconds and the
seconds grow by 1, 2^48 − 1 being followed by 0; with one, device time moves on by Δ × 2^28 units more, held at both ends of its
range, the posted step is cleared and no slew is left. The next tick's increment and what is left of a slew are fixed as for any
tick (R2, R4, R5), without slew after a step. SECOND_BOUNDARY takes the blocks in any order. What the blocks are told is the new
epoch second, Δ, and the boundary instant, moved by Δ within the range of device time (log 8). The STEP_APPLIED record carries
origin, Δ and N, and the host order that posted the step completes OK with N, Δ and the device time after the step; the premises
keep other orders of the same slot out, which no run brings about.
The order of the blocks as an operand is the model's choice (log 6), `lastInc` and `stepTick` its fields (log 3). -/
def Obligations.BoundaryMovesDeviceTime : Prop :=
  (∀ s : State, TimeOk s →
    (s.tbs.atBoundary = true ↔ 1000000000 ≤ s.tbs.time.ns + (s.tbs.time.frac + s.tbs.tickInc) / 2 ^ 32) ∧
    (s.tbs.stepDue = true ↔ s.tbs.atBoundary = true ∧
      ∃ p, s.tbs.posted = some p ∧ (p.target = none ∨ p.target = some ((s.tbs.time.sec + 1) % 2 ^ 48)))) ∧
  ∀ (s : State) (blocks : List Block), TimeOk s →
    1000000000 ≤ s.tbs.time.ns + (s.tbs.time.frac + s.tbs.tickInc) / 2 ^ 32 →
    ∃ t, exec (.secondBoundary blocks) s = .next t ∧ t.mem = s.mem ∧ t.tbs.lastInc = s.tbs.tickInc ∧
      (s.tbs.stepDue = false →
        t.tbs.time = ⟨(s.tbs.time.sec + 1) % 2 ^ 48,
          s.tbs.time.ns + (s.tbs.time.frac + s.tbs.tickInc) / 2 ^ 32 - 1000000000,
          (s.tbs.time.frac + s.tbs.tickInc) % 2 ^ 32⟩ ∧ t.tbs.posted = s.tbs.posted ∧ t.tbs.stepTick = none ∧
        (t.tbs.tickInc : Int) = max 34352866421 (min 34366610315 (34359738368 + freqTerm s.tbs.phi +
          (if 1 < s.tbs.slew.ticksLeft then s.tbs.slew.share else s.tbs.slew.remaining))) ∧
        t.tbs.slew.remaining = s.tbs.slew.remaining - (t.tbs.tickInc - 34359738368 - freqTerm s.tbs.phi) ∧
        t.tbs.slew.ticksLeft = s.tbs.slew.ticksLeft - 1 ∧ t.tbs.slew.share = s.tbs.slew.share) ∧
      (∀ p, s.tbs.posted = some p → s.tbs.stepDue = true →
        (t.tbs.time.units : Int) = max 0 (min (281474976710655 * 4294967296000000000 + 999999999 * 4294967296)
          ((((s.tbs.time.sec + 1) % 2 ^ 48 * 4294967296000000000 +
              (s.tbs.time.ns + (s.tbs.time.frac + s.tbs.tickInc) / 2 ^ 32 - 1000000000) * 4294967296 +
              (s.tbs.time.frac + s.tbs.tickInc) % 2 ^ 32 : Nat) : Int) + p.delta * 2 ^ 28)) ∧
        t.tbs.posted = none ∧ t.tbs.slew.remaining = 0 ∧ t.tbs.slew.ticksLeft = 0 ∧
        t.tbs.stepTick = some ⟨s.tbs.time.units, p.delta⟩ ∧
        (t.tbs.tickInc : Int) = 34359738368 + freqTerm s.tbs.phi ∧
        ((∃ r ∈ t.xch.staging, r.body = .stepApplied p.origin ((s.tbs.time.sec + 1) % 2 ^ 48) p.delta) ∨
          64 ≤ t.xch.staging.length) ∧
        (∀ slot en, p.origin = .host slot → storeEntry s slot = some en → (∃ o, en.order = .postStep o) →
          (∀ ch ∈ s.pou.channels, ∀ ps, ch.pending = some ps → ps.slot ≠ slot) →
          storeEntry t slot = some { en with
            status := .completed .ok (le 8 ((s.tbs.time.sec + 1) % 2 ^ 48) ++ leInt 8 p.delta ++ le 8 t.tbs.time.sec ++
              le 4 t.tbs.time.ns ++ le 1 (t.tbs.time.frac / 2 ^ 28)) false })) ∧
      s.tbs.report.epoch = (s.tbs.time.sec + 1) % 2 ^ 48 ∧
      (s.tbs.stepDue = false → s.tbs.report.step = none ∧
        s.tbs.report.instant = (s.tbs.time.sec + 1) % 2 ^ 48 * 16000000000) ∧
      (∀ p, s.tbs.posted = some p → s.tbs.stepDue = true → s.tbs.report.step = some p.delta ∧
        (s.tbs.report.instant : Int) = max 0 (min (281474976710655 * 16000000000 + 999999999 * 16)
          (((s.tbs.time.sec + 1) % 2 ^ 48 * 16000000000 : Nat) + p.delta)))

/-- R16: over any 125,000,000 ticks in which no step is applied and no full reset falls, whatever else happens between
them, device time advances by no less than 0.9998 s and no more than 1.0002 s; `wraps` counts its returns to 0. -/
def Obligations.AdvanceBetweenStepsBounded : Prop :=
  ∀ (s t : State) (cs : List Instr), TimeOk s → runUnstepped cs s = some (t, 125000000) →
    ∃ wraps : Nat,
      (9998 * (4294967296000000000 : Int)) ≤
        10000 * ((t.tbs.time.units : Int) + wraps * (2 ^ 48 * 4294967296000000000) - s.tbs.time.units) ∧
      10000 * ((t.tbs.time.units : Int) + wraps * (2 ^ 48 * 4294967296000000000) - s.tbs.time.units) ≤
        10002 * (4294967296000000000 : Int)

/-- R15: at a boundary the pending leap is applied once device seconds, after any step, is its epoch or greater: the
direction is added to the UTC offset, held at −32,768 and +32,767, no leap is pending, and the LEAP_APPLIED record is
handed on, to be staged unless 64 records are; otherwise both stand.
Which device seconds these are after a step is the model's choice (log 8). -/
def Obligations.BoundaryAppliesLeap : Prop :=
  ∀ (s : State) (blocks : List Block), s.tbs.atBoundary = true →
    ∃ t, exec (.secondBoundary blocks) s = .next t ∧
      (∀ l, s.tbs.leap = some l → l.epoch ≤ t.tbs.time.sec →
        t.tbs.leap = none ∧ t.tbs.utcOffset = max (-32768) (min 32767 (s.tbs.utcOffset + if l.insert then 1 else -1)) ∧
        ((∃ r ∈ t.xch.staging, r.body = .leapApplied l.insert t.tbs.utcOffset l.epoch) ∨ 64 ≤ t.xch.staging.length)) ∧
      ((∀ l, s.tbs.leap = some l → t.tbs.time.sec < l.epoch) →
        t.tbs.leap = s.tbs.leap ∧ t.tbs.utcOffset = s.tbs.utcOffset)

/-- R7, R30, R73, R83 to R85, R108, R109, R153, R167: a step applied at a boundary reaches the blocks, in whatever order they take
it. An event of the step's tick taken after the step has the stamp it has before it, interpolated and truncated, moved by Δ within
the range of device time, so that the value held is the same (log 5). The Reference Intake's held instants, those of a pulse in progress, of the messages held, of the message in assembly, of the
interval reference and of the loss and revert deadlines, move by Δ within the range of device time. Both exchange tables are
empty, the last-expired tags of their paths none, the launch histories moved, and the windows and Range requests judged anew.
Every client is flagged for REVERIFY with both verdicts NONE and has the state of the table: its changes are the one of the step,
with cause STEP, and one with cause PATH where a path became LOST at the same boundary, in the order of the two blocks, each with
its record and roll-call entries. No pulse is left in progress; a foreign-beacon holdoff moves too, and one moved to or before
device time is none again. Each capture input has its unjudged flag set with reason STEP and its step mark set, and its candidate
edge moved; one whose confirmation time is then reached settles its line at once and, of a selected direction, is captured
unjudged, with its CAPTURE record unless the input is quiet.
The order of the blocks as an operand is the model's choice (log 6), and so is the device time after the step that a moved
holdoff, window-opening instant and confirmation time are compared with (log 8); one evaluation of both paths,
made also where neither moved, is log 19, and when a Range request is judged anew log 17. -/
def Obligations.StepReachesBlocks : Prop :=
  ∀ (s : State) (blocks : List Block) (p : PostedStep), s.tbs.posted = some p → s.tbs.stepDue = true →
    let move := fun v : Nat => (min (max 0 ((v : Int) + p.delta)) (281474976710655 * 16000000000 + 999999999 * 16)).toNat
    ∃ t, exec (.secondBoundary blocks) s = .next t ∧
      (∀ f : Fraction,
        s.tbs.stamp ⟨f, false⟩ = (s.tbs.time.units + s.tbs.tickInc * f.num / f.den) % (2 ^ 48 * 4294967296000000000) / 2 ^ 28 ∧
        t.tbs.stamp ⟨f, true⟩ = move (s.tbs.stamp ⟨f, false⟩)) ∧
      t.rfi = { s.rfi with
        revertAt := s.rfi.revertAt.map move
        inputs := mapPair (fun r => { r with
          pulse := r.pulse.map (fun q => { rise := move q.rise, stuckAt := move q.stuckAt })
          fifo := r.fifo.map (fun m => { m with completed := move m.completed })
          assembly := r.assembly.map (fun a => { a with last := move a.last })
          interval := r.interval.map move, lossAt := r.lossAt.map move }) s.rfi.inputs } ∧
      (∀ port, (rangePort t port).table = [] ∧ (rangePort t port).history = (rangePort s port).history.map move ∧
        (rangePort t port).tagCounter = (rangePort s port).tagCounter ∧
        (windowHasRoom t port → (rangePort t port).windowAt = none) ∧
        (¬ windowHasRoom t port → (rangePort t port).windowAt =
          ((rangePort t port).history.reverse[s.rng.settings.limit - 1]?).map (· + s.rng.settings.window * 16000)) ∧
        ((link t port).rangeReq = true ↔ launchHolds t port) ∧
        ∀ x ∈ (rangePort s port).table, (path t x.slot port).lastExpired = none) ∧
      (∀ ch ∈ t.pou.channels, ch.fall = none) ∧
      (∀ c ∈ t.crs.clients, c.state ≠ .vacant →
        c.reverify = true ∧ c.offsetV = ⟨.none, 0, 0⟩ ∧ c.pulseV = ⟨.none, 0, 0⟩) ∧
      (∀ n, (client s n).state ≠ .vacant →
        let c := client s n
        let k := client t n
        let stepped : Client := { c with reverify := true, offsetV := ⟨.none, 0, 0⟩, pulseV := ⟨.none, 0, 0⟩ }
        let owing : Client := { c with paths := k.paths }
        k.state = tableState k ∧
        (evaluatedFrom n .step c.state stepped s t ∧ evaluatedFrom n .path (tableState stepped) k s t ∨
          evaluatedFrom n .path c.state owing s t ∧ evaluatedFrom n .step (tableState owing) k s t)) ∧
      (∀ port, (link t port).holdoff = ((link s port).holdoff.map move).filter (fun u => decide (now t < u))) ∧
      ∀ i : Fin 4, i.val < s.evc.length →
        let ci := captureIn s i.val
        let flagged : CaptureIn := { ci with unjudged := some .step, stepMark := true }
        (∀ cd, ci.candidate = some cd → move cd.confirmAt ≤ now t →
          let settled : CaptureIn := { flagged with settled := cd.rising, candidate := none }
          let chosen := ci.edge = .both ∨ ci.edge = .rising ∧ cd.rising = true ∨ ci.edge = .falling ∧ cd.rising = false
          (¬ chosen → captureIn t i.val = settled) ∧
          (chosen →
            captureIn t i.val = { settled with
              unjudged := none, stepMark := false, latest := some { stamp := move cd.stamp, rising := cd.rising }
              count := (ci.count + 1) % 65536, unjudgedCount := min (ci.unjudgedCount + 1) 65535 } ∧
            (ci.quiet = false →
              handedOn s t (.capture i cd.rising (move cd.stamp) none ((ci.count + 1) % 65536) .step none)))) ∧
        ((∀ cd, ci.candidate = some cd → now t < move cd.confirmAt) →
          captureIn t i.val = { flagged with
            candidate := ci.candidate.map (fun cd => { cd with stamp := move cd.stamp, confirmAt := move cd.confirmAt }) })

/-- R10: the checks of STEP and the posting of one that passes, which stays held in the store. -/
def Obligations.StepOrderChecksAndPosts : Prop :=
  ∀ (s : State) (src : OrderSrc) (p : StepP), canTake s src.slot.val = true →
    exec (.postStep src p) s = .next (
      if 1 < p.targetKind.toNat ∨ p.delta.toInt < -16000000000000000 ∨ 16000000000000000 < p.delta.toInt then
        answered src (.postStep p) .badField [] s
      else if s.tbs.posted ≠ none then answered src (.postStep p) .busy [] s
      else if p.targetKind = 0 ∧ p.epoch.toNat ≤ s.tbs.time.sec then answered src (.postStep p) .past [] s
      else { holding src (.postStep p) s with
        tbs := { s.tbs with
          posted := some ⟨p.delta.toInt, if p.targetKind = 0 then some p.epoch.toNat else none, .host src.slot.val⟩ } })

/-- R14: UTC-SETUP's four operations with their checks; a refused order changes neither offset nor leap. The offset is
left as it is by exchange reset. -/
def Obligations.UtcSetupWritesOffsetAndLeap : Prop :=
  (∀ s : State, ∃ t, exec .exchangeReset s = .next t ∧ t.tbs.utcOffset = s.tbs.utcOffset) ∧
  ∀ (s : State) (src : OrderSrc) (p : UtcSetupP), canTake s src.slot.val = true →
    exec (.utcSetup src p) s = .next (
      let setLeap : Bool := p.operation = 1 ∨ p.operation = 2
      let reply := fun (r : ResultCode) (t : State) => answered src (.utcSetup p) r [] t
      if p.operation = 0 then reply .ok { s with tbs := { s.tbs with utcOffset := p.offset.toInt } }
      else if setLeap ∧ p.direction ≠ 1 ∧ p.direction ≠ 255 then reply .badField s
      else if setLeap ∧ p.leapEpoch.toNat ≤ s.tbs.time.sec then reply .past s
      else if setLeap then
        reply .ok { s with tbs := { s.tbs with
          utcOffset := if p.operation = 2 then p.offset.toInt else s.tbs.utcOffset
          leap := some { epoch := p.leapEpoch.toNat, insert := p.direction = 1 } } }
      else if p.operation = 3 then
        if s.tbs.leap = none then reply .empty s else reply .ok { s with tbs := { s.tbs with leap := none } }
      else reply .badField s)

/-! ## Reference Intake (ch. 2) -/

/-- R20, R21, R22: a rising edge on an enabled input with no pulse in progress and no stuck episode starts a pulse in
progress, with its stamp and a stuck deadline 200 ms later; on any other input only the line's level is taken. A falling edge
with no pulse in progress, and one that ends a glitch, leave no trace but the line's level and the end of a stuck episode.
Where in its tick an edge lies is an operand (log 5); a fall past an untaken stuck deadline, left out here, is log 21. -/
def Obligations.PulseStartsAndGlitchLeavesNoTrace : Prop :=
  ∀ (s : State) (i : RefInput) (at_ : Instant),
    exec (.refPulseRise i at_) s = .next (modRef i (fun r => { r with
      line := true
      pulse := if r.line = false ∧ r.qual ≠ .disabled ∧ r.pulse = none ∧ r.stuckEpisode = false then
          some { rise := s.tbs.stamp at_, stuckAt := s.tbs.stamp at_ + 3200000000 }
        else r.pulse }) s) ∧
    (((refIn s i).pulse = none ∨
      ∃ p, (refIn s i).pulse = some p ∧ s.tbs.stamp at_ - p.rise < (refIn s i).settings.minWidth * 16 ∧
        s.tbs.stamp at_ - p.rise ≤ 3200000000) →
      exec (.refPulseFall i at_) s = .next (modRef i (fun r => { r with line := false, stuckEpisode := false, pulse := none }) s))

/-- R25, R26: a classified pulse outside 999 ms to 1,001 ms after the interval reference is MISPLACED: stale messages
and the one that labels it leave the FIFO, the reference moves, the counters count, and nothing else changes.
Where in its tick an edge lies is an operand (log 5). -/
def Obligations.MisplacedMarkOnlyMovesReference : Prop :=
  ∀ (s : State) (i : RefInput) (at_ : Instant) (p : RefPulse) (v : Nat),
    (refIn s i).pulse = some p → (refIn s i).interval = some v →
    (p.rise < v + 15984000000 ∨ v + 16016000000 < p.rise) →
    (refIn s i).settings.minWidth * 16 ≤ s.tbs.stamp at_ - p.rise → s.tbs.stamp at_ - p.rise ≤ 3200000000 →
    exec (.refPulseFall i at_) s = .next (modRef i (fun r =>
      let fresh := r.fifo.filter (fun m => decide (p.rise ≤ m.completed + 19200000000))
      { r with
        line := false, stuckEpisode := false, pulse := none, interval := some p.rise
        fifo := match fresh.find? (fun m => decide (m.completed ≤ p.rise)) with
          | none => fresh
          | some m => fresh.erase m
        counters := { r.counters with
          stale := min (r.counters.stale + (r.fifo.length - fresh.length)) 65535
          misplaced := min (r.counters.misplaced + 1) 65535 } }) s)

/-- R25 to R29, R31, R34 to R37, R52: an accepted mark. `msg` is the message that labels it; a good second is labelled, GOOD and
LOCKED with the label after the remembered one. The runs and the qualification state follow the table of R28, the label memory and
the interval reference take the mark, and the loss deadline is 3 s after its rising stamp. An input that enters or leaves
QUALIFIED has the selection re-evaluated, from a forced input that leaves it with AUTO and cause FORCE_LOST, and a change of
active input is told to the servo. Then, and not before, the mark of the active input is handed to the servo, and its message's
UTC offset compared with the Timebase's: the third in a run that differs makes one UTC_DISAGREE record for its episode. A change
of qualification state hands on its REF_STATE record before all this, with cause PULSE, GOOD_RUN or NON_GOOD_RUN and the counters
as they then stand.
Where in its tick an edge lies is an operand (log 5); that a SERVO_STATE record carries ε before the class evaluation is log 22.
-/
def Obligations.AcceptedMarkQualifies : Prop :=
  ∀ (s : State) (i : RefInput) (at_ : Instant) (p : RefPulse) (r : RefIn),
    r = refIn s i → r.pulse = some p → r.qual ≠ .disabled →
    (∀ v, r.interval = some v → v + 15984000000 ≤ p.rise ∧ p.rise ≤ v + 16016000000) →
    r.settings.minWidth * 16 ≤ s.tbs.stamp at_ - p.rise → s.tbs.stamp at_ - p.rise ≤ 3200000000 →
    let fresh := r.fifo.filter (fun m => decide (p.rise ≤ m.completed + 19200000000))
    let msg := fresh.find? (fun m => decide (m.completed ≤ p.rise))
    let mark : Mark :=
      { stamp := p.rise, label := msg.map (·.label), accuracy := msg.map (·.accuracy), cableDelay := r.settings.cableDelay
        width := if s.tbs.stamp at_ - p.rise < r.settings.longWidth * 16000000 then .good else .degraded }
    ∃ t, exec (.refPulseFall i at_) s = .next t ∧ t.mem = s.mem ∧ refIn t (otherInput i) = refIn s (otherInput i) ∧
      (let left := fun (new : Qual) (cause : RefStateCause) => (stage (.refState i r.qual new cause (refIn t i).counters) s).xch
       let u0 : State := { s with
         rfi := { s.rfi with inputs := t.rfi.inputs }
         xch := match r.qual, (refIn t i).qual with
           | .absent, _ => left .qualifying .pulse
           | .qualifying, .qualified => left .qualified .goodRun
           | .qualified, .qualifying => left .qualifying .nonGoodRun
           | _, _ => s.xch }
       ∃ u : State,
        (((refIn t i).qual = .qualified ↔ r.qual = .qualified) → u = u0) ∧
        (¬ ((refIn t i).qual = .qualified ↔ r.qual = .qualified) → reselected .qualification u0 u) ∧
        (u.rfi.active ≠ some i → t = u) ∧
        (u.rfi.active = some i → t.tbs = (handleMark mark u).tbs ∧ t.dsv = (handleMark mark u).dsv ∧
          (msg = none → t = handleMark mark u) ∧
          ∀ m, msg = some m →
            let differs : Bool := m.utcOffset != s.tbs.utcOffset
            let third : Bool := differs && decide (2 ≤ u.rfi.disagreeRun)
            t.rfi = { u.rfi with
              disagreeRun := if differs then min (u.rfi.disagreeRun + 1) 3 else 0
              disagreeFlag := differs && (u.rfi.disagreeFlag || third) } ∧
            (third = true → u.rfi.disagreeFlag = false →
              t.xch = (stage (.utcDisagree i m.utcOffset s.tbs.utcOffset m.leap) (handleMark mark u)).xch) ∧
            (¬ (third = true ∧ u.rfi.disagreeFlag = false) → t.xch = (handleMark mark u).xch))) ∧
      refIn t i =
        (let good : Bool := s.tbs.stamp at_ - p.rise < r.settings.longWidth * 16000000 ∧
           msg.any (fun m => m.status == .locked && r.labelMem.all (fun l => m.label == l + 1))
         let run := if r.qual = .absent then 0 else r.goodRun
         { r with
           line := false, stuckEpisode := false, pulse := none, interval := some p.rise
           labelMem := msg.map (·.label), lossAt := some (p.rise + 48000000000)
           fifo := match msg with
             | none => fresh
             | some m => fresh.erase m
           counters := { r.counters with stale := min (r.counters.stale + (r.fifo.length - fresh.length)) 65535 }
           qual := if r.qual = .qualified then (if good = false ∧ 3 ≤ r.nonGoodRun + 1 then .qualifying else .qualified)
             else if good = true ∧ 4 ≤ run + 1 then .qualified else .qualifying
           goodRun := if r.qual = .qualified then (if good = false ∧ 3 ≤ r.nonGoodRun + 1 then 0 else r.goodRun)
             else if good = true ∧ run + 1 < 4 then run + 1 else 0
           nonGoodRun := if r.qual = .qualified then (if good = false ∧ r.nonGoodRun + 1 < 3 then r.nonGoodRun + 1 else 0)
             else if r.qual = .absent ∨ (good = true ∧ 4 ≤ run + 1) then 0 else r.nonGoodRun })

/-- R22, R23, R28, R29, R31, R32, R34, R52: the deadlines of the Reference Intake. When device time reaches the stuck deadline the pulse is
discarded, the stuck counter counts, an episode begins and a PULSE_STUCK record is handed on; when more than 10 ms have passed
since the last character of a message in assembly, the message is bad. When device time reaches the loss deadline the input
enters ABSENT with cause LOSS: runs 0, interval reference, label memory and deadline emptied, the rest of it kept, and the
REF_STATE record is handed on first; an input that was not QUALIFIED changes nothing else, and one that was has the selection
re-evaluated, and the servo told where the active input changes. When device time reaches the revert deadline, with AUTO, the
other input active and the preferred one QUALIFIED, the preferred input becomes active, the deadline and the disagreement run are
cleared, the mode and both inputs stand, and the servo is told.
When a deadline counts as reached, and that an early command does nothing, is the model's choice (log 4); that a SERVO_STATE
record carries ε before the class evaluation is log 22. -/
def Obligations.ReferenceDeadlinesAct : Prop :=
  ∀ s : State,
    (∀ i : RefInput,
      exec (.stuckDeadline i) s = .next (match (refIn s i).pulse with
        | none => s
        | some p =>
          if s.tbs.reaches p.stuckAt then
            let counters := { (refIn s i).counters with stuck := min ((refIn s i).counters.stuck + 1) 65535 }
            stage (.pulseStuck i p.rise counters)
              (modRef i (fun r => { r with pulse := none, stuckEpisode := true, counters := counters }) s)
          else s) ∧
      exec (.msgGapExpiry i) s = .next (match (refIn s i).assembly with
        | none => s
        | some a =>
          if s.tbs.reaches (a.last + 160000001) then
            modRef i (fun r => { r with
              assembly := none, counters := { r.counters with bad := min (r.counters.bad + 1) 65535 } }) s
          else s) ∧
      (s.tbs.reachesOpt (refIn s i).lossAt = false → exec (.lossDeadline i) s = .next s) ∧
      (s.tbs.reachesOpt (refIn s i).lossAt = true →
        let lost := { refIn s i with
          qual := .absent, goodRun := 0, nonGoodRun := 0, interval := none, labelMem := none, lossAt := none }
        ∃ t, exec (.lossDeadline i) s = .next t ∧ refIn t i = lost ∧
          refIn t (otherInput i) = refIn s (otherInput i) ∧ t.mem = s.mem ∧
          ((refIn s i).qual ≠ .qualified →
            t = stage (.refState i (refIn s i).qual .absent .loss (refIn s i).counters) (modRef i (fun _ => lost) s)) ∧
          ((refIn s i).qual = .qualified →
            reselected .qualification (stage (.refState i .qualified .absent .loss (refIn s i).counters) (modRef i (fun _ => lost) s)) t))) ∧
    ((s.tbs.reachesOpt s.rfi.revertAt = false ∨ revertArrangement s = false) → exec .revertDeadline s = .next s) ∧
    (s.tbs.reachesOpt s.rfi.revertAt = true → s.rfi.mode = .auto → s.rfi.active = some (otherInput s.rfi.preference) →
      (refIn s s.rfi.preference).qual = .qualified →
      ∃ t, exec .revertDeadline s = .next t ∧ t.mem = s.mem ∧ selected .auto (some s.rfi.preference) .revert s t ∧
        t.rfi = { s.rfi with active := some s.rfi.preference, revertAt := none, disagreeRun := 0, disagreeFlag := false })

/-- R23, R24: in hunting a start code begins a message and any other character is discarded; a character that breaks a check
of R23 makes the message bad; a disabled input takes none. A whole message of 14 well-framed characters with the start code,
length 14, defined codes and a sum of 0 modulo 256, sent to an enabled hunting input, is complete: it joins a FIFO of fewer
than two entries, and is otherwise lost with the overrun counter and a MSG_OVERRUN record.
Its completion time is the stamp of its last stop bit, which R30 has taken as R7 stamps an edge (log 28).
At which character each check is made is log 20; REF_MESSAGE as a run of characters in one tick is log 28, where in it a stop
bit lies an operand (log 5). -/
def Obligations.MessagesAssembleAndComplete : Prop :=
  (∀ (s : State) (i : RefInput) (c : Character),
    ((refIn s i).qual = .disabled → exec (.messageCharacter i c) s = .next s) ∧
    ((refIn s i).qual ≠ .disabled → (refIn s i).assembly = none →
      exec (.messageCharacter i c) s = .next (
        if c.bits = 0xA7 then modRef i (fun r => { r with assembly := some ⟨[c.bits], s.tbs.stamp c.stop⟩ }) s else s)) ∧
    (∀ a, (refIn s i).qual ≠ .disabled → (refIn s i).assembly = some a → a.chars.length < 13 →
      exec (.messageCharacter i c) s = .next (
        if c.framed = false ∨ (a.chars.length = 1 ∧ c.bits ≠ 14) ∨ (a.chars.length = 7 ∧ 2 < c.bits.toNat) ∨
            (a.chars.length = 12 ∧ 2 < c.bits.toNat) then
          modRef i (fun r => { r with
            assembly := none, counters := { r.counters with bad := min (r.counters.bad + 1) 65535 } }) s
        else modRef i (fun r => { r with assembly := some ⟨a.chars ++ [c.bits], s.tbs.stamp c.stop⟩ }) s)) ∧
    (∀ a, (refIn s i).qual ≠ .disabled → (refIn s i).assembly = some a → a.chars.length = 13 →
      (c.framed = false ∨ ((a.chars ++ [c.bits]).map BitVec.toNat).sum % 256 ≠ 0) →
      exec (.messageCharacter i c) s = .next (modRef i (fun r => { r with
        assembly := none, counters := { r.counters with bad := min (r.counters.bad + 1) 65535 } }) s))) ∧
  (∀ (s : State) (i : RefInput) (label4 label3 label2 label1 label0 status acc1 acc0 utc1 utc0 leap sum : Byte)
    (st : FixStatus) (lp : LeapFlags) (stop : Nat → Instant),
    (refIn s i).qual ≠ .disabled → (refIn s i).assembly = none → fixStatusOf status = some st → leapFlagsOf leap = some lp →
    0xA7 + 14 + label4 + label3 + label2 + label1 + label0 + status + acc1 + acc0 + utc1 + utc0 + leap + sum = 0 →
    exec (.refMessage i ([0xA7, 14, label4, label3, label2, label1, label0, status, acc1, acc0, utc1, utc0, leap, sum].zipIdx.map
      (fun b => { bits := b.1, framed := true, stop := stop b.2 }))) s = .next (
      let label := (((label4.toNat * 256 + label3.toNat) * 256 + label2.toNat) * 256 + label1.toNat) * 256 + label0.toNat
      let msg : RefMsg := { label := label, status := st, accuracy := acc1.toNat * 256 + acc0.toNat,
                            utcOffset := (utc1 ++ utc0).toInt, leap := lp, completed := s.tbs.stamp (stop 13) }
      if (refIn s i).fifo.length < 2 then modRef i (fun r => { r with fifo := r.fifo ++ [msg] }) s
      else
        let counters := { (refIn s i).counters with overrun := min ((refIn s i).counters.overrun + 1) 65535 }
        stage (.msgOverrun i label counters) (modRef i (fun r => { r with counters := counters }) s)))

/-- R31 to R33, R36, R52: SET-REF. A mode outside the three is BAD_FIELD, a forced input that is not QUALIFIED is NOT_QUALIFIED, and
both change nothing; a forced QUALIFIED input becomes active with the deadline cleared; AUTO chooses by the table of
R31 and sets the revert deadline of R32. A change of active input ends the disagreement episode and is told to the servo. From
FREERUN or HOLDOVER an input that becomes active takes it to ACQUIRE, and the loss of the active input takes ACQUIRE to FREERUN and
TRACK to HOLDOVER, each with its SERVO_STATE record and class evaluation; entry to HOLDOVER writes Φ as the mean of a frequency
history of 4 or more and computes ε once more; a change between inputs clears the error history and the runs.
That a SERVO_STATE record carries ε before the class evaluation is log 22. -/
def Obligations.SetRefSelects : Prop :=
  ∀ (s : State) (src : OrderSrc) (mode : Byte), canTake s src.slot.val = true →
    let refused : Option ResultCode :=
      if 2 < mode.toNat then some .badField
      else if mode = 1 ∧ (refIn s .a).qual ≠ .qualified ∨ mode = 2 ∧ (refIn s .b).qual ≠ .qualified then some .notQualified
      else none
    (∀ r, refused = some r → exec (.setRef src mode) s = .next (answered src (.setRef mode) r [] s)) ∧
    (refused = none → ∃ t, exec (.setRef src mode) s = .next t ∧ t.mem = s.mem ∧
      storeEntry t src.slot.val = storeEntry (answered src (.setRef mode) .ok [] s) src.slot.val ∧
      (∀ m, m = (if mode = 0 then .auto else if mode = 1 then SelMode.force .a else .force .b) →
        selected m t.rfi.active .order s t) ∧
      t.rfi.inputs = s.rfi.inputs ∧ t.rfi.preference = s.rfi.preference ∧
      (let pref := s.rfi.preference
       let other := otherInput pref
       let up := fun i => (refIn s i).qual = .qualified
       let stays := s.rfi.active = some other
       t.rfi.mode = (if mode = 0 then .auto else if mode = 1 then .force .a else .force .b) ∧
       t.rfi.active = (if mode = 1 then some .a else if mode = 2 then some .b
         else if stays ∧ up other then some other
         else if up pref then some pref
         else if up other ∧ ¬ stays then some other
         else none) ∧
       t.rfi.revertAt = (if mode = 0 ∧ t.rfi.active = some other ∧ up pref then
         some (s.rfi.revertAt.getD (now s + 960000000000)) else none)))

/-- R19, R28, R31, R34, R37: REF-SETUP. A field outside its list is BAD_FIELD and changes nothing; otherwise the settings are
written, each held within its range and the minimum width rounded down to a multiple of 100 ns, the preference with them, the
result is ADJUSTED exactly where a value was changed, and the other input's fields and the counters stand. Enabling a DISABLED input
makes it ABSENT with runs 0 and empty interval reference, label memory, FIFO and assembly; disabling drops the pulse in progress,
the stuck episode, assembly, FIFO and loss deadline of the input; a changed baud rate drops the message in assembly. A change of
qualification state hands on its REF_STATE record with cause ENABLE or DISABLE and the input's counters. The selection is
re-evaluated with cause QUALIFICATION, or FORCE_LOST where the input was forced, if the disabled input was QUALIFIED, and with cause
PREFERENCE if the preference changed, and the servo is told where the active input changes.
That each effect comes in this order is log 23, that a SERVO_STATE record carries ε before the class evaluation log 22. -/
def Obligations.RefSetupWritesSettings : Prop :=
  ∀ (s : State) (src : OrderSrc) (p : RefSetupP), canTake s src.slot.val = true →
    ((1 < p.input.toNat ∨ 3 < p.baud.toNat ∨ 1 < p.preference.toNat) →
      exec (.refSetup src p) s = .next (answered src (.refSetup p) .badField [] s)) ∧
    (∀ i pref baud, inputOf p.input = some i → baudOf p.baud = some baud → inputOf p.preference = some pref →
      let width := max 100 (min 100000 p.minWidth.toNat)
      let st : RefSettings := { enable := p.enable != 0, baud := baud, minWidth := width / 100 * 100,
                                longWidth := max 1 (min 200 p.longWidth.toNat),
                                cableDelay := min p.cableDelay.toNat 1600000 }
      let r := refIn s i
      let enters := r.qual = .disabled ∧ st.enable = true
      let leaves := r.qual ≠ .disabled ∧ st.enable = false
      let after : RefIn :=
        if enters then { r with
          settings := st, qual := .absent, goodRun := 0, nonGoodRun := 0, interval := none, labelMem := none, fifo := []
          assembly := none, lossAt := none }
        else if leaves then { r with
          settings := st, qual := .disabled, goodRun := 0, nonGoodRun := 0, pulse := none, stuckEpisode := false, fifo := []
          assembly := none, lossAt := none }
        else { r with
          settings := st, assembly := if r.qual ≠ .disabled ∧ baud ≠ r.settings.baud then none else r.assembly }
      let taken := holding src (.refSetup p) s
      let written : State := { taken with
        rfi := { s.rfi with preference := pref, inputs := modInput i (fun _ => after) s.rfi.inputs } }
      let recorded : State :=
        if enters then stage (.refState i .disabled .absent .enable r.counters) written
        else if leaves then stage (.refState i r.qual .disabled .disable r.counters) written
        else written
      ∃ t u v, exec (.refSetup src p) s = .next t ∧
        (leaves ∧ r.qual = .qualified → reselected .qualification recorded u) ∧
        (¬ (leaves ∧ r.qual = .qualified) → u = recorded) ∧
        (pref ≠ s.rfi.preference → reselected .preference u v) ∧ (pref = s.rfi.preference → v = u) ∧
        t = complete src.slot.val
          (if st.minWidth = p.minWidth.toNat ∧ st.longWidth = p.longWidth.toNat ∧ st.cableDelay = p.cableDelay.toNat
            then .ok else .adjusted) [] v ∧
        t.mem = s.mem ∧ refIn t i = after ∧ refIn t (otherInput i) = refIn s (otherInput i) ∧ t.rfi.preference = pref ∧
        (refIn t i).counters = r.counters ∧ (refIn t i).line = r.line ∧
        storeEntry t src.slot.val = storeEntry (answered src (.refSetup p)
          (if st.minWidth = p.minWidth.toNat ∧ st.longWidth = p.longWidth.toNat ∧ st.cableDelay = p.cableDelay.toNat
            then .ok else .adjusted) [] s) src.slot.val)

/-! ## Full reset, and the orders that write settings -/

/-- Full reset leaves every block at the values of its reset table, and no access in progress. What the surroundings hold
stays: the levels of the input pins, the memory that the access in progress had reached, and the waiting commands (log 12).
A frame being sent ends with an error indication (R75), and so does, by the model's choice, one sent and not yet cleared by
ARBITER_FREE (log 27). Values that no table gives are the model's choice (logs 3, 13, 33). -/
def Obligations.FullResetValues : Prop :=
  ∀ (landed : Nat) (s : State),
    let input := fun r : RefIn =>
      ({ settings := { enable := false, baud := .b9600, minWidth := 1000, longWidth := 50, cableDelay := 0 }
         line := r.line, pulse := none, stuckEpisode := false, assembly := none, fifo := [], interval := none, labelMem := none
         qual := .disabled, goodRun := 0, nonGoodRun := 0, lossAt := none
         counters := { bad := 0, overrun := 0, stale := 0, misplaced := 0, stuck := 0 } } : RefIn)
    let idle : Path :=
      { state := .idle, debt := 0, delay := none, seeds := 0, outlierRun := 0, urgent := false, lastExpired := none
        announcedDelay := none, announcedAt := none, accepted := 0, outliers := 0, rejects := 0, timeouts := 0, late := 0
        clamps := 0 }
    let unjudged : Judged := { verdict := .none, within := 0, beyond := 0 }
    let unset : PathConfig := { asymmetry := 0, gate := 200, shift := 3 }
    let vacant : Client :=
      { state := .vacant, reverify := false, offsetV := unjudged, pulseV := unjudged, offset := none, pulseError := none
        selfStatus := none, lastHail := none, paths := ⟨idle, idle⟩, version := 0
        config := { addr := 0, kind := .other, allowed := .a, period := 0, offsetTol := 1, pulseTol := 1, capture := none
                    announceThreshold := 0, announceAge := 8, path := ⟨unset, unset⟩ } }
    let range : RangePort := { table := [], history := [], tagCounter := 0, windowAt := none }
    let beacon : BeaconPort :=
      { next := none, rate := 1, pendingRate := none, seq := 0, roll := [], lastNotice := none, built := none }
    let off : Channel :=
      { state := .off, pending := none, arm := none, runStart := none, lastRise := none, fall := none, placed := none
        active := { mode := .off, idleHigh := false, gated := false, phase := 0, period := 0, width := 0, longWidth := 0
                    markClass := 0, start := 0 } }
    let clear : Causes := { order := false, journal := false, cls := false, stall := false, layout := false }
    exec (.fullReset landed) s = .next {
      tbs := { time := { sec := 0, ns := 0, frac := 0 }, phi := 0, slew := { remaining := 0, share := 0, ticksLeft := 0 }
               posted := none, utcOffset := 0, leap := none, tickInc := 34359738368, lastInc := 0, stepTick := none
               reachedFrom := 0 }
      rfi := { inputs := ⟨input s.rfi.inputs.a, input s.rfi.inputs.b⟩, mode := .auto, active := none, preference := .a
               revertAt := none, disagreeRun := 0, disagreeFlag := false }
      dsv := { state := .freerun, stepOutstanding := false, lockRun := 0, labelRun := 0, gateRun := 0, errHist := []
               freqHist := [], rcvEstimate := 0, eps := 0, holdSeconds := 0, cls := 7, dwell := 0, labelCount := 0
               gatedCount := 0
               settings := { kpA := 0, kiA := 2, kpT := 1, kiT := 4, stepThreshold := 50000, lockThreshold := 1000
                             phaseGate := 5000, drift := 10, aging := 2, holdoverLimit := 86400, improveDwell := 8 } }
      lnk := mapPair (fun l : LinkPort =>
        { state := .disabled, link := l.link, beaconReq := false, rangeReq := false, tx := none, rx := none
          settings := { enable := false, station := 0, typeCode := 0, domain := 0, rate := 1, reporting := false }
          macError := l.tx.isSome, sent := [], holdoff := none
          counters := { beacons := 0, ranges := 0, echoes := 0, stray := 0, hails := 0, foreign := 0, dropped := 0 } }) s.lnk
      crs := { clients := List.replicate 256 vacant, newcomers := [], overflow := 0, queue := [] }
      rng := { ports := ⟨range, range⟩, settings := { limit := 4, window := 1000, echoWait := 2000, ceiling := 500000 } }
      bcu := { ports := ⟨beacon, beacon⟩, notices := List.replicate 8 none, cls := 7 }
      pou := { channels := List.replicate 8 off, gateOpen := false, floor := 2, cls := 7, inhibit := s.pou.inhibit }
      evc := s.evc.map (fun c =>
        { edge := .off, minWidth := 1000, wiringDelay := 0, slot := none, quiet := false, line := c.line, settled := false
          candidate := none, latest := none, unjudged := none, stepMark := false, count := 0, withinCount := 0
          beyondCount := 0, unjudgedCount := 0 })
      xch := { baseLo := 0, baseHi := 0, run := false, causes := clear, mask := clear, state := .halted, haltAsked := false
               resetAsked := false, store := List.replicate 32 none, staging := [], lossMark := false, lost := 0
               produced := 0, sweeps := 0, capacity := none, consumed := none, threshold := none, period := none
               timer := none, timeUp := false, sweepPending := false, sweep := none, access := none }
      mem := Memory.writeAll ((pendingStores s).take landed) s.mem
      pending := s.pending }

/-- R58, R121: SERVO-SETUP and RANGING-SETUP hold each value at the nearer limit of its range, write them all and
complete ADJUSTED exactly where one was changed. The first changes nothing else; the second has both ports' windows
and Range requests judged anew, as log 17 has it. -/
def Obligations.SetupOrdersHoldValuesInRange : Prop :=
  ∀ (s : State) (src : OrderSrc), canTake s src.slot.val = true →
    (∀ p : ServoSetupP,
      let st : ServoSettings :=
        { kpA := min p.kpA.toNat 7, kiA := p.kiA.toNat, kpT := min p.kpT.toNat 7, kiT := p.kiT.toNat,
          stepThreshold := max 1000 (min 100000000 p.stepThreshold.toNat),
          lockThreshold := max 50 (min 100000 p.lockThreshold.toNat),
          phaseGate := max 1000 (min 100000 p.phaseGate.toNat), drift := p.drift.toNat, aging := p.aging.toNat,
          holdoverLimit := p.holdoverLimit.toNat, improveDwell := max 1 (min 60 p.improveDwell.toNat) }
      exec (.servoSetup src p) s = .next (answered src (.servoSetup p)
        (if st.kpA = p.kpA.toNat ∧ st.kpT = p.kpT.toNat ∧ st.stepThreshold = p.stepThreshold.toNat ∧
            st.lockThreshold = p.lockThreshold.toNat ∧ st.phaseGate = p.phaseGate.toNat ∧
            st.improveDwell = p.improveDwell.toNat then .ok else .adjusted) []
        { s with dsv := { s.dsv with settings := st } })) ∧
    (∀ p : RangingSetupP,
      let st : RangeSettings :=
        { limit := max 1 (min 8 p.launchLimit.toNat), window := max 250 (min 8000 p.window.toNat),
          echoWait := max 100 (min 16000 p.echoWait.toNat), ceiling := max 1 (min 1000000 p.ceiling.toNat) }
      ∃ t, exec (.rangingSetup src p) s = .next t ∧ t.rng.settings = st ∧
        t = { answered src (.rangingSetup p)
            (if st.limit = p.launchLimit.toNat ∧ st.window = p.window.toNat ∧ st.echoWait = p.echoWait.toNat ∧
              st.ceiling = p.ceiling.toNat then .ok else .adjusted) [] s with rng := t.rng, lnk := t.lnk } ∧
        ∀ port,
          rangePort t port = { rangePort s port with windowAt := (rangePort t port).windowAt } ∧
          link t port = { link s port with rangeReq := (link t port).rangeReq } ∧
          ((rangePort t port).windowAt = none ↔ windowHasRoom t port) ∧
          ((link t port).rangeReq = true ↔ launchHolds t port))

/-! ## Discipline Servo (ch. 3) -/

/-- R35, R40 to R49, R53: a mark at the servo. `w` is its distance from the nearest second of device time, `e` its phase
error and `second` its device second. In FREERUN and HOLDOVER it does nothing.
In ACQUIRE with a step outstanding only its estimate is noted; a mark of no use clears the lock run; a label disagreement, and
a phase error above the step threshold, post a step; any other mark is used: Φ and σ are written with the acquisition gains,
|E| joins the error history, and it counts toward lock within the lock threshold, the eighth in a run entering TRACK.
In TRACK a label disagreement is counted and a phase error above the phase gate is gated and counted, both leaving Φ and σ, and
the third in a run of either enters ACQUIRE; any other mark is used with the track gains and joins both histories.
An accepted mark of a QUALIFIED input that stays so is handed to the servo where the input is active, and else not.
That the SERVO_STATE record carries ε before the class evaluation is log 22; where in its tick a fall lies is an operand (log 5). -/
def Obligations.MarkSteersTimebase : Prop :=
  (∀ (s : State) (m : Mark) (w e : Int) (second : Nat),
    w = ((m.stamp % 16000000000 : Nat) : Int) - (if m.stamp % 16000000000 < 8000000000 then 0 else 16000000000) →
    e = w - m.cableDelay →
    second = m.stamp / 16000000000 + (if m.stamp % 16000000000 < 8000000000 then 0 else 1) →
    let t := handleMark m s
    let noted : Servo := { s.dsv with rcvEstimate := m.accuracy.getD s.dsv.rcvEstimate }
    let errs := s.dsv.errHist ++ [(e.natAbs + 15) / 16]
    let errs8 := if 8 < errs.length then errs.drop 1 else errs
    let agrees := ∀ l, m.label = some l → l = second
    let steered := fun kp ki : Nat =>
      let sigma := max (-1600000) (min 1600000 (-(e.tdiv (2 ^ kp : Nat))))
      { s.tbs with
        phi := max (-25600000) (min 25600000 (s.tbs.phi - (e * 16).tdiv (2 ^ ki : Nat)))
        slew := if sigma = 0 then ⟨0, 0, 0⟩ else ⟨sigma * 2 ^ 28, (sigma * 2 ^ 28).tdiv 125000000, 125000000⟩ }
    let entered := fun (new : ServoState) (cause : ServoCause) =>
      t = { s with tbs := t.tbs, dsv := t.dsv, bcu := t.bcu, pou := t.pou, xch := t.xch } ∧
      t.dsv.state = new ∧ t.dsv.lockRun = 0 ∧ t.dsv.labelRun = 0 ∧ t.dsv.gateRun = 0 ∧ t.dsv.stepOutstanding = false ∧
      t.dsv.freqHist = s.dsv.freqHist ∧ t.dsv.rcvEstimate = noted.rcvEstimate ∧ t.dsv.settings = s.dsv.settings ∧
      ((∃ r ∈ t.xch.staging, r.body = .servoState s.dsv.state new cause t.tbs.phi s.dsv.eps t.dsv.labelCount
        t.dsv.gatedCount) ∨ 64 ≤ t.xch.staging.length)
    ((s.dsv.state = .freerun ∨ s.dsv.state = .holdover) → t = s) ∧
    (s.dsv.state = .acquire → s.dsv.stepOutstanding = true → t = { s with dsv := noted }) ∧
    (s.dsv.state = .acquire → s.dsv.stepOutstanding = false → (m.label = none ∨ m.width = .degraded) →
      t = { s with dsv := { noted with lockRun := 0 } }) ∧
    (∀ l : Nat, s.dsv.state = .acquire → s.dsv.stepOutstanding = false → m.label = some l → m.width = .good →
      (l ≠ second ∨ s.dsv.settings.stepThreshold * 16 < e.natAbs) →
      t.tbs = { s.tbs with
        posted := some { delta := ((l : Int) - second) * 16000000000 - e, target := none, origin := .servo } } ∧
      t.dsv = { noted with errHist := [], lockRun := 0, stepOutstanding := true } ∧
      (∀ p slot en, s.tbs.posted = some p → p.origin = .host slot → storeEntry s slot = some en →
        storeEntry t slot = some { en with status := .completed .superseded [] false })) ∧
    (s.dsv.state = .acquire → s.dsv.stepOutstanding = false → m.label = some second → m.width = .good →
      e.natAbs ≤ s.dsv.settings.stepThreshold * 16 →
      let locks := e.natAbs ≤ s.dsv.settings.lockThreshold * 16
      (¬ (locks ∧ 7 ≤ s.dsv.lockRun) → t = { s with
        tbs := steered s.dsv.settings.kpA s.dsv.settings.kiA
        dsv := { noted with errHist := errs8, lockRun := if locks then s.dsv.lockRun + 1 else 0 } }) ∧
      (locks → 7 ≤ s.dsv.lockRun →
        entered .track .lock ∧ t.tbs = steered s.dsv.settings.kpA s.dsv.settings.kiA ∧ t.dsv.errHist = errs8 ∧
        t.dsv.eps = min ((errs8.sum + errs8.length - 1) / errs8.length + noted.rcvEstimate) 4294967295 ∧
        t.dsv.labelCount = s.dsv.labelCount ∧ t.dsv.gatedCount = s.dsv.gatedCount)) ∧
    (∀ l : Nat, s.dsv.state = .track → m.label = some l → l ≠ second →
      let counted := min (s.dsv.labelCount + 1) 65535
      (s.dsv.labelRun < 2 → t = { s with dsv := { noted with labelCount := counted, labelRun := s.dsv.labelRun + 1 } }) ∧
      (2 ≤ s.dsv.labelRun → s.dsv.stepOutstanding = false →
        entered .acquire .label ∧ t.tbs = s.tbs ∧ t.dsv.errHist = [] ∧ t.dsv.labelCount = counted ∧
        t.dsv.gatedCount = s.dsv.gatedCount)) ∧
    (s.dsv.state = .track → agrees → s.dsv.settings.phaseGate * 16 < e.natAbs →
      let counted := min (s.dsv.gatedCount + 1) 65535
      (s.dsv.gateRun < 2 → t = { s with dsv := { noted with
        gatedCount := counted, gateRun := s.dsv.gateRun + 1
        labelRun := if m.label = none then s.dsv.labelRun else 0 } }) ∧
      (2 ≤ s.dsv.gateRun → s.dsv.stepOutstanding = false →
        entered .acquire .gate ∧ t.tbs = s.tbs ∧ t.dsv.errHist = [] ∧ t.dsv.gatedCount = counted ∧
        t.dsv.labelCount = s.dsv.labelCount)) ∧
    (s.dsv.state = .track → agrees → e.natAbs ≤ s.dsv.settings.phaseGate * 16 →
      let tbs := steered s.dsv.settings.kpT s.dsv.settings.kiT
      let freqs := s.dsv.freqHist ++ [tbs.phi]
      t = { s with
        tbs := tbs
        dsv := { noted with
          labelRun := if m.label = none then s.dsv.labelRun else 0, gateRun := 0, errHist := errs8
          freqHist := if 16 < freqs.length then freqs.drop 1 else freqs } })) ∧
  (∀ (s : State) (i : RefInput) (at_ : Instant) (p : RefPulse) (r : RefIn),
    r = refIn s i → r.pulse = some p → r.qual = .qualified → r.nonGoodRun < 2 →
    (∀ v, r.interval = some v → v + 15984000000 ≤ p.rise ∧ p.rise ≤ v + 16016000000) →
    r.settings.minWidth * 16 ≤ s.tbs.stamp at_ - p.rise → s.tbs.stamp at_ - p.rise ≤ 3200000000 →
    let msg := (r.fifo.filter (fun m => decide (p.rise ≤ m.completed + 19200000000))).find?
      (fun m => decide (m.completed ≤ p.rise))
    let mark : Mark :=
      { stamp := p.rise, label := msg.map (·.label), accuracy := msg.map (·.accuracy), cableDelay := r.settings.cableDelay
        width := if s.tbs.stamp at_ - p.rise < r.settings.longWidth * 16000000 then .good else .degraded }
    ∃ t, exec (.refPulseFall i at_) s = .next t ∧
      (s.rfi.active = some i → t.tbs = (handleMark mark s).tbs ∧ t.dsv = (handleMark mark s).dsv) ∧
      (s.rfi.active ≠ some i → t.tbs = s.tbs ∧ t.dsv = s.dsv))

/-- R46, R53 to R57: the servo at a second boundary. In HOLDOVER n and ε grow, and at the limit the servo enters FREERUN, with a
SERVO_STATE record of cause LIMIT that carries Φ, the grown ε and the counts; with a reference ε is the mean of the error history,
rounded up, and the receiver's estimate. The class takes a worse candidate at once and a better one when the dwell count reaches
the improve dwell. A changed class is journaled.
R155: where the new class is above the floor an OPEN gate closes with cause CLASS, its record naming the gated channels whose
pulses it cut, and no gated channel keeps one; the boundary moves the gate in no other case.
The order of the blocks as an operand is the model's choice (log 6); that the SERVO_STATE record comes before the class evaluation
is log 22. -/
def Obligations.BoundaryEvaluatesClass : Prop :=
  ∀ (s : State) (blocks : List Block), s.tbs.atBoundary = true → s.dsv.cls ≤ 7 →
    ∃ t, exec (.secondBoundary blocks) s = .next t ∧ t.tbs.phi = s.tbs.phi ∧ t.dsv.stepOutstanding = false ∧
      t.dsv.errHist = s.dsv.errHist ∧ t.dsv.rcvEstimate = s.dsv.rcvEstimate ∧ t.dsv.settings = s.dsv.settings ∧
      (let d := s.dsv
       let n := min (d.holdSeconds + 1) 4294967295
       let ends : Bool := d.state == .holdover && d.settings.holdoverLimit != 0 && decide (d.settings.holdoverLimit ≤ n)
       let eps := match d.state with
         | .freerun => d.eps
         | .holdover => min (d.eps + d.settings.drift + n * d.settings.aging / 1024) 4294967295
         | .acquire | .track => min ((d.errHist.sum + d.errHist.length - 1) / d.errHist.length + d.rcvEstimate) 4294967295
       let grade := if eps ≤ 100 then 1 else if eps ≤ 1000 then 2 else if eps ≤ 10000 then 3 else if eps ≤ 100000 then 4
         else if eps ≤ 1000000 then 5 else 6
       let cand := if ends ∨ d.state = .freerun then 7 else if d.state = .acquire then max 3 grade else grade
       t.dsv.state = (if ends then .freerun else d.state) ∧ t.dsv.eps = eps ∧
       t.dsv.holdSeconds = (if ends then 0 else if d.state = .holdover then n else d.holdSeconds) ∧
       t.dsv.freqHist = (if ends then [] else d.freqHist) ∧ t.dsv.labelCount = d.labelCount ∧ t.dsv.gatedCount = d.gatedCount ∧
       (ends = true → handedOn s t (.servoState .holdover .freerun .limit s.tbs.phi eps d.labelCount d.gatedCount)) ∧
       t.dsv.cls = (if d.cls < cand ∨ cand < d.cls ∧ d.settings.improveDwell ≤ d.dwell + 1 then cand else d.cls) ∧
       t.dsv.dwell = (if cand < d.cls ∧ d.dwell + 1 < d.settings.improveDwell then d.dwell + 1 else 0) ∧
       (t.dsv.cls ≠ d.cls →
         (∃ r ∈ t.xch.staging, r.body = .classChange d.cls t.dsv.cls t.dsv.state eps) ∨ 64 ≤ t.xch.staging.length)) ∧
      (let closes := t.dsv.cls ≠ s.dsv.cls ∧ s.pou.floor < t.dsv.cls ∧ s.pou.gateOpen = true
       (¬ closes → t.pou.gateOpen = s.pou.gateOpen) ∧
       (closes → t.pou.gateOpen = false ∧ (∀ ch ∈ t.pou.channels, ch.active.gated = true → ch.fall = none) ∧
         ((∃ r ∈ t.xch.staging, ∃ cut,
             r.body = .gateClosed .cls t.dsv.cls s.pou.floor s.pou.inhibit cut ∧
             ((∀ ch ∈ s.pou.channels, ch.pending = none ∧ ch.arm = none) → s.tbs.stepDue = false →
               ∀ c, c ∈ cut ↔ c < s.pou.channels.length ∧ (channel s c).active.gated = true ∧ (channel s c).fall ≠ none)) ∨
           64 ≤ t.xch.staging.length)))

/-! ## Link Ports (ch. 4) -/

/-- R61, R62, R108, R125, R129, R136: the port state under a change of its link-status input. A port that leaves UP drops both
requests and every frame in hand, voids its outstanding exchanges and has no Beacon in build or scheduled; a pending rate comes
into force, the carried marks of its roll-call queue are cleared, sequence number, queue and last carried notice stand, and each
ONCE block it owes is owed by it no longer, and is freed with its NOTICE_DONE record where no other port owes it. One that enters
UP has its next Beacon at the first point of its rate at or after device time. The other port stands.
That a frame sent, but not yet cleared by ARBITER_FREE, ends with the error indication is the model's choice (log 27).
When the Range request is judged anew is log 17. -/
def Obligations.LinkLevelMovesPortState : Prop :=
  ∀ (s : State) (port : Port) (level : Bool),
    ∃ t, exec (.linkStatusChange port level) s = .next t ∧ (link t port).link = level ∧ t.mem = s.mem ∧
      (link t port).state = (match (link s port).state with
        | .disabled => .disabled
        | .down => if level then .up else .down
        | .up => if level then .up else .down) ∧
      (link t port).settings = (link s port).settings ∧ (link t port).counters = (link s port).counters ∧
      (∀ q, q ≠ port → link t q = link s q ∧ rangePort t q = rangePort s q ∧
        beaconPort t q = { beaconPort s q with built := (beaconPort t q).built }) ∧
      ((link t port).state = (link s port).state → t = modLink port (fun l => { l with link := level }) s) ∧
      ((link s port).state = .up → level = false →
        upLeft port s t ∧ (beaconPort t port).rate = (beaconPort s port).pendingRate.getD (beaconPort s port).rate) ∧
      ((link s port).state = .down → level = true → (beaconPort s port).rate ∈ [1, 2, 4, 8, 16] →
        ((link t port).rangeReq = true ↔ launchHolds t port) ∧
        ∃ u, (beaconPort t port).next = some u ∧ u % (16000000000 / (beaconPort s port).rate) = 0 ∧ now s ≤ u ∧
          u < now s + 16000000000 / (beaconPort s port).rate)

/-- R61, R63, R125, R126: PORT-SETUP. A failed check completes BAD_FIELD and changes nothing; a passing order writes every
setting, completes OK and puts the port in the state that its enable setting and link level give. On a port not in UP
the new beacon rate is in force at once, on one in UP it waits. Counters, tables and the other port stand. A port in UP that is
disabled leaves UP as LinkLevelMovesPortState has it, with the new rate in force (R62, R125, R136; log 27). A port that the order
brings UP has its next Beacon at the first point of the new rate at or after device time, and its Range request is present where a
launch is permitted (R100); on any port the order has it judged anew (log 17). -/
def Obligations.PortSetupWritesSettings : Prop :=
  ∀ (s : State) (src : OrderSrc) (p : PortSetupP), canTake s src.slot.val = true →
    ((1 < p.port.toNat ∨ p.typeCode = 0 ∨ p.station.getLsbD 40 = true ∨ p.rate.toNat ∉ [1, 2, 4, 8, 16]) →
      exec (.portSetup src p) s = .next (answered src (.portSetup p) .badField [] s)) ∧
    (∀ port, portOf p.port = some port → p.typeCode ≠ 0 → p.station.getLsbD 40 = false →
      p.rate.toNat ∈ [1, 2, 4, 8, 16] →
      ∃ t, exec (.portSetup src p) s = .next t ∧ t.mem = s.mem ∧
        storeEntry t src.slot.val = storeEntry (answered src (.portSetup p) .ok [] s) src.slot.val ∧
        (link t port).settings = { enable := p.enable != 0, station := p.station, typeCode := p.typeCode,
                                   domain := p.domain, rate := p.rate.toNat, reporting := p.reporting != 0 } ∧
        (link t port).state = (if p.enable = 0 then .disabled
          else if (link s port).state = .disabled then (if (link s port).link then .up else .down)
          else (link s port).state) ∧
        (link t port).counters = (link s port).counters ∧ (link t port).link = (link s port).link ∧
        (link t port).holdoff = (if p.enable ≠ 0 ∧ p.reporting ≠ 0 then (link s port).holdoff else none) ∧
        (∀ q, q ≠ port → link t q = link s q ∧ rangePort t q = rangePort s q ∧
        beaconPort t q = { beaconPort s q with built := (beaconPort t q).built }) ∧
        ((link s port).state = .up → p.enable ≠ 0 →
          (beaconPort t port).rate = (beaconPort s port).rate ∧
          (beaconPort t port).pendingRate =
            (if p.rate.toNat = (beaconPort s port).rate then none else some p.rate.toNat) ∧
          (rangePort t port).table = (rangePort s port).table) ∧
        ((link s port).state = .up → p.enable = 0 → upLeft port s t ∧ (beaconPort t port).rate = p.rate.toNat) ∧
        ((link s port).state ≠ .up →
          (beaconPort t port).rate = p.rate.toNat ∧ (beaconPort t port).pendingRate = none) ∧
        ((link t port).rangeReq = true ↔ launchHolds t port) ∧
        ((link s port).state ≠ .up → (link t port).state = .up →
          ∃ u, (beaconPort t port).next = some u ∧ u % (16000000000 / p.rate.toNat) = 0 ∧ now s ≤ u ∧
            u < now s + 16000000000 / p.rate.toNat))

/-- R68, R101, R103, R128: the transmit arbiter grants a Beacon before a Range. A grant of a Range takes the eligible path
that ranks first: debt 8 before LOST paths with the Hail-urgent mark, then the debts 7 to 1 in falling order, then LOST paths
without the mark, and the lower slot among equals. It takes the first tag after the port's counter that neither the table nor
the path's last expired exchange holds, and reserves an entry. With no request present nothing is sent, and a port not in UP,
or one still sending up to its timestamp point, changes nothing.
That grants are made only at ARBITER_FREE is log 16, when the Range request is judged anew log 17. -/
def Obligations.ArbiterGrantsBeaconThenRange : Prop :=
  ∀ (s : State) (port : Port),
    let rank := fun q : Path =>
      if q.state = .lost then (if q.urgent then 2 else 11) else if q.debt = 8 then 1 else 1 + (9 - q.debt)
    (((link s port).state ≠ .up ∨ ∃ f, (link s port).tx = some f ∧ f.stamped = false) →
      exec (.arbiterFree port) s = .next s) ∧
    ((link s port).state = .up → (∀ f, (link s port).tx = some f → f.stamped = true) →
      ∃ t, exec (.arbiterFree port) s = .next t ∧ t.mem = s.mem ∧ t.crs = s.crs ∧
        (link t port).counters = (link s port).counters ∧
        (∀ q, q ≠ port → link t q = link s q ∧ rangePort t q = rangePort s q ∧ beaconPort t q = beaconPort s q) ∧
        ((link s port).beaconReq = true →
          (∃ bytes, (link t port).tx = some { kind := .beacon, bytes := bytes, stamped := false } ∧
            bytes.take 6 = be 6 broadcast.toNat ∧ (bytes.drop 6).take 6 = be 6 (link s port).settings.station.toNat) ∧
          (link t port).beaconReq = false ∧ ((link t port).rangeReq = true ↔ launchHolds s port) ∧
          (rangePort t port).table = (rangePort s port).table ∧
          (beaconPort t port).seq = (beaconPort s port).seq ∧
          (beaconPort t port).roll.map (·.slot) = (beaconPort s port).roll.map (·.slot)) ∧
        ((link s port).beaconReq = false → ¬ launchHolds s port →
          (link t port).tx = none ∧ (rangePort t port).table = (rangePort s port).table) ∧
        ((link s port).beaconReq = false → launchHolds s port →
          ∃ (n k : Nat) (tag : Byte), wantsLaunch s port n ∧
            (∀ m, wantsLaunch s port m → rank (path s n port) < rank (path s m port) ∨
              rank (path s n port) = rank (path s m port) ∧ n ≤ m) ∧
            k ≤ 16 ∧ tag = (rangePort s port).tagCounter + BitVec.ofNat 8 (k + 1) ∧
            (∀ x ∈ (rangePort s port).table, x.tag ≠ tag) ∧ (path s n port).lastExpired ≠ some tag ∧
            (∀ j < k, (∃ x ∈ (rangePort s port).table, x.tag = (rangePort s port).tagCounter + BitVec.ofNat 8 (j + 1)) ∨
              (path s n port).lastExpired = some ((rangePort s port).tagCounter + BitVec.ofNat 8 (j + 1))) ∧
            (rangePort t port).table = (rangePort s port).table ++ [{ tag := tag, slot := n, t1 := none, expiry := none }] ∧
            (rangePort t port).tagCounter = tag ∧ (rangePort t port).history = (rangePort s port).history ∧
            (link t port).tx = some
              { kind := .range n tag, stamped := false,
                bytes := frameBytes (client s n).config.addr (link s port).settings kindRange [tag, 0] }))

/-- R128, R133, R135, R65: the Beacon that a grant builds. Its frame, before its check sequence, is a broadcast with the
port's header, 13 octets left for the departure time, the class, servo state and active input, the UTC offset, the leap
indicator and epoch, the sequence number, both counts, the roll-call entries and the notices. It carries the first six of the
port's roll-call queue, marked carried, and the first two blocks due, in the order that begins after the last carried index. -/
def Obligations.BeaconBodyCarries : Prop :=
  ∀ (s : State) (port : Port),
    (link s port).state = .up → (∀ f, (link s port).tx = some f → f.stamped = true) → (link s port).beaconReq = true →
    let b := beaconPort s port
    let st := (link s port).settings
    let slots := (b.roll.take 6).map (·.slot)
    let entry := fun n : Nat =>
      be 6 (client s n).config.addr.toNat ++ be 4 ((path s n port).delay.getD 0) ++
        be 1 ((if (path s n port).state = .valid then 1 else 0) + (if (client s n).state = .following then 2 else 0)) ++
        ([0] : List Byte)
    let due := fun n : Notice => match n.mode with
      | .once => (match port with | .a => n.owed.a | .b => n.owed.b)
      | .every => true
      | .nth _ => (match port with | .a => n.wait.a | .b => n.wait.b) == 0
      | .until_ _ => true
    let first : Nat := match b.lastNotice with | none => 0 | some i => i + 1
    let blocks := ((List.range 8).filterMap (fun k =>
      (noticeAt s ((first + k) % 8)).bind (fun n => if due n then some ((first + k) % 8, n) else none))).take 2
    let servo : Nat := match s.dsv.state with | .freerun => 0 | .acquire => 1 | .track => 2 | .holdover => 3
    let active : Nat := match s.rfi.active with | none => 0 | some .a => 1 | some .b => 2
    let leap : Nat := match s.tbs.leap with | none => 0 | some l => if l.insert then 1 else 2
    let body := List.replicate 13 (0 : Byte) ++ be 1 s.bcu.cls ++ be 1 servo ++ be 1 active ++ beInt 2 s.tbs.utcOffset ++
      be 1 leap ++ [(0 : Byte)] ++ be 8 (match s.tbs.leap with | none => 0 | some l => l.epoch) ++ be 2 b.seq ++ be 1 slots.length ++
      be 1 blocks.length ++ [(0 : Byte), 0] ++ (slots.map entry).flatten ++
      (blocks.map (fun x => be 1 x.1 ++ be 1 x.2.payload.length ++ x.2.payload)).flatten
    let frame : List Byte := [0xFF, 0xFF, 0xFF, 0xFF, 0xFF, 0xFF] ++ be 6 st.station.toNat ++ be 2 st.typeCode.toNat ++ [1, 1] ++
      be 2 body.length ++ [st.domain, 0] ++ body
    ∃ t, exec (.arbiterFree port) s = .next t ∧
      (link t port).tx = some
        { kind := .beacon, stamped := false, bytes := frame ++ List.replicate (60 - frame.length) 0 } ∧
      (beaconPort t port).roll = (b.roll.take 6).map (fun e => { e with carried := true }) ++ b.roll.drop 6 ∧
      (beaconPort t port).built = some {
        notices := blocks.map (fun x => { index := x.1, live := true }),
        entries := slots.map (fun n =>
          { slot := n, delay := if (path s n port).state = .valid then (path s n port).delay else none, live := true }) }

/-- R66, R67, R69, R102, R104, R129, R132, R135, R136: timestamp points. A frame being sent passes its own once: the port counts it and the
wire carries it with its check sequence. A Beacon carries its departure stamp, and completes: the sequence number grows by 1, the carried entries leave the queue, and of
each carried entry whose client has not left since, the D it carried and the stamp become the path's last announced D and time.
The last carried notice index is that of the last notice carried. A carried block, still the one held, has its carried flag set,
an NTH block its wait count at N − 1, and a ONCE block is owed no longer, and free with its NOTICE_DONE record where no port owes
it; the wait count of an NTH block not carried falls by 1, and every other block stands. A
Range's stamp joins the launch history, gives the entry with its tag, where it still stands, its t1 and its expiry, one echo
wait later, and clears the Hail-urgent mark of its path. A received frame's stamp is held with it.
The check sequence is PRESUMED (log 15), `sent` the model's field (log 27), the place in the tick an operand (log 5). That the
departure of a Range whose entry was voided clears the mark too is log 36, and that a timestamp point with no frame awaiting
it changes nothing is the model's choice (log 4). -/
def Obligations.TimestampPoints : Prop :=
  ∀ (s : State) (port : Port),
    (∀ at_, exec (.receiveTimestampPoint port at_) s = .next (
      if (link s port).state = .up then modLink port (fun l => { l with rx := some (s.tbs.stamp at_) }) s else s)) ∧
    (∀ at_, (∀ f, (link s port).tx = some f → f.stamped = true) → exec (.txTimestampPoint port at_) s = .next s) ∧
    (∀ at_ bytes, (link s port).tx = some { kind := .beacon, bytes := bytes, stamped := false } →
      ∃ t, exec (.txTimestampPoint port at_) s = .next t ∧ t.mem = s.mem ∧
        link t port = { link s port with
          tx := some { kind := .beacon, bytes := bytes, stamped := true }
          sent := (let whole := bytes.take 20 ++ departureBytes (s.tbs.stamp at_) ++ bytes.drop 33
                   whole ++ fcsOf whole)
          counters := { (link s port).counters with beacons := ((link s port).counters.beacons + 1) % 4294967296 }
          rangeReq := (link t port).rangeReq } ∧
        (∀ b, (beaconPort s port).built = some b →
          beaconPort t port = { beaconPort s port with
            seq := ((beaconPort s port).seq + 1) % 65536, built := none
            roll := (beaconPort s port).roll.filter (fun e => !e.carried)
            lastNotice := match b.notices.getLast? with
              | none => (beaconPort s port).lastNotice
              | some x => some x.index } ∧
          (∀ n, (∀ e ∈ b.entries, e.slot = n → e.live = false) → path t n port = path s n port) ∧
          (∀ e ∈ b.entries, e.live = true → e.slot < s.crs.clients.length →
            ∃ f ∈ b.entries, f.slot = e.slot ∧ f.live = true ∧ path t e.slot port =
              { path s e.slot port with announcedAt := some (s.tbs.stamp at_), announcedDelay := f.delay }) ∧
          (∀ n q, q ≠ port → path t n q = path s n q) ∧
          (∀ i < 8, noticeAt s i = none → noticeAt t i = none) ∧
          ∀ i < 8, ∀ n, noticeAt s i = some n →
            let found := b.notices.find? (fun x => x.index == i)
            let shown : Notice := { n with carried := modPort port (fun _ => true) n.carried }
            (found = none → noticeAt t i = some (match n.mode with
              | .nth _ => { n with wait := modPort port (fun w => w - 1) n.wait }
              | .once | .every | .until_ _ => n)) ∧
            (∀ x, found = some x → x.live = false → noticeAt t i = some n) ∧
            (∀ x, found = some x → x.live = true →
              (∀ k, n.mode = .nth k → noticeAt t i = some { shown with wait := modPort port (fun _ => k - 1) n.wait }) ∧
              ((n.mode = .every ∨ ∃ epoch, n.mode = .until_ epoch) → noticeAt t i = some shown) ∧
              (n.mode = .once → onceSettled port i shown s t))) ∧
        (rangePort t port).history = (rangePort s port).history ∧ (rangePort t port).table = (rangePort s port).table) ∧
    (∀ at_ bytes n tag, (link s port).tx = some { kind := .range n tag, bytes := bytes, stamped := false } →
      ∃ t, exec (.txTimestampPoint port at_) s = .next t ∧ t.mem = s.mem ∧
        (let stamp := s.tbs.stamp at_
         link t port = { link s port with
           tx := some { kind := .range n tag, bytes := bytes, stamped := true }, sent := bytes ++ fcsOf bytes
           counters := { (link s port).counters with ranges := ((link s port).counters.ranges + 1) % 4294967296 }
           rangeReq := (link t port).rangeReq } ∧
         (rangePort t port).history = ((rangePort s port).history ++ [stamp]).drop ((rangePort s port).history.length - 7) ∧
         (rangePort t port).tagCounter = (rangePort s port).tagCounter ∧
         (rangePort t port).table = (rangePort s port).table.map (fun e =>
           if e.tag = tag ∧ e.t1 = none then
             { e with t1 := some stamp, expiry := some (stamp + s.rng.settings.echoWait * 16000) } else e) ∧
         path t n port = { path s n port with urgent := false } ∧
         ∀ k q, (k ≠ n ∨ q ≠ port) → path t k q = path s k q))

/-- R66, R70 to R72: a frame whose check sequence is bad, that is too short, or whose type or destination is not the
port's is discarded without count. One the filter passes is dropped and counted when its version, length, domain or
source is wrong, when its kind is neither Beacon, Echo nor Hail, or when a check of its kind's own fields fails: a Beacon
shorter than its fixed part; an Echo of another length, of a status, nanoseconds or sixteenths out of range; a Hail of another
length, of a kind or period out of range. A frame not received from its start on is nothing.
The check sequence is PRESUMED (log 15). -/
def Obligations.FramesDiscardedOrDropped : Prop :=
  ∀ (s : State) (port : Port) (bytes : List Byte),
    ((link s port).rx = none → exec (.frameReceived port bytes) s = .next s) ∧
    (∀ stamp, (link s port).rx = some stamp →
      let f := parseFrame bytes
      let st := (link s port).settings
      let mine := f.etherType = st.typeCode ∧ (f.dest = st.station ∨ f.dest = 0xFFFFFFFFFFFF)
      let whole := 64 ≤ bytes.length ∧ bytes.drop (bytes.length - 4) = fcsOf (bytes.take (bytes.length - 4))
      (¬ (whole ∧ mine) → exec (.frameReceived port bytes) s = .next (modLink port (fun l => { l with rx := none }) s)) ∧
      (whole → mine →
        (f.version ≠ 1 ∨ f.body.length < f.bodyLen ∨ f.domain ≠ st.domain ∨ f.src.getLsbD 40 = true ∨
          f.kind.toNat ∉ [1, 3, 4] ∨ f.kind = 1 ∧ f.bodyLen < 34 ∨
          f.kind = 3 ∧ (f.bodyLen ≠ 12 ∨ (byteAt f.body 1).toNat ∉ [1, 2, 3] ∨ 999999999 < fieldBe f.body 4 4 ∨
            15 < (byteAt f.body 3).toNat) ∨
          f.kind = 4 ∧ (f.bodyLen ≠ 2 ∨ 3 < (byteAt f.body 0).toNat ∨ 7 < (byteAt f.body 1).toNat)) →
        ∃ t, exec (.frameReceived port bytes) s = .next t ∧
          t = { s with lnk := t.lnk, rng := t.rng } ∧
          link t port = { link s port with
            rx := none, rangeReq := (link t port).rangeReq
            counters := { (link s port).counters with dropped := ((link s port).counters.dropped + 1) % 4294967296 } } ∧
          rangePort t port = { rangePort s port with windowAt := (rangePort t port).windowAt } ∧
          (∀ q, q ≠ port → link t q = link s q ∧ rangePort t q = rangePort s q)))

/-- R72, R73, R89, R90: a Hail and a foreign Beacon. A Hail of an admitted client sets its last Hail time, queues it for
publication and marks a LOST path of that port urgent; one of another address renews its newcomer entry, or is listed
with a HAIL record, or with 16 listed is counted as overflow. A Beacon of a station that is neither port's, with
reporting on, is counted, and with no holdoff held makes a FOREIGN_BEACON record and holds off for 10 s. -/
def Obligations.HailsAndForeignBeacons : Prop :=
  ∀ (s : State) (port : Port) (bytes : List Byte) (stamp : Nat),
    (link s port).rx = some stamp → filterPasses (link s port).settings bytes = true →
    btxOk (link s port).settings (parseFrame bytes) = true →
    let f := parseFrame bytes
    (∀ kind, f.kind = 4 → f.bodyLen = 2 → clientKindOf (byteAt f.body 0) = some kind → (byteAt f.body 1).toNat ≤ 7 →
      ∃ t, exec (.frameReceived port bytes) s = .next t ∧
        (link t port).counters = { (link s port).counters with hails := ((link s port).counters.hails + 1) % 4294967296 } ∧
        (∀ n, clientByAddr f.src s = some n →
          (client t n).lastHail = some stamp ∧ n ∈ t.crs.queue ∧ t.crs.newcomers = s.crs.newcomers ∧
          path t n port = (if (path s n port).state = .lost then { path s n port with urgent := true } else path s n port)) ∧
        (clientByAddr f.src s = none →
          t.crs.clients = s.crs.clients ∧ t.crs.queue = s.crs.queue ∧
          (if s.crs.newcomers.any (·.addr == f.src) then
            t.crs.newcomers = s.crs.newcomers.map (fun e => if e.addr = f.src then { e with heard := stamp } else e) ∧
            t.crs.overflow = s.crs.overflow ∧ t.xch = s.xch
          else if s.crs.newcomers.length < 16 then
            t.crs.newcomers = s.crs.newcomers ++ [{ addr := f.src, heard := stamp }] ∧
            t.crs.overflow = s.crs.overflow ∧
            t.xch = (stage (.hail port f.src kind (byteAt f.body 1).toNat (s.crs.newcomers.length + 1) s.crs.overflow) s).xch
          else t.crs.newcomers = s.crs.newcomers ∧ t.crs.overflow = min (s.crs.overflow + 1) 65535 ∧ t.xch = s.xch))) ∧
    (f.kind = 1 → 34 ≤ f.bodyLen →
      ∃ t, exec (.frameReceived port bytes) s = .next t ∧ t.crs = s.crs ∧
        (if f.src = s.lnk.a.settings.station ∨ f.src = s.lnk.b.settings.station ∨
            (link s port).settings.reporting = false then
          (link t port).counters =
            { (link s port).counters with dropped := ((link s port).counters.dropped + 1) % 4294967296 } ∧
          (link t port).holdoff = (link s port).holdoff ∧ t.xch = s.xch
        else
          (link t port).counters =
            { (link s port).counters with foreign := ((link s port).counters.foreign + 1) % 4294967296 } ∧
          (if (link s port).holdoff = none then
            (link t port).holdoff = some (stamp + 160000000000) ∧
            t.xch = (stage (.foreignBeacon port f.src (byteAt f.body 13) (byteAt f.body 14) (fieldBe f.body 28 2)
              (((link s port).counters.foreign + 1) % 4294967296)) s).xch
          else (link t port).holdoff = (link s port).holdoff ∧ t.xch = s.xch)))

/-! ## Ranging (ch. 6) -/

/-- R83, R84, R86, R87, R99, R106, R110 to R120: an Echo that matches an exchange of a SEEDING, VALID or LOST path. `rt` is its
round trip, `sample` its sample. One outside the round-trip limits is rejected; on a LOST path any other starts seeding from
it; on a path without D it is the first sample; within the gate it moves D, by half its distance in SEEDING, where the fourth
makes the path VALID, and by 1 in 2^k in VALID; outside the gate it is an outlier, but the fourth in a run replaces D. A
SEEDING or VALID path pays one unit of debt, and the Echo is counted. The client's offset is t2 − t1 − D, judged where the Echo
is accepted, which clears REVERIFY; its state is the one the table of R83 gives, and a change hands on its CLIENT_STATE record, with
cause PATH where the path changed state, else ECHO where REVERIFY was cleared, else VERDICT, and joins the roll-call queues as R84
states. PATH_VALID and PATH_STEP are handed on, the roll-call queue joined as R120 states, and the entry is freed. -/
def Obligations.MatchedEchoOutcomes : Prop :=
  ∀ (s : State) (port : Port) (bytes : List Byte) (t4 t1 n : Nat) (e : Echo) (x : Exchange) (q : Path),
    (link s port).rx = some t4 → filterPasses (link s port).settings bytes = true →
    btxOk (link s port).settings (parseFrame bytes) = true → (parseFrame bytes).kind = 3 →
    echoOf (parseFrame bytes) t4 = some e → TableOk (rangePort s port) → x ∈ (rangePort s port).table →
    x.tag = e.tag → x.slot = n → x.t1 = some t1 → (client s n).state ≠ .vacant → (client s n).config.addr = e.src →
    q = path s n port → q.state ≠ .idle → (q.state = .valid → q.delay ≠ none) →
    let c := client s n
    let cfg := atPort c.config.path port
    let rt : Int := (t4 : Int) - t1 - e.turnaround
    let passes : Bool := decide (0 ≤ rt) && decide (rt ≤ s.rng.settings.ceiling * 16)
    let sample : Nat := (max 0 ((rt + cfg.asymmetry) / 2)).toNat
    let near := fun d : Nat => decide (((sample : Int) - d).natAbs ≤ cfg.gate * 16)
    let moved := fun (d : Nat) (div : Nat) => (max 0 (min 4294967295 ((d : Int) + ((sample : Int) - d).tdiv div))).toNat
    let tried : Path := { q with
      debt := if q.state = .lost then q.debt else q.debt - 1
      clamps := if rt + cfg.asymmetry < 0 then min (q.clamps + 1) 65535 else q.clamps }
    let taken : Path := { tried with accepted := min (q.accepted + 1) 65535, outlierRun := 0 }
    let after : Path :=
      if passes = false then { tried with clamps := q.clamps, rejects := min (q.rejects + 1) 65535 }
      else if q.state = .lost then
        { taken with state := .seeding, debt := 0, urgent := false, delay := some sample, seeds := 1 }
      else match q.delay with
        | none => { taken with delay := some sample, seeds := 1 }
        | some d =>
          if near d then
            if q.state = .valid then { taken with delay := some (moved d (2 ^ cfg.shift)) }
            else { taken with delay := some (moved d 2), seeds := q.seeds + 1
                              state := if 3 ≤ q.seeds then .valid else .seeding }
          else if q.outlierRun < 3 then
            { tried with outlierRun := q.outlierRun + 1, outliers := min (q.outliers + 1) 65535 }
          else { taken with delay := some sample, seeds := if q.state = .valid then q.seeds else 1 }
    let outside : Bool := q.state != .lost && q.delay.any (fun d => !near d)
    let accepted : Bool := passes && (!outside || decide (3 ≤ q.outlierRun))
    let sec := (t1 / 16000000000 : Nat)
    let u : Int := ((e.sec4 : Int) - (sec % 16 : Nat)) % 16
    let t2 : Int := ((sec : Int) + (if u < 8 then u else u - 16)) * 16000000000 + e.ns * 16 + e.six
    let offset : Int := max (-2147483647) (min 2147483647 (t2 - t1 - (after.delay.getD 0 : Nat)))
    ∃ t, exec (.frameReceived port bytes) s = .next t ∧ t.mem = s.mem ∧ path t n port = after ∧
      (let k := client t n
       k.selfStatus = some e.status ∧ k.offset = (if passes then some offset else c.offset) ∧
       k.reverify = (if accepted then false else c.reverify) ∧
       k.offsetV = (if accepted then
           if offset.natAbs ≤ c.config.offsetTol * 16 then
             { verdict := if 1 ≤ c.offsetV.within then .pass else c.offsetV.verdict
               within := min (c.offsetV.within + 1) 2, beyond := 0 }
           else { verdict := if 2 ≤ c.offsetV.beyond then .fail else c.offsetV.verdict
                  within := 0, beyond := min (c.offsetV.beyond + 1) 3 }
         else c.offsetV) ∧
       stateFollows n (if after.state ≠ q.state then .path else if accepted = true ∧ c.reverify = true then .echo else .verdict) s t ∧
       k.config = c.config ∧ k.pulseV = c.pulseV ∧ k.pulseError = c.pulseError ∧ k.version = c.version) ∧
      (q.accepted < 65535 → q.outliers < 65535 → q.rejects < 65535 → n ∈ t.crs.queue) ∧
      (after.state = .valid → q.state ≠ .valid →
        handedOn s t (.pathValid n port c.config.addr after.debt (after.delay.getD 0) after.accepted after.outliers)) ∧
      (∀ d, accepted = true → outside = true → q.delay = some d →
        handedOn s t (.pathStep n port c.config.addr after.state d sample)) ∧
      (accepted = true → (outside = true ∨ after.state = .valid ∧ (q.state ≠ .valid ∨ ∀ a, q.announcedDelay = some a →
          c.config.announceThreshold < (((after.delay.getD 0 : Nat) : Int) - a).natAbs)) →
        ∃ e ∈ (beaconPort t port).roll, e.slot = n ∧ e.carried = false) ∧
      (rangePort t port).table = (rangePort s port).table.filter (fun y => y.tag != e.tag) ∧
      (link t port).counters =
        { (link s port).counters with echoes := ((link s port).counters.echoes + 1) % 4294967296 } ∧
      (∀ m, m ≠ n → client t m = client s m)

/-- R106: an Echo that matches no live exchange. It is late where its tag is the last expired one of the client that holds its
address: that path's late count grows, and the client is queued. Any other is stray and counted by the port alone. No exchange
is freed and no debt paid. -/
def Obligations.UnmatchedEchoLateOrStray : Prop :=
  ∀ (s : State) (port : Port) (bytes : List Byte) (t4 : Nat) (e : Echo),
    (link s port).rx = some t4 → filterPasses (link s port).settings bytes = true →
    btxOk (link s port).settings (parseFrame bytes) = true → (parseFrame bytes).kind = 3 →
    echoOf (parseFrame bytes) t4 = some e →
    let holds := fun k : Nat => (client s k).state ≠ .vacant ∧ (client s k).config.addr = e.src
    (∀ x ∈ (rangePort s port).table, x.tag = e.tag → x.t1 = none ∨ ¬ holds x.slot) →
    ∃ t, exec (.frameReceived port bytes) s = .next t ∧ t.mem = s.mem ∧ t.xch = s.xch ∧ t.bcu = s.bcu ∧
      (rangePort t port).table = (rangePort s port).table ∧
      (let echoes := ((link s port).counters.echoes + 1) % 4294967296
       (∀ n, holds n → (∀ k, holds k → k = n) → (path s n port).lastExpired = some e.tag →
         (link t port).counters = { (link s port).counters with echoes := echoes } ∧
         path t n port = { path s n port with late := min ((path s n port).late + 1) 65535 } ∧
         ((path s n port).late < 65535 → n ∈ t.crs.queue) ∧ (∀ m, m ≠ n → client t m = client s m)) ∧
       ((∀ n, holds n → (path s n port).lastExpired ≠ some e.tag) →
         (link t port).counters = { (link s port).counters with
           echoes := echoes, stray := ((link s port).counters.stray + 1) % 4294967296 } ∧ t.crs = s.crs))

/-- R124, R102, R107, R73: an instant that device time has not reached changes nothing. A Beacon point of a port in UP
raises its request and sets the next point of the rate; an opened window is judged anew with the Range request; an exchange
whose expiry the last completed tick has reached is freed, counted as a timeout, its tag remembered and its client queued; a
holdoff is none again. When a Beacon point or a holdoff counts as reached, and that an early command does nothing, is the
model's choice (log 4), when a Range request is judged anew log 17. -/
def Obligations.DeadlinesActWhenReached : Prop :=
  ∀ (s : State) (port : Port),
    (∀ u, (beaconPort s port).next = some u → (link s port).state = .up → s.tbs.reaches u = true →
      exec (.beaconPoint port) s = .next (modLink port (fun l => { l with beaconReq := true })
        (modBeacon port (fun b => { b with
          next := some ((u / (16000000000 / b.rate) + 1) * (16000000000 / b.rate)) }) s))) ∧
    (((link s port).state ≠ .up ∨ s.tbs.reachesOpt (beaconPort s port).next = false) →
      exec (.beaconPoint port) s = .next s) ∧
    (∀ w, (rangePort s port).windowAt = some w → w ≤ now s →
      ∃ t, exec (.windowOpening port) s = .next t ∧ t = { s with lnk := t.lnk, rng := t.rng } ∧
        link t port = { link s port with rangeReq := (link t port).rangeReq } ∧
        rangePort t port = { rangePort s port with windowAt := (rangePort t port).windowAt } ∧
        ((link t port).rangeReq = true ↔ launchHolds s port) ∧
        (windowHasRoom s port → (rangePort t port).windowAt = none)) ∧
    ((∀ w, (rangePort s port).windowAt = some w → now s < w) → exec (.windowOpening port) s = .next s) ∧
    exec (.holdoffExpiry port) s = .next (
      if s.tbs.reachesOpt (link s port).holdoff then modLink port (fun l => { l with holdoff := none }) s else s) ∧
    (∀ tag, (∀ x ∈ (rangePort s port).table, x.tag = tag → ∀ u, x.expiry = some u → now s < u) →
      exec (.exchangeExpiry port tag) s = .next s) ∧
    (∀ x u, TableOk (rangePort s port) → x ∈ (rangePort s port).table → x.expiry = some u → u ≤ now s →
      x.slot < s.crs.clients.length → (path s x.slot port).timeouts < 65535 →
      ∃ t, exec (.exchangeExpiry port x.tag) s = .next t ∧ t.mem = s.mem ∧ t.xch = s.xch ∧
        (rangePort t port).table = (rangePort s port).table.filter (fun y => y.tag != x.tag) ∧
        path t x.slot port =
          { path s x.slot port with timeouts := (path s x.slot port).timeouts + 1, lastExpired := some x.tag } ∧
        x.slot ∈ t.crs.queue ∧ (∀ m, m ≠ x.slot → client t m = client s m) ∧
        ((link t port).rangeReq = true ↔ launchHolds t port))

/-! ## Client Roster (ch. 5) -/

/-- R76, R78, R79: ADMIT, whose checks decide in their order. The configuration group (ch. 11.5) is refused for a multicast or
zero address, or a kind, allowed ports or capture association outside its list; its numbers are brought into range, each change
marking ADJUSTED, but that a gate of 0 selects 200 ns and an age of 0 selects 8 s. One that passes makes a context with the checked configuration,
every allowed path SEEDING with debt 1, state ADMITTED and the version kept; its address leaves the newcomer list, the
slot is queued for publication, a CLIENT_STATE record is staged, and the other contexts stand. The Range requests are judged anew
(log 17).
That the row reads the configuration group at once is the model's choice (log 10), the host's stores an operand (log 9), and that
the path of a port not allowed starts anew too, counters included, is log 35. -/
def Obligations.AdmitMakesClient : Prop :=
  (∀ bs : List Byte,
    let addr : MacAddr := BitVec.ofNat 48 (fieldBe bs 0 6)
    let n := fieldLe bs
    let valid := addr.getLsbD 40 = false ∧ addr ≠ 0 ∧ n 6 1 ≤ 3 ∧ n 7 1 ∈ [1, 2, 3] ∧ n 9 1 ≤ 4
    let asym := fun off : Nat => if n off 4 < 2 ^ 31 then (n off 4 : Int) else n off 4 - 2 ^ 32
    let port := fun off : Nat =>
      ({ asymmetry := max (-1600000) (min 1600000 (asym off)), gate := if n (off + 4) 2 = 0 then 200 else n (off + 4) 2
         shift := min 7 (n (off + 6) 1) } : PathConfig)
    (¬ valid → parseConfig bs = none) ∧
    (valid → parseConfig bs = some (
      { addr := addr
        kind := if n 6 1 = 0 then .relay else if n 6 1 = 1 then .meter else if n 6 1 = 2 then .mergingUnit else .other
        allowed := if n 7 1 = 1 then .a else if n 7 1 = 2 then .b else .both
        period := min 7 (n 8 1), offsetTol := max 1 (min 1000000 (n 16 4)), pulseTol := max 1 (min 1000000 (n 20 4))
        capture := if h : n 9 1 < 4 then some ⟨n 9 1, h⟩ else none
        announceThreshold := n 12 2, announceAge := if n 10 1 = 0 then 8 else min 64 (n 10 1)
        path := ⟨port 24, port 32⟩ },
      decide (7 < n 8 1 ∨ 64 < n 10 1 ∨ n 16 4 = 0 ∨ 1000000 < n 16 4 ∨ n 20 4 = 0 ∨ 1000000 < n 20 4 ∨
        1600000 < (asym 24).natAbs ∨ 7 < n 30 1 ∨ 1600000 < (asym 32).natAbs ∨ 7 < n 38 1)))) ∧
  ∀ (s : State) (src : OrderSrc) (c : BitVec 16) (host : HostWrites),
    canTake s src.slot.val = true → s.crs.clients.length = 256 →
    let m := modMem (Memory.writeAll host) s
    let n := c.toNat
    let refused := fun (r : ResultCode) =>
      exec (.admitClient src c host) s = .next (answered src (.admitClient c) r [] m)
    (256 ≤ n → refused .badField) ∧
    (n < 256 → (client s n).state ≠ .vacant → refused .occupied) ∧
    (n < 256 → (client s n).state = .vacant → parseConfig (configGroup n m) = none → refused .badField) ∧
    (∀ cfg adj, n < 256 → (client s n).state = .vacant → parseConfig (configGroup n m) = some (cfg, adj) →
      ((∃ k, k ≠ n ∧ (client s k).state ≠ .vacant ∧ (client s k).config.addr = cfg.addr) → refused .duplicate) ∧
      ((∀ k, k ≠ n → (client s k).state ≠ .vacant → (client s k).config.addr ≠ cfg.addr) →
        ∃ t, exec (.admitClient src c host) s = .next t ∧ t.mem = m.mem ∧
          storeEntry t src.slot.val =
            storeEntry (answered src (.admitClient c) (if adj then .adjusted else .ok) [] s) src.slot.val ∧
          (let seeding := { Path.idle with state := .seeding, debt := 1 }
           let pa := if cfg.allowed = .b then Path.idle else seeding
           let pb := if cfg.allowed = .a then Path.idle else seeding
           client t n = { Client.reset with
             config := cfg, state := .admitted, version := (client s n).version, paths := ⟨pa, pb⟩ } ∧
           t.xch.staging =
             (stage (.clientState n cfg.addr .vacant .admitted .admitted .none .none pa.state pb.state) s).xch.staging) ∧
          (∀ k, k ≠ n → client t k = client s k) ∧ n ∈ t.crs.queue ∧
          t.crs.newcomers = s.crs.newcomers.filter (fun e => e.addr != cfg.addr) ∧
          (∀ port, (link t port).rangeReq = true ↔ launchHolds t port)))

/-- R76, R80, R81, R83, R84: RECONFIG. A refused one changes nothing. One that passes installs the configuration and queues the
slot. With another address both paths restart as at ADMIT, results and verdicts are cleared and no exchange is left. With the same
address each path follows the table of R81; verdicts and results of ranging stand; a removal keeps the six counters, and a VALID
path that new settings send to SEEDING queues the client for roll-call. Another capture association clears the pulse verdict and
P. The state is then evaluated by the table of R83, a change handing on its CLIENT_STATE record and joining the roll-call queues
as R84 states. The configuration group is read and checked as AdmitMakesClient has it.
That the row reads the configuration group at once is the model's choice (log 10), the host's stores an operand (log 9). That
another address clears the counters of the path of a port not allowed too is log 35, and what the same address leaves of a path
(the last announced D and its time at changed settings, the counters at a removal) log 36. -/
def Obligations.ReconfigActsFieldByField : Prop :=
  ∀ (s : State) (src : OrderSrc) (c : BitVec 16) (host : HostWrites),
    canTake s src.slot.val = true → s.crs.clients.length = 256 →
    let m := modMem (Memory.writeAll host) s
    let n := c.toNat
    let old := client s n
    let refused := fun (r : ResultCode) =>
      exec (.reconfig src c host) s = .next (answered src (.reconfig c) r [] m)
    (256 ≤ n → refused .badField) ∧
    (n < 256 → old.state = .vacant → refused .vacant) ∧
    (n < 256 → old.state ≠ .vacant → parseConfig (configGroup n m) = none → refused .badField) ∧
    (∀ cfg adj, n < 256 → old.state ≠ .vacant → parseConfig (configGroup n m) = some (cfg, adj) →
      ((∃ k, k ≠ n ∧ (client s k).state ≠ .vacant ∧ (client s k).config.addr = cfg.addr) → refused .duplicate) ∧
      ((∀ k, k ≠ n → (client s k).state ≠ .vacant → (client s k).config.addr ≠ cfg.addr) →
        ∃ t, exec (.reconfig src c host) s = .next t ∧ t.mem = m.mem ∧
          storeEntry t src.slot.val =
            storeEntry (answered src (.reconfig c) (if adj then .adjusted else .ok) [] s) src.slot.val ∧
          (client t n).config = cfg ∧ (client t n).version = old.version ∧ (client t n).reverify = old.reverify ∧
          n ∈ t.crs.queue ∧ (∀ k, k ≠ n → client t k = client s k) ∧
          (client t n).pulseV = (if cfg.addr = old.config.addr ∧ cfg.capture = old.config.capture then old.pulseV
            else ⟨.none, 0, 0⟩) ∧
          (client t n).pulseError = (if cfg.addr = old.config.addr ∧ cfg.capture = old.config.capture then old.pulseError
            else none) ∧
          stateFollows n .reconfig s t ∧
          (cfg.addr ≠ old.config.addr →
            (∀ port, path t n port =
                (if allows cfg.allowed port then { Path.idle with state := .seeding, debt := 1 } else Path.idle) ∧
              (∀ x ∈ (rangePort t port).table, x.slot ≠ n) ∧ (∀ e ∈ (beaconPort t port).roll, e.slot ≠ n)) ∧
            (client t n).offsetV = ⟨.none, 0, 0⟩ ∧ (client t n).offset = none ∧ (client t n).pulseError = none ∧
            (client t n).selfStatus = none ∧ (client t n).lastHail = none ∧
            t.crs.newcomers = s.crs.newcomers.filter (fun e => e.addr != cfg.addr)) ∧
          (cfg.addr = old.config.addr →
            (client t n).offsetV = old.offsetV ∧ (client t n).offset = old.offset ∧
            t.crs.newcomers = s.crs.newcomers ∧
            ∀ port,
              let q := path s n port
              let same := atPort cfg.path port = atPort old.config.path port
              let removed : Path → Prop := fun r => r.state = .idle ∧ r.debt = 0 ∧ r.delay = none ∧ r.seeds = 0 ∧
                r.outlierRun = 0 ∧ r.urgent = false ∧ r.accepted = q.accepted ∧ r.outliers = q.outliers ∧
                r.rejects = q.rejects ∧ r.timeouts = q.timeouts ∧ r.late = q.late ∧ r.clamps = q.clamps
              (allows cfg.allowed port = true → ¬ same → q.state = .valid →
                ∃ e ∈ (beaconPort t port).roll, e.slot = n ∧ e.carried = false) ∧
              if allows cfg.allowed port then
                path t n port = (match q.state with
                  | .idle => { Path.idle with state := .seeding, debt := 1 }
                  | .lost => if same then q else { q with delay := none, seeds := 0 }
                  | .seeding | .valid =>
                    if same then q else { q with state := .seeding, delay := none, seeds := 0, outlierRun := 0 })
              else if q.state = .idle then path t n port = q
              else removed (path t n port) ∧ (∀ x ∈ (rangePort t port).table, x.slot ≠ n) ∧
                (∀ e ∈ (beaconPort t port).roll, e.slot ≠ n))))

/-- R82: RETIRE of a slot that holds a client leaves it VACANT with the configuration copy and the version kept and all
else as after reset; no exchange or roll-call entry of it is left, it is queued, and the record has cause RETIRE. -/
def Obligations.RetireClearsContext : Prop :=
  ∀ (s : State) (src : OrderSrc) (c : BitVec 16), canTake s src.slot.val = true → s.crs.clients.length = 256 →
    let n := c.toNat
    (256 ≤ n → exec (.retire src c) s = .next (answered src (.retire c) .badField [] s)) ∧
    (n < 256 → (client s n).state = .vacant → exec (.retire src c) s = .next (answered src (.retire c) .vacant [] s)) ∧
    (n < 256 → (client s n).state ≠ .vacant →
      ∃ t, exec (.retire src c) s = .next t ∧ t.mem = s.mem ∧
        storeEntry t src.slot.val = storeEntry (answered src (.retire c) .ok [] s) src.slot.val ∧
        client t n = { Client.reset with config := (client s n).config, version := (client s n).version } ∧
        (∀ k, k ≠ n → client t k = client s k) ∧ n ∈ t.crs.queue ∧ t.crs.newcomers = s.crs.newcomers ∧
        (∀ port, (∀ x ∈ (rangePort t port).table, x.slot ≠ n) ∧ (∀ e ∈ (beaconPort t port).roll, e.slot ≠ n)) ∧
        t.xch.staging = (stage (.clientState n (client s n).config.addr (client s n).state .vacant .retire .none .none
          .idle .idle) s).xch.staging)

/-! ## Beacon Unit (ch. 7) -/

/-- R134, R136, R138, R139: notices. A failed check changes nothing. A posted block is held with its payload, the ports
in UP owing it where its mode is ONCE, and replaces the block at its index; a ONCE block posted with no port in UP is
freed at once with its record. A withdrawn block is free. The other blocks stand. -/
def Obligations.NoticesPostedAndWithdrawn : Prop :=
  ∀ (s : State) (src : OrderSrc), canTake s src.slot.val = true → s.bcu.notices.length = 8 →
    (∀ p : NoticePostP,
      let i := p.index.toNat
      let bad := 7 < i ∨ 3 < p.mode.toNat ∨ p.length.toNat < 1 ∨ 16 < p.length.toNat ∨
        p.mode = 2 ∧ (p.param.toNat % 256 < 2 ∨ 16 < p.param.toNat % 256)
      let past := p.mode = 3 ∧ p.param.toNat ≤ s.tbs.time.sec
      (bad → exec (.noticePost src p) s = .next (answered src (.noticePost p) .badField [] s)) ∧
      (¬ bad → past → exec (.noticePost src p) s = .next (answered src (.noticePost p) .past [] s)) ∧
      (¬ bad → ¬ past →
        ∃ t mode, exec (.noticePost src p) s = .next t ∧ t.mem = s.mem ∧ noticeModeOf p = some mode ∧
          storeEntry t src.slot.val = storeEntry (answered src (.noticePost p) .ok [] s) src.slot.val ∧
          (∀ j, j ≠ i → noticeAt t j = noticeAt s j) ∧
          (let up := fun port => (link s port).state == .up && mode == .once
           let owed : Pair Bool := ⟨up .a, up .b⟩
           if mode = .once ∧ (link s .a).state ≠ .up ∧ (link s .b).state ≠ .up then
             noticeAt t i = none ∧
             t.xch.staging = (stage (.noticeDone i .once ⟨false, false⟩ .noneUp) s).xch.staging
           else
             noticeAt t i = some { mode := mode, payload := p.payload.take p.length.toNat, owed := owed,
                                   owedAtPost := owed, wait := ⟨0, 0⟩, carried := ⟨false, false⟩ } ∧
             t.xch.staging = s.xch.staging))) ∧
    (∀ index : Byte,
      (7 < index.toNat → exec (.noticeWithdraw src index) s = .next (answered src (.noticeWithdraw index) .badField [] s)) ∧
      (index.toNat ≤ 7 → noticeAt s index.toNat = none →
        exec (.noticeWithdraw src index) s = .next (answered src (.noticeWithdraw index) .empty [] s)) ∧
      (index.toNat ≤ 7 → noticeAt s index.toNat ≠ none →
        ∃ t, exec (.noticeWithdraw src index) s = .next t ∧ noticeAt t index.toNat = none ∧
          (∀ j, j ≠ index.toNat → noticeAt t j = noticeAt s j) ∧
          t = { answered src (.noticeWithdraw index) .ok [] s with bcu := t.bcu } ∧
          (beaconPort t .a).lastNotice = (beaconPort s .a).lastNotice ∧
          (beaconPort t .b).lastNotice = (beaconPort s .b).lastNotice))

/-! ## A second boundary in the other blocks -/

/-- R83, R84, R98, R119, R120: the debts at a second boundary. A SEEDING or VALID path is due where the epoch second plus its slot
number is a multiple of 2^p, p its client's period code: its debt grows by 1 and its client is queued for publication; the
growth to 9 makes it LOST with the Hail-urgent mark clear, hands on a PATH_LOST record and queues the client for roll-call.
Every other path keeps state, debt and mark. Without a step due the client's state is then the one the table of R83 gives, and a
change hands on its CLIENT_STATE record with cause PATH and joins the roll-call queues as R84 states (with a step due:
StepReachesBlocks). The Range request is judged anew.
That both paths of a client lead to one evaluation, made also where neither moved, is log 19, when a Range request is judged anew log 17, and the device time that
the window is then compared with after a step log 8. -/
def Obligations.BoundaryGrowsDebt : Prop :=
  ∀ (s : State) (blocks : List Block), TimeOk s → s.tbs.atBoundary = true →
    ∃ t, exec (.secondBoundary blocks) s = .next t ∧
      (s.tbs.stepDue = false → ∀ n, (client s n).state ≠ .vacant → stateFollows n .path s t) ∧
      (∀ port, (link t port).rangeReq = true ↔ launchHolds t port) ∧
      ∀ (n : Nat) (port : Port),
      let q := path s n port
      let after := path t n port
      let due := (client s n).state ≠ .vacant ∧ (q.state = .seeding ∨ q.state = .valid) ∧
        ((s.tbs.time.sec + 1) % 2 ^ 48 + n) % 2 ^ (client s n).config.period = 0
      (¬ due → after.state = q.state ∧ after.debt = q.debt ∧ after.urgent = q.urgent) ∧
      (due → q.debt < 8 →
        after.state = q.state ∧ after.debt = q.debt + 1 ∧ after.urgent = q.urgent ∧ n ∈ t.crs.queue) ∧
      (due → 8 ≤ q.debt →
        after.state = .lost ∧ after.debt = 9 ∧ after.urgent = false ∧ n ∈ t.crs.queue ∧
        (∃ e ∈ (beaconPort t port).roll, e.slot = n ∧ e.carried = false) ∧
        handedOn s t (.pathLost n port (client s n).config.addr q.delay q.timeouts q.rejects q.late))

/-- R91, R131, R137: what ages at a second boundary, held instants being moved by a step applied there. A newcomer last heard
60 s or more before the boundary's device time leaves the list and the others stay; a client whose announcement on a VALID
path is older than its announce age, or was never made, joins that port's roll-call queue; an UNTIL notice whose epoch device
seconds has reached is freed with its record, and the other notice blocks stand.
With which device seconds an UNTIL epoch is compared after a step is the model's choice (log 8). -/
def Obligations.BoundaryAgesNewcomersAnnouncementsNotices : Prop :=
  ∀ (s : State) (blocks : List Block), s.tbs.atBoundary = true →
    let r := s.tbs.report
    let moved := fun u : Nat => match r.step with | none => u | some d => moveBy d u
    ∃ t, exec (.secondBoundary blocks) s = .next t ∧
      t.crs.newcomers = (s.crs.newcomers.map (fun e => { e with heard := moved e.heard })).filter
        (fun e => decide (r.instant < e.heard + 960000000000)) ∧ t.crs.overflow = s.crs.overflow ∧
      (∀ n port, (client s n).state ≠ .vacant → (path t n port).state = .valid →
        (∀ u, (path s n port).announcedAt = some u →
          moved u + (client s n).config.announceAge * 16000000000 < r.instant) →
        n ∈ (beaconPort t port).roll.map (·.slot)) ∧
      (∀ i < 8, ∀ b epoch, noticeAt s i = some b → b.mode = .until_ epoch → epoch ≤ t.tbs.time.sec →
        noticeAt t i = none ∧ ((∃ r ∈ t.xch.staging, r.body = .noticeDone i (.until_ epoch) b.carried .epoch) ∨
          64 ≤ t.xch.staging.length)) ∧
      (∀ i, (∀ b epoch, noticeAt s i = some b → b.mode = .until_ epoch → t.tbs.time.sec < epoch) →
        noticeAt t i = noticeAt s i)

/-- R151: at the first second boundary at which device seconds, after any step, has reached its epoch, a held PULSE-ARM
completes OK with those seconds, the channels started and the SINGLE channels missed. A channel waiting for it, unless a schedule
that takes over there has mode OFF, starts with the boundary's device time as its run start: it runs, or, where its SINGLE start
lies before the run start or is not later than its last reached edge, is missed and READY. Before it the order stays held and
its channels wait. The premises keep other orders of the same slot out, which no run brings about.
R124, R126, R127: the schedule of a port in UP. A pending rate comes into force; it or an applied step sets the next point
anew, to the first point of the rate at or after the boundary's device time, past it where the boundary's own point was taken
already, which is the model's choice (log 31); otherwise it stands, but for the return of device time to 0. A port not in UP
keeps its schedule.
The device time of the boundary after a step is log 8, which seconds are compared and reported after a step logs 8 and 24, that
missed channels are among the started ones log 24, the schedule at the return to 0 log 30. -/
def Obligations.BoundaryStartsArmsAndReschedulesBeacons : Prop :=
  ∀ (s : State) (blocks : List Block), s.pou.channels.length = 8 → s.tbs.atBoundary = true →
    let r := s.tbs.report
    ∃ t, exec (.secondBoundary blocks) s = .next t ∧
      (∀ (k : Nat) (en : StoreEntry) (p : PulseArmP), k < 32 → storeEntry s k = some en → en.order = .pulseArm p →
        en.status = .held → (∀ ch ∈ s.pou.channels, ∀ ps, ch.pending = some ps → ps.slot ≠ k) →
        (∀ q, s.tbs.posted = some q → q.origin ≠ .host k) →
        let after := fun c : Nat => ((channel s c).pending.map (·.sched)).getD (channel s c).active
        let started := fun c : Nat => decide ((channel s c).arm = some k) && (channel s c).pending.all (fun q => q.sched.mode != .off)
        let missed := fun c : Nat => started c && (after c).mode == .single &&
          (decide ((after c).start * 16 < r.instant) || (channel s c).lastRise.any (fun l => decide ((after c).start ≤ l)))
        let bits := fun q : Nat → Bool => ((List.range 8).map (fun c => if q c then 2 ^ c else 0)).sum
        (p.epoch.toNat ≤ t.tbs.time.sec →
          storeEntry t k = some { en with
            status := .completed .ok (le 8 t.tbs.time.sec ++ le 1 (bits started) ++ le 1 (bits missed)) false } ∧
          ∀ c < 8, started c = true →
            (channel t c).arm = none ∧ (channel t c).runStart = some r.instant ∧
            (missed c = true → (channel t c).state = .ready) ∧
            (missed c = false → (r.step = none ∨ (after c).mode ≠ .single) → (channel t c).state = .running)) ∧
        (t.tbs.time.sec < p.epoch.toNat →
          storeEntry t k = some en ∧
          ∀ c < 8, started c = true → (channel s c).state = .waiting →
            (channel t c).state = .waiting ∧ (channel t c).arm = some k)) ∧
      ∀ port,
        let b := beaconPort s port
        let rate := b.pendingRate.getD b.rate
        let sp := 16000000000 / rate
        let next := b.next.map (fun u => if r.epoch = 0 then u - 2 ^ 48 * 16000000000 else u)
        ((link s port).state = .up →
          (beaconPort t port).rate = rate ∧ (beaconPort t port).pendingRate = none ∧
          (b.pendingRate = none → r.step = none → (beaconPort t port).next = next) ∧
          ((b.pendingRate ≠ none ∨ r.step ≠ none) → rate ∈ [1, 2, 4, 8, 16] →
            ∃ u, (beaconPort t port).next = some u ∧ u % sp = 0 ∧ r.instant ≤ u ∧ u ≤ r.instant + sp ∧
              (if r.epoch * 16000000000 < next.getD 0 then r.instant < u else u < r.instant + sp))) ∧
        ((link s port).state ≠ .up →
          (beaconPort t port).next = b.next ∧ (beaconPort t port).rate = b.rate ∧
          (beaconPort t port).pendingRate = b.pendingRate)

/-! ## Pulse Output Unit (ch. 8) -/

/-- R142, R144, R145, R146: pulse edges. A rising edge of the schedule of a RUNNING channel, reached now, starts a pulse when
it is not before the run start, is later than the last reached one, and the gate lets it pass; either way it becomes
the last reached one unless it is earlier. A pulse ends at its falling edge, where a SINGLE channel returns to READY. No
other channel moves. SECOND and MARK rise at the phase in every second, TRAIN where the count of nanoseconds is congruent to the
phase modulo the period, SINGLE at its start, OFF never. The edge is placed at the position of its tick nearest to it, the later
of two as near, in a step's tick among those of its own side of the boundary (R8).
R141, R154: an output stands at its idle level but for a RUNNING channel's pulse that the gate does not silence.
Reached is an instant of the tick in progress, or of the last completed one from `reachedFrom` on, short of a boundary at which a
step is applied or, for a rising edge, a schedule comes in: logs 3, 4 and 6. `placed` is the model's field, and its positions 0 to
8 (log 25), the return to READY of a SINGLE channel log 26. -/
def Obligations.PulseEdgesDrivenOnce : Prop :=
  ∀ (s : State) (c : Fin 8),
    let ch := channel s c.val
    let sched := ch.active
    let tb := s.tbs
    let boundary := (tb.time.sec + 1) * 16000000000
    let rises := fun r : Nat => match sched.mode with
      | .off => False
      | .second | .mark => r % 1000000000 = sched.phase
      | .train => r % sched.period = sched.phase % sched.period
      | .single => r = sched.start
    let reached := fun d : Nat =>
      if tb.atBoundary then (if tb.stepDue then d < boundary else d ≤ boundary)
      else d * 2 ^ 28 ≤ tb.time.units + tb.tickInc
    let risen := fun r : Nat => tb.reachedFrom ≤ r * 2 ^ 32 ∧ reached (r * 16) ∧
      ¬ (tb.atBoundary = true ∧ ch.pending ≠ none ∧ r * 16 = boundary)
    let placedAs := fun (e k : Nat) =>
      let ahead := tb.time.units < e * 2 ^ 32
      let inc : Int := if ahead then tb.tickInc else tb.lastInc
      let off := fun u : Int => if ahead then u - tb.time.units else inc - (tb.time.units - u)
      let side := fun j : Int =>
        (ahead → tb.stepDue = true → j * inc < 8 * off (boundary * 2 ^ 28)) ∧
        (¬ ahead → tb.stepTick ≠ none → 8 * off tb.reachedFrom ≤ j * inc)
      let far := fun j : Int => (8 * off (e * 2 ^ 32) - j * inc).natAbs
      k ≤ 8 ∧ (0 < inc → 0 ≤ off (e * 2 ^ 32) → tb.reachedFrom ≤ e * 2 ^ 32 →
        side k ∧ ∀ j : Nat, j ≤ 8 → side j → far k < far j ∨ far k = far j ∧ j ≤ k)
    let moves := fun (t : State) => t = { s with pou := { s.pou with channels := t.pou.channels } } ∧
      ∀ d, d ≠ c.val → channel t d = channel s d
    outputLevel s c.val = (if ch.state = .running ∧ ch.fall ≠ none ∧ (ch.active.gated = true → s.pou.gateOpen = true) then
      !ch.active.idleHigh else ch.active.idleHigh) ∧
    (∀ r, ¬ (ch.state = .running ∧ rises r ∧ risen r) → exec (.pulseRisingEdge c r) s = .next s) ∧
    (∀ r, ch.state = .running → rises r → risen r →
      ∃ t k, exec (.pulseRisingEdge c r) s = .next t ∧ moves t ∧ placedAs r k ∧
        (let driven := (∀ u, ch.runStart = some u → u ≤ r * 16) ∧ (∀ l, ch.lastRise = some l → l < r) ∧ ch.fall = none ∧
           ¬ (ch.active.gated = true ∧ s.pou.gateOpen = false)
         let width := if ch.active.mode = .mark ∧ ch.active.markClass < s.pou.cls then ch.active.longWidth else ch.active.width
         (driven → channel t c.val = { ch with lastRise := some r, fall := some (r + width), placed := some k }) ∧
         (¬ driven → channel t c.val = { ch with lastRise := some (max r (ch.lastRise.getD 0)) }))) ∧
    (∀ f, ch.fall = some f → ¬ reached (f * 16) → exec (.pulseFallingEdge c) s = .next s) ∧
    (∀ f, ch.fall = some f → reached (f * 16) →
      ∃ t k, exec (.pulseFallingEdge c) s = .next t ∧ moves t ∧ placedAs f k ∧
        (ch.active.mode ≠ .single → channel t c.val = { ch with fall := none, placed := some k }) ∧
        (ch.state = .running → ch.active.mode = .single → f = ch.active.start + ch.active.width →
          channel t c.val = { ch with state := .ready, fall := none, placed := some k }))

/-- R147, R148, R150: PULSE-PROGRAM and PULSE-ARM, whose checks decide in their order and leave the channels as they
were. A PULSE-PROGRAM whose channel, mode or polarity is outside its list, or a field that its mode uses outside its range, is
BAD_FIELD; one that passes is pending and held, and an older pending one completes REPLACED; the schedule becomes active at the
next boundary. There its order completes OK with the epoch second and the channel state, which is OFF for mode OFF, READY from OFF,
and else stands, but that a RUNNING channel whose SINGLE start can no longer be driven is READY; a pulse in progress keeps its
falling edge unless the channel goes to OFF or READY, the polarity changes, or it is gated under a CLOSED gate. The premises
leave aside what else the boundary does (a step, the gate's closing) and what no run brings about. A PULSE-ARM that passes is
held and its channels wait. A pulse whose gated setting changes under an OPEN gate is log 26. -/
def Obligations.PulseOrdersHeldUntilBoundary : Prop :=
  ∀ (s : State) (src : OrderSrc), s.pou.channels.length = 8 →
    (∀ p : PulseProgramP, canTake s src.slot.val = true →
      let c := p.channel.toNat
      let phase := p.at8.toNat
      let width := p.at12.toNat
      let long := p.at16.toNat % 4294967296
      let bad := 4 < p.mode.toNat ∨ 7 < c ∨ 1 < p.polarity.toNat ∨
        p.mode ≠ 0 ∧ (999999999 < phase ∨ width < 1) ∨
        (p.mode = 1 ∨ p.mode = 3 ∨ p.mode = 4) ∧ 999999999 < width ∨
        p.mode = 2 ∧ (long < 1000 ∨ 1000000000 < long ∨ 1000000000 % long ≠ 0 ∨ long ≤ width) ∨
        p.mode = 4 ∧ (long < 1 ∨ 999999999 < long ∨ p.markClass.toNat < 1 ∨ 6 < p.markClass.toNat)
      let past := p.mode = 3 ∧ (p.at16.toNat * 1000000000 + p.at8.toNat) * 16 ≤ now s
      (bad → exec (.pulseProgram src p) s = .next (answered src (.pulseProgram p) .badField [] s)) ∧
      (¬ bad → past → exec (.pulseProgram src p) s = .next (answered src (.pulseProgram p) .past [] s)) ∧
      (∀ mode, ¬ bad → ¬ past → pulseModeOf p.mode = some mode →
        ∃ t, exec (.pulseProgram src p) s = .next t ∧ t.mem = s.mem ∧ t.xch.staging = s.xch.staging ∧
          channel t c = { channel s c with pending := some { sched := scheduleOf p mode, slot := src.slot.val } } ∧
          (∀ d, d ≠ c → channel t d = channel s d) ∧
          ((channel s c).pending = none → t.xch = (holding src (.pulseProgram p) s).xch) ∧
          (∀ ps en, (channel s c).pending = some ps → ps.slot ≠ src.slot.val → storeEntry s ps.slot = some en →
            storeEntry t ps.slot = some { en with status := .completed .replaced [] false } ∧
            storeEntry t src.slot.val = storeEntry (holding src (.pulseProgram p) s) src.slot.val))) ∧
    (∀ (blocks : List Block) (c : Nat) (ps : PendingSchedule), s.tbs.atBoundary = true → (channel s c).pending = some ps →
      let ch := channel s c
      let state : ChannelState := if ps.sched.mode = .off then .off else if ch.state = .off then .ready else ch.state
      let missed := state = .running ∧ ps.sched.mode = .single ∧
        ((∃ u, ch.runStart = some u ∧ ps.sched.start * 16 < u) ∨ ∃ l, ch.lastRise = some l ∧ ps.sched.start ≤ l)
      let moved : ChannelState := if missed then .ready else state
      ∃ t, exec (.secondBoundary blocks) s = .next t ∧ (channel t c).active = ps.sched ∧ (channel t c).pending = none ∧
        (channel t c).lastRise = ch.lastRise ∧
        (∀ en, storeEntry s ps.slot = some en → (∃ o, en.order = .pulseProgram o) →
          (∀ d q, d ≠ c → (channel s d).pending = some q → q.slot ≠ ps.slot) →
          (∀ q, s.tbs.posted = some q → q.origin ≠ .host ps.slot) →
          storeEntry t ps.slot = some { en with
            status := .completed .ok (le 8 s.tbs.report.epoch ++
              le 1 (match moved with | .off => 0 | .ready => 1 | .waiting => 2 | .running => 3)) false }) ∧
        (ps.sched.mode = .off → (channel t c).state = .off ∧ (channel t c).arm = none ∧ (channel t c).fall = none) ∧
        (ch.arm = none → (s.tbs.stepDue = false ∨ ps.sched.mode ≠ .single) →
          (channel t c).state = moved ∧ (channel t c).runStart = ch.runStart) ∧
        (ch.arm = none → s.tbs.stepDue = false → t.pou.gateOpen = s.pou.gateOpen →
          (channel t c).fall = (if ps.sched.mode = .off ∨ missed ∨ ps.sched.idleHigh ≠ ch.active.idleHigh ∨
            ps.sched.gated = true ∧ s.pou.gateOpen = false then none else ch.fall))) ∧
    (∀ p : PulseArmP, canTake s src.slot.val = true →
      let cs := (p.channels.take p.count.toNat).map BitVec.toNat
      let bad := p.count.toNat < 1 ∨ 8 < p.count.toNat ∨ (∃ c ∈ cs, 7 < c) ∨ ¬ cs.Nodup
      let refused := fun (r : ResultCode) => exec (.pulseArm src p) s = .next (answered src (.pulseArm p) r [] s)
      (bad → refused .badField) ∧
      (¬ bad → (∃ c ∈ cs, (channel s c).state = .off) → refused .empty) ∧
      (¬ bad → (∀ c ∈ cs, (channel s c).state ≠ .off) → (∃ c ∈ cs, (channel s c).state ≠ .ready) → refused .busy) ∧
      (¬ bad → (∀ c ∈ cs, (channel s c).state = .ready) → p.epoch.toNat ≤ s.tbs.time.sec → refused .past) ∧
      (¬ bad → (∀ c ∈ cs, (channel s c).state = .ready) → s.tbs.time.sec < p.epoch.toNat →
        ∃ t, exec (.pulseArm src p) s = .next t ∧ t = { holding src (.pulseArm p) s with
            pou := { s.pou with channels := t.pou.channels } } ∧
          ∀ c, channel t c = (if c ∈ cs then { channel s c with state := .waiting, arm := some src.slot.val }
            else channel s c)))

/-- R155 to R157, R185: the output gate. GATE-SETUP holds its floor in 1..6 and closes an open gate whose class is above it;
GATE-OPEN opens a closed gate unless the class or the inhibit input forbids it; assertion of the inhibit input closes an
open gate and its release leaves the gate. A closing ends the pulses of gated channels, with a record that names them. Neither
order is cancellable.
R185: a record handed over with fewer than 64 held is appended with the device time of its handing and LOSS_BEFORE where the loss
mark stands, which it clears; with 64 held it is lost: the lost count grows by 1, wrapping, and the loss mark is set. -/
def Obligations.GateOpensAndCloses : Prop :=
  (∀ (body : JournalBody) (s : State),
    let x := s.xch
    (x.staging.length < 64 → stage body s = { s with xch := { x with
      staging := x.staging ++ [{ body := body, lossBefore := x.lossMark, sec := s.tbs.time.sec, ns := s.tbs.time.ns }]
      lossMark := false } }) ∧
    (64 ≤ x.staging.length → stage body s = { s with xch := { x with
      lost := (x.lost + 1) % 2 ^ 32, lossMark := true } })) ∧
  (∀ s : State, s.pou.gateOpen = true → ∃ t cut, exec .inhibitAssert s = .next t ∧
    (∀ c, c ∈ cut ↔ c < s.pou.channels.length ∧ (channel s c).active.gated = true ∧ (channel s c).fall ≠ none) ∧
    (s.xch.staging.length < 64 → t.xch = { s.xch with
      staging := s.xch.staging ++ [{ body := .gateClosed .inhibit s.pou.cls s.pou.floor true cut, lossBefore := s.xch.lossMark
                                     sec := s.tbs.time.sec, ns := s.tbs.time.ns }]
      lossMark := false }) ∧
    (64 ≤ s.xch.staging.length → t.xch = { s.xch with lost := (s.xch.lost + 1) % 2 ^ 32, lossMark := true })) ∧
  ∀ (s : State) (src : OrderSrc),
    let shut := fun (cause : GateCause) (u : PulseUnit) (t : State) =>
      stage (.gateClosed cause u.cls u.floor u.inhibit (cutChannels t)) { t with pou := { u with
        gateOpen := false, channels := u.channels.map (fun ch => if ch.active.gated then { ch with fall := none } else ch) } }
    (∀ floor : Byte, canTake s src.slot.val = true →
      let f := max 1 (min 6 floor.toNat)
      exec (.gateSetup src floor) s = .next (answered src (.gateSetup floor)
        (if f = floor.toNat then .ok else .adjusted) []
        (if f < s.pou.cls ∧ s.pou.gateOpen = true then shut .floor { s.pou with floor := f } s
          else { s with pou := { s.pou with floor := f } }))) ∧
    (canTake s src.slot.val = true → exec (.gateOpen src) s = .next (
      if s.pou.floor < s.pou.cls then answered src .gateOpen .qualityLow [] s
      else if s.pou.inhibit then answered src .gateOpen .inhibited [] s
      else if s.pou.gateOpen then answered src .gateOpen .ok [] s
      else answered src .gateOpen .ok [] (stage (.gateOpened s.pou.cls s.pou.floor)
        { s with pou := { s.pou with gateOpen := true } }))) ∧
    (∀ (target : Byte) (cookie : BitVec 16) (e : StoreEntry), canTake s src.slot.val = true → target.toNat ≤ 31 →
      target.toNat ≠ src.slot.val → storeEntry s target.toNat = some e → e.cookie = cookie → e.status = .held →
      (e.order = .gateOpen ∨ ∃ floor, e.order = .gateSetup floor) →
      exec (.cancel src target cookie) s = .next (answered src (.cancel target cookie) .badField [] s)) ∧
    exec .inhibitAssert s = .next (
      if s.pou.gateOpen then shut .inhibit { s.pou with inhibit := true } s
      else { s with pou := { s.pou with inhibit := true } }) ∧
    exec .inhibitDeassert s = .next { s with pou := { s.pou with inhibit := false } }

/-! ## Event Capture Unit (ch. 9) -/

/-- R83, R84, R88, R161 to R166: a change of a capture line makes a candidate edge, or ends one as a glitch. A candidate whose
confirmation time is reached settles the line; one of a selected direction is a capture. It is counted, and judged for the client
that names the input by its distance from the whole second less the wiring delay, or left unjudged. Unless the input is quiet its
CAPTURE record is handed on, before any record of the client, with the interval since the latest capture, absent without one and
after a step, and the outcome with P or the reason left unjudged. After a judged capture the client has P, the pulse verdict of
R86 and the state that the table of R83 gives, and a change hands on its CLIENT_STATE record with cause VERDICT and joins the
roll-call queues as R84 states; its other fields stand.
The interval of a stamp earlier than the latest one's is log 30. When a confirmation time counts as reached is log 4, where in its
tick an edge lies an operand (log 5). -/
def Obligations.CapturesJudged : Prop :=
  ∀ (s : State) (i : Fin 4),
    let ci := captureIn s i.val
    (∀ level at_, exec (.captureLineChange i level at_) s = .next (modCapture i.val (fun c => { c with
      line := level
      candidate := if c.edge = .off then c.candidate
        else if level = c.settled then none
        else if c.candidate.isSome then c.candidate
        else some { stamp := s.tbs.stamp at_, rising := level, confirmAt := s.tbs.stamp at_ + c.minWidth * 16 } }) s)) ∧
    ((∀ cd, ci.candidate = some cd → s.tbs.reaches cd.confirmAt = false) → exec (.captureConfirmation i) s = .next s) ∧
    (∀ cd, ci.candidate = some cd → s.tbs.reaches cd.confirmAt = true →
      let settled : CaptureIn := { ci with settled := cd.rising, candidate := none }
      let chosen := ci.edge = .both ∨ ci.edge = .rising ∧ cd.rising = true ∨ ci.edge = .falling ∧ cd.rising = false
      let counted : CaptureIn := { settled with
        latest := some { stamp := cd.stamp, rising := cd.rising }, count := (ci.count + 1) % 65536, stepMark := false
        unjudged := none }
      let err : Int := ((cd.stamp % 16000000000 : Nat) : Int) -
        (if cd.stamp % 16000000000 < 8000000000 then 0 else 16000000000) - ci.wiringDelay
      let interval : Option Nat := match ci.latest with
        | none => none
        | some l => if ci.stepMark then none else some (min (cd.stamp - l.stamp) 281474976710655)
      let handed := fun (outcome : CaptureOutcome) (p : Option Int) => if ci.quiet then s
        else stage (.capture i cd.rising cd.stamp interval ((ci.count + 1) % 65536) outcome p) s
      let why : CaptureOutcome := match ci.unjudged with
        | some .setup => .setup
        | some .step => .step
        | none => match ci.slot with
          | none => .noClient
          | some n => if (client s n).state = .vacant then .vacant else .mismatch
      (¬ chosen → exec (.captureConfirmation i) s = .next (modCapture i.val (fun _ => settled) s)) ∧
      (chosen → (ci.unjudged ≠ none ∨ ∀ n, ci.slot = some n → (client s n).state = .vacant ∨
          (client s n).config.capture ≠ some i) →
        ∃ t, exec (.captureConfirmation i) s = .next t ∧ t.crs = s.crs ∧ t.mem = s.mem ∧ t.xch = (handed why none).xch ∧
          captureIn t i.val = { counted with unjudgedCount := min (ci.unjudgedCount + 1) 65535 }) ∧
      (∀ n, chosen → ci.unjudged = none → ci.slot = some n → (client s n).state ≠ .vacant →
        (client s n).config.capture = some i →
        ∃ t, exec (.captureConfirmation i) s = .next t ∧ t.mem = s.mem ∧ (client t n).pulseError = some err ∧
          n ∈ t.crs.queue ∧ (∀ m, m ≠ n → client t m = client s m) ∧ stateFollows n .verdict s t ∧
          client t n = { client s n with
            pulseError := some err, pulseV := (client t n).pulseV, state := (client t n).state } ∧
          ((client t n).state = (client s n).state → t.bcu = s.bcu ∧ t.xch =
            (handed (if err.natAbs ≤ (client s n).config.pulseTol * 16 then .within else .beyond) (some err)).xch) ∧
          (if err.natAbs ≤ (client s n).config.pulseTol * 16 then
            (handed .within (some err)).xch.staging <+: t.xch.staging ∧
            captureIn t i.val = { counted with withinCount := min (ci.withinCount + 1) 65535 } ∧
            (client t n).pulseV.within = min ((client s n).pulseV.within + 1) 2 ∧ (client t n).pulseV.beyond = 0 ∧
            (client t n).pulseV.verdict =
              (if 1 ≤ (client s n).pulseV.within then .pass else (client s n).pulseV.verdict)
          else
            (handed .beyond (some err)).xch.staging <+: t.xch.staging ∧
            captureIn t i.val = { counted with beyondCount := min (ci.beyondCount + 1) 65535 } ∧
            (client t n).pulseV.beyond = min ((client s n).pulseV.beyond + 1) 3 ∧ (client t n).pulseV.within = 0 ∧
            (client t n).pulseV.verdict =
              (if 2 ≤ (client s n).pulseV.beyond then .fail else (client s n).pulseV.verdict))))

/-- R159, R160: CAPTURE-SETUP. A field outside its list, and both edges with a client, are BAD_FIELD and change nothing.
Otherwise the settings are written within their ranges and the unjudged flag is set with reason SETUP. An input switched on from
OFF settles at its line with no candidate and no latest capture; one switched off drops its candidate and keeps its latest capture;
one that stays on keeps both, the confirmation time counted anew from the candidate's stamp, and a candidate whose time is then
reached settles the line at once and, of a selected direction, is captured unjudged, which clears the flag; one that stays off
changes nothing else. The result data (ch. 11.4) report the latest capture and the counts after that.
The interval of a stamp earlier than the latest one's is log 30. -/
def Obligations.CaptureSetupWritesSettings : Prop :=
  ∀ (s : State) (src : OrderSrc) (p : CaptureSetupP), canTake s src.slot.val = true → s.evc.length = 4 →
    let slot : Option Nat := if p.slot = 65535 then none else some p.slot.toNat
    let bad := 3 < p.input.toNat ∨ 3 < p.edge.toNat ∨ (p.slot ≠ 65535 ∧ 256 ≤ p.slot.toNat) ∨ (p.edge = 3 ∧ p.slot ≠ 65535)
    let width := max 100 (min 100000 p.minWidth.toNat) / 100 * 100
    (bad → exec (.captureSetup src p) s = .next (answered src (.captureSetup p) .badField [] s)) ∧
    (∀ edge, ¬ bad → edgeOf p.edge = some edge →
      ∃ t, exec (.captureSetup src p) s = .next t ∧ t = { s with evc := t.evc, xch := t.xch } ∧
        (let i := p.input.toNat
         let before := captureIn s i
         let ci := captureIn t i
         let written : CaptureIn := { before with
           edge := edge, slot := slot, quiet := p.quiet != 0, minWidth := width
           wiringDelay := min p.wiringDelay.toNat 1600000, unjudged := some .setup }
         (∀ j, j ≠ i → captureIn t j = captureIn s j) ∧
         (∃ data, storeEntry t src.slot.val = storeEntry (answered src (.captureSetup p)
             (if width = p.minWidth.toNat ∧ p.wiringDelay.toNat ≤ 1600000 then .ok else .adjusted) data s) src.slot.val ∧
           data.length = 22 ∧
           laidOut data [(14, 2, ci.count), (16, 2, ci.withinCount), (18, 2, ci.beyondCount), (20, 2, ci.unjudgedCount)] ∧
           (ci.latest = none → laidOut data [(0, 8, 0), (8, 4, 0), (12, 1, 0), (13, 1, 0)]) ∧
           (∀ l, ci.latest = some l → laidOut data [(0, 8, (l.stamp / 16000000000 : Nat)),
             (8, 4, (l.stamp % 16000000000 / 16 : Nat)), (12, 1, (l.stamp % 16 : Nat)), (13, 1, if l.rising then 1 else 2)])) ∧
         (before.edge = .off → edge ≠ .off →
           ci = { written with settled := before.line, candidate := none, latest := none }) ∧
         (before.edge = .off → edge = .off → ci = written) ∧
         (before.edge ≠ .off → edge = .off → ci = { written with candidate := none }) ∧
         (before.edge ≠ .off → edge ≠ .off →
           (before.candidate = none → ci = written) ∧
           ∀ cd, before.candidate = some cd →
             let time := cd.stamp + width * 16
             let settled : CaptureIn := { written with settled := cd.rising, candidate := none }
             let chosen := edge = .both ∨ edge = .rising ∧ cd.rising = true ∨ edge = .falling ∧ cd.rising = false
             let interval : Option Nat := before.latest.bind (fun l =>
               if before.stepMark then none else some (min (cd.stamp - l.stamp) 281474976710655))
             (now s < time → ci = { written with candidate := some { cd with confirmAt := time } }) ∧
             (time ≤ now s → ¬ chosen → ci = settled) ∧
             (time ≤ now s → chosen →
               ci = { settled with
                 unjudged := none, stepMark := false, latest := some { stamp := cd.stamp, rising := cd.rising }
                 count := (before.count + 1) % 65536, unjudgedCount := min (before.unjudgedCount + 1) 65535 } ∧
               ∀ input : Fin 4, input.val = i → p.quiet = 0 →
                 handedOn s t (.capture input cd.rising cd.stamp interval ((before.count + 1) % 65536) .setup none)))))

/-! ## Exchange Controller (ch. 10) -/

/-- R183, R184: SNAPSHOT reports a view as its layout says and changes nothing else; CANCEL withdraws a held STEP,
PULSE-PROGRAM or PULSE-ARM and has no other effect. -/
def Obligations.SnapshotAndCancel : Prop :=
  ∀ (s : State) (src : OrderSrc), canTake s src.slot.val = true →
    (∃ data, exec (.snapshot src 0) s = .next (answered src (.snapshot 0) .ok data s) ∧ data.length = 32 ∧
      fieldLe data 0 8 = s.tbs.time.six / 16000000000 % 2 ^ 64 ∧
      fieldLe data 8 4 = s.tbs.time.six % 16000000000 / 16 ∧ fieldLe data 12 1 = s.tbs.time.six % 16 ∧
      fieldLe data 13 1 = s.dsv.cls % 256 ∧ fieldLe data 14 1 = servoCode s.dsv.state ∧
      fieldLe data 15 1 = activeCode s.rfi.active ∧ (fieldLe data 16 4 : Int) = s.tbs.phi % 2 ^ 32 ∧
      fieldLe data 20 4 = s.dsv.eps % 2 ^ 32 ∧
      fieldLe data 24 1 = qualCode s.rfi.inputs.a.qual + 16 * qualCode s.rfi.inputs.b.qual ∧
      fieldLe data 25 1 = portStateCode s.lnk.a.state + 16 * portStateCode s.lnk.b.state ∧
      fieldLe data 26 1 = s.crs.newcomers.length % 256 ∧ fieldLe data 28 4 = s.xch.lost % 2 ^ 32) ∧
    (∀ port view, portOf (view - 1) = some port →
      ∃ data, exec (.snapshot src view) s = .next (answered src (.snapshot view) .ok data s) ∧ data.length = 32 ∧
        fieldLe data 0 1 = portStateCode (link s port).state ∧
        fieldLe data 4 4 = (link s port).counters.beacons % 2 ^ 32 ∧
        fieldLe data 8 4 = (link s port).counters.ranges % 2 ^ 32 ∧
        fieldLe data 12 4 = (link s port).counters.echoes % 2 ^ 32 ∧
        fieldLe data 16 4 = (link s port).counters.stray % 2 ^ 32 ∧
        fieldLe data 20 4 = (link s port).counters.hails % 2 ^ 32 ∧
        fieldLe data 24 4 = (link s port).counters.foreign % 2 ^ 32 ∧
        fieldLe data 28 4 = (link s port).counters.dropped % 2 ^ 32) ∧
    (∀ view : Byte, 2 < view.toNat →
      exec (.snapshot src view) s = .next (answered src (.snapshot view) .badField [] s)) ∧
    (∀ (target : Byte) (cookie : BitVec 16),
      let reply := fun (r : ResultCode) (t : State) =>
        exec (.cancel src target cookie) s = .next (answered src (.cancel target cookie) r [] t)
      ((31 < target.toNat ∨ target.toNat = src.slot.val) → reply .badField s) ∧
      (target.toNat ≤ 31 → target.toNat ≠ src.slot.val →
        ((∀ e, storeEntry s target.toNat = some e → e.cookie ≠ cookie) → reply .vacant s) ∧
        (∀ e, storeEntry s target.toNat = some e → e.cookie = cookie →
          (∀ r data written, e.status = .completed r data written →
            reply (if r = .ok ∨ r = .adjusted then .tooLate else .vacant) s) ∧
          (e.status = .held →
            (∀ p, e.order = .postStep p → reply .ok (complete target.toNat .cancelled [] { s with tbs := { s.tbs with
              posted := if s.tbs.posted.any (fun q => q.origin == .host target.toNat) then none else s.tbs.posted } })) ∧
            (∀ p, e.order = .pulseProgram p → reply .ok (complete target.toNat .cancelled [] { s with pou := { s.pou with
              channels := s.pou.channels.map (fun ch =>
                if ch.pending.any (fun q => q.slot == target.toNat) then { ch with pending := none } else ch) } })) ∧
            (∀ p, e.order = .pulseArm p → reply .ok (complete target.toNat .cancelled [] { s with pou := { s.pou with
              channels := s.pou.channels.map (fun ch =>
                if ch.arm = some target.toNat then { ch with state := .ready, arm := none } else ch) } })) ∧
            ((∀ p, e.order ≠ .postStep p) → (∀ p, e.order ≠ .pulseProgram p) → (∀ p, e.order ≠ .pulseArm p) →
              reply .badField s)))))

/-- R179 to R182: sweeps. Only a RUNNING exchange that is not being stopped sweeps. With none in progress the expiry of the timer,
a write of XNUDGE and a pending sweep begin one: it starts the timer and makes the first access due: a POSTED slot for which the
store holds neither a held order nor a completion not yet written, lowest first; else the lowest such completion; else a queued
client record, whose odd version is written first; else the read of the host words. With one in progress a further sweep is made
pending. A nudge in the tick of an expiry begins no sweep of its own.
The host's stores are operands (log 9); that an early command does nothing is the model's choice (log 4), that the states of slots
not taken are read at one instant and in no access log 9, that slot addresses are modulo 2^64 log 32, the field `timeUp` and what
counts as a sweep in progress log 33. -/
def Obligations.SweepsBegin : Prop :=
  ∀ (s m : State) (host : HostWrites) (w : RegWrite), m = modMem (Memory.writeAll host) s →
    let on := s.xch.state = .running ∧ s.xch.haltAsked = false ∧ s.xch.resetAsked = false
    let begins := fun (c : Instr) (u : State) => ∃ t, exec c s = .next t ∧ SweepGoesOn (sweepStarted u) t ∧ t.mem = m.mem ∧
      t.xch.access.isSome = true ∧ t.xch.sweep.isSome = true ∧ t.xch.timer = some (s.xch.period.getD 0 * 125) ∧
      t.xch.store = s.xch.store ∧ t.xch.staging = s.xch.staging
    (¬ on → exec (.sweepPeriodExpiry host) s = .next m ∧ exec (.pendingSweepStart host) s = .next m ∧
      exec (.xnudge w host) s = .next m) ∧
    (s.xch.timer ≠ some 0 → exec (.sweepPeriodExpiry host) s = .next m) ∧
    ((s.xch.sweepPending = false ∨ s.xch.sweep ≠ none) → exec (.pendingSweepStart host) s = .next m) ∧
    (s.xch.timeUp = true → exec (.xnudge w host) s = .next m) ∧
    (on → s.xch.sweep = none →
      (s.xch.timeUp = false → begins (.xnudge w host) m) ∧
      (s.xch.timer = some 0 →
        begins (.sweepPeriodExpiry host) { m with xch := { m.xch with timer := none, timeUp := true } }) ∧
      (s.xch.sweepPending = true →
        begins (.pendingSweepStart host) { m with xch := { m.xch with sweepPending := false } })) ∧
    (on → s.xch.sweep ≠ none →
      (s.xch.timeUp = false →
        exec (.xnudge w host) s = .next { m with xch := { m.xch with sweepPending := true } }) ∧
      (s.xch.timer = some 0 → exec (.sweepPeriodExpiry host) s = .next
        { m with xch := { m.xch with timer := none, timeUp := true, sweepPending := true } }))

/-- R77, R171, R174 to R176, R178, R188: XCTL. RUN starts a HALTED exchange and RESUME a STALLED one with a header read; RUN 0
halts, at once in STALLED and otherwise when the access in progress has ended; XRST asks for the exchange reset, whose reset of
the controller and of the orders held follows likewise. A usable header sets the exchange RUNNING; each held ADMIT or RECONFIG is
then handed again, in slot order, and refused by its first checks or its configuration group read anew, and the first sweep begins
once none is left. Any other header leaves the exchange HALTED with LAYOUT set.
HALT and EXCHANGE_RESET as commands of their own, and the bit each XCTL row forces, are the model's choice (log 14), and so is
that one nobody asked for, or a HEADER_READ with no header read in progress, changes nothing (log 4), and that the counts and
settings of a header that is not usable are not taken (log 14); the host's stores are operands (log 9), slot and group addresses
modulo 2^64 (log 32), and the handing again of held orders stands in the sweep field (log 33). -/
def Obligations.ControlMovesExchange : Prop :=
  ∀ (s : State) (w : RegWrite),
    let x := s.xch
    let at_ : Controller → Result := fun y => .next { s with xch := y }
    let plain := (writeWhole w).getLsbD 2 = false
    let started : Controller := { x with state := .starting, run := true, access := some .headerStart }
    let halted : Controller := { x with
      state := .halted, run := false, haltAsked := false, timer := none, timeUp := false, sweepPending := false, sweep := none
      access := none }
    let free := x.access = none ∨ x.access = some .headerStart
    (plain → exec (.runSet w) s = at_ (if x.state = .halted then started
      else if x.state = .stalled ∧ (writeWhole w).getLsbD 1 = true then started else x)) ∧
    (plain → exec (.resume w) s = at_ (if (writeWhole w).getLsbD 0 = true then
        (if x.state = .halted ∨ x.state = .stalled then started else x)
      else if x.state = .halted then x else if x.state = .stalled then halted
      else { x with run := false, haltAsked := true })) ∧
    (plain → exec (.runClear w) s = at_ (if x.state = .halted then x else if x.state = .stalled then halted
      else { x with run := false, haltAsked := true })) ∧
    exec (.xrst w) s = at_ { x with resetAsked := true } ∧
    (¬ plain → exec (.runSet w) s = exec (.xrst w) s ∧ exec (.runClear w) s = exec (.xrst w) s ∧
      exec (.resume w) s = exec (.xrst w) s) ∧
    exec .halt s = at_ (if x.haltAsked = true ∧ free then halted else x) ∧
    (¬ (x.resetAsked = true ∧ free) → exec .exchangeReset s = .next s) ∧
    (x.resetAsked = true → free →
      ∃ t, exec .exchangeReset s = .next t ∧
        t = { s with tbs := t.tbs, pou := t.pou, crs := t.crs, xch := { x with
          run := false, causes := ⟨false, false, false, false, false⟩, state := .halted, haltAsked := false
          resetAsked := false, store := List.replicate 32 none, staging := [], lossMark := false, lost := 0, produced := 0
          timer := none, timeUp := false, sweepPending := false, sweep := none, access := none } } ∧
        t.tbs = { s.tbs with posted := s.tbs.posted.filter (fun p => p.origin == .servo) } ∧
        t.pou = { s.pou with channels := s.pou.channels.map (fun ch =>
          { ch with pending := none, arm := none, state := if ch.state = .waiting then .ready else ch.state }) } ∧
        t.crs = { s.crs with queue := s.crs.queue ++ (List.range s.crs.clients.length).filter (fun n =>
          (client s n).state != .vacant && !s.crs.queue.contains n) }) ∧
    (∀ host : HostWrites,
      let m := modMem (Memory.writeAll host) s
      let ws := hostWords m
      let cap := fieldLe ws 8 4
      let usable := fieldLe ws 0 4 = 0x4B575845 ∧ fieldLe ws 4 2 = 1 ∧ cap ∈ [64, 128, 256, 512, 1024, 2048, 4096]
      let threshold := fieldLe ws 0x10 4
      let period := fieldLe ws 0x14 4
      (x.access ≠ some .headerStart → exec (.headerRead host) s = .next m) ∧
      (x.access = some .headerStart → x.haltAsked = false → x.resetAsked = false →
        (¬ usable → exec (.headerRead host) s = .next { m with xch := { x with
          state := .halted, run := false, access := none, causes := { x.causes with layout := true } } }) ∧
        (usable → ∃ t, exec (.headerRead host) s = .next t ∧
          SweepGoesOn { m with xch := { x with
            state := .running, access := none, sweep := some (.retry 0), capacity := some cap
            consumed := some (fieldLe ws 0x0C 4), threshold := some (if threshold = 0 then 1 else min threshold cap)
            period := some (if period = 0 then 1000 else max 125 (min 8000 period)) } } t ∧
          t.mem = m.mem ∧ t.xch.state = .running ∧
          t.xch.run = x.run ∧ t.xch.capacity = some cap ∧ t.xch.consumed = some (fieldLe ws 0x0C 4) ∧
          t.xch.threshold = some (if threshold = 0 then 1 else min threshold cap) ∧
          t.xch.period = some (if period = 0 then 1000 else max 125 (min 8000 period)) ∧
          t.xch.produced = x.produced ∧ t.xch.sweep.isSome = true)))

/-- R170, R172, R191: the register window. XBASE takes the bytes written, aligned to 4 KiB, while HALTED and is else kept;
a cause written 1 is cleared and the others stand; XMASK takes the bytes written; XID and the unused word ignore a write.
A write at an offset is the write of the register of that word. Nothing else changes. A read returns the bytes it covers of
the register of its word, XID of the word at 24. XIRQ is asserted while a cause is both set and enabled: while the words
of XSTAT and XMASK have one of the bits 4..0 in common. -/
def Obligations.RegistersReadAndWritten : Prop :=
  ∀ (s : State) (w : RegWrite),
    let bit := fun (v : BitVec 32) (k : Nat) => v.getLsbD k
    let covered := fun (k : Nat) => w.lanes.getLsbD (k / 8)
    (∀ hi, ∃ base : BitVec 32,
      exec (.xbaseWrite hi w) s = .next { s with xch :=
        if hi then { s.xch with baseHi := base } else { s.xch with baseLo := base } } ∧
      (s.xch.state ≠ .halted → base = if hi then s.xch.baseHi else s.xch.baseLo) ∧
      (s.xch.state = .halted → ∀ k < 32, bit base k =
        ((hi || decide (12 ≤ k)) && if covered k then bit w.value k else bit (if hi then s.xch.baseHi else s.xch.baseLo) k))) ∧
    exec (.xstatClear w) s = .next { s with xch := { s.xch with
      causes :=
        let stands := fun (old : Bool) (k : Nat) => old && !(covered k && bit w.value k)
        { order := stands s.xch.causes.order 0, journal := stands s.xch.causes.journal 1
          cls := stands s.xch.causes.cls 2, stall := stands s.xch.causes.stall 3
          layout := stands s.xch.causes.layout 4 } } } ∧
    exec (.xmaskWrite w) s = .next { s with xch := { s.xch with
      mask := if w.lanes.getLsbD 0 then
          { order := bit w.value 0, journal := bit w.value 1, cls := bit w.value 2, stall := bit w.value 3
            layout := bit w.value 4 }
        else s.xch.mask } } ∧
    (∀ offset : Fin 32,
      (24 ≤ offset.val → exec (.registerWrite offset w) s = .next s) ∧
      (offset.val / 4 = 0 → exec (.registerWrite offset w) s = exec (.xbaseWrite false w) s) ∧
      (offset.val / 4 = 1 → exec (.registerWrite offset w) s = exec (.xbaseWrite true w) s) ∧
      (offset.val / 4 = 2 → exec (.registerWrite offset w) s =
        if (writeWhole w).getLsbD 0 then exec (.runSet w) s else exec (.runClear w) s) ∧
      (offset.val / 4 = 3 → exec (.registerWrite offset w) s = exec (.xnudge w []) s) ∧
      (offset.val / 4 = 4 → exec (.registerWrite offset w) s = exec (.xstatClear w) s) ∧
      (offset.val / 4 = 5 → exec (.registerWrite offset w) s = exec (.xmaskWrite w) s)) ∧
    (∀ cs : Causes, bit (causesBits cs) 0 = cs.order ∧ bit (causesBits cs) 1 = cs.journal ∧ bit (causesBits cs) 2 = cs.cls ∧
      bit (causesBits cs) 3 = cs.stall ∧ bit (causesBits cs) 4 = cs.layout ∧ ∀ k, 5 ≤ k → bit (causesBits cs) k = false) ∧
    (xirq s.xch = true ↔ ∃ k < 5, bit (registerWord 16 s.xch) k = true ∧ bit (registerWord 20 s.xch) k = true) ∧
    (∀ (offset : Fin 32) (lanes : BitVec 4),
      (∀ k < 32, bit (registerRead offset lanes s.xch) k = (lanes.getLsbD (k / 8) && bit (registerWord offset s.xch) k)) ∧
      registerWord offset s.xch = match offset.val / 4 with
        | 0 => s.xch.baseLo
        | 1 => s.xch.baseHi
        | 2 => if s.xch.run then 1 else 0
        | 4 => causesBits s.xch.causes ||| (match s.xch.state with
          | .halted => 0 | .starting => 0x100 | .running => 0x200 | .stalled => 0x300)
        | 5 => causesBits s.xch.mask
        | 6 => 0x0C412001
        | _ => 0)

/-- R77, R93, R173, R177, R180 to R182, R186, R187: the end of each access. The end of a slot's taking writes TAKEN and hands the
order read to its owner, as its own row does, an unknown code completing UNKNOWN, while an ADMIT or RECONFIG that passes its first
checks is held and begins the read of its configuration group; the end of that read, in a sweep or in the handing again after a
start or resume, handles the order as its row does. A completion's result code, cookie and result data are in its slot, DONE the
last, and it is marked written with ORDER set. A publication lands in three parts: odd version, fields, and even version, which the
context then holds. The read of the host words takes them; a journal record lands at index produced mod capacity, leaves staging,
and produced grows; the part words land as ch. 11.3 has them. After each end the sweep goes on as `SweepGoesOn` says: ascending
slots, at most 32 publications, records while the fill is below the capacity, JOURNAL set by the threshold. A bus error puts the
exchange in STALLED with STALL set, stops timer and sweep, and puts a record being published back at the head of its queue.
The host's stores are operands (log 9), and so is how much of a cut access landed (log 11); the order rows are log 10. That a
command with no access in progress changes nothing is log 4, addresses modulo 2^64 are log 32, and how a record's payload is laid
out where ch. 11.6 is silent logs 29 and 34. That the part words are those held at the end of their access is log 9. -/
def Obligations.AccessesEnd : Prop :=
  ∀ (s m : State) (host : HostWrites), m = modMem (Memory.writeAll host) s →
    let base := s.xch.baseHi.toNat * 2 ^ 32 + s.xch.baseLo.toNat
    let cells := fun (off : Nat) (bytes : List Byte) =>
      bytes.zipIdx.map (fun x => (((base + (off + x.2)) % 2 ^ 64, x.1) : Host.Cell))
    let stored := fun (off : Nat) (bytes : List Byte) => Memory.writeAll (cells off bytes) m.mem
    let free : Controller := { s.xch with access := none }
    let goes := fun u : State => ∃ t, exec (.accessEnd host) s = .next t ∧ sweepContinues u t
    (s.xch.access = none → exec (.accessEnd host) s = .next m) ∧
    (∀ (src : OrderSrc) (o : Order) (bytes : List Byte) (j : Nat),
      s.xch.access = some (.takeSlot src.slot.val) → s.xch.sweep = some (.orders j) → canTake s src.slot.val = true →
      bytes = Memory.block m.mem base (0x40 + 64 * src.slot.val) 64 → src.cookie = BitVec.ofNat 16 (fieldLe bytes 2 2) →
      o = decodeOrder (byteAt bytes 1) (field bytes 4 24) →
      let taken : State := { s with mem := stored (0x40 + 64 * src.slot.val) [2], xch := free }
      let config := ∃ c, o = .admitClient c ∨ o = .reconfig c
      (∀ code, o = .unknown code → goes (answered src o .unknown [] taken)) ∧
      (∀ c u, orderHanded c = some (src, o) → ¬ config → hostStores c = [] → exec c taken = .next u → goes u) ∧
      (∀ r, config → firstRefusal s o = some r → goes (answered src o r [] taken)) ∧
      (config → firstRefusal s o = none → exec (.accessEnd host) s = .next (
        if s.xch.haltAsked ∨ s.xch.resetAsked then holding src o taken
        else { holding src o taken with
          xch := { (holding src o taken).xch with access := some (.readConfig src.slot.val) } }))) ∧
    (∀ (src : OrderSrc) (o : Order) (c : Instr) (u : State) (j : Nat),
      s.xch.access = some (.readConfig src.slot.val) → (s.xch.sweep = some (.orders j) ∨ s.xch.sweep = some (.retry j)) →
      storeEntry s src.slot.val = some { order := o, cookie := src.cookie, status := .held } →
      ((∃ client, o = .admitClient client ∧ c = .admitClient src client host) ∨
        (∃ client, o = .reconfig client ∧ c = .reconfig src client host)) →
      exec c { s with xch := { free with store := s.xch.store.set src.slot.val none } } = .next u → goes u) ∧
    (∀ n en r data written j, s.xch.access = some (.complete n) → storeEntry s n = some en →
      en.status = .completed r data written → s.xch.sweep = some (.completions j) →
      let slot := 0x40 + 64 * n
      goes { s with
        mem := Memory.writeAll (cells (slot + 28) (le 1 (resultCodeOf r)) ++ cells (slot + 2) (le 2 en.cookie.toNat) ++
          cells (slot + 32) (data ++ List.replicate (32 - data.length) 0) ++ cells slot [3]) m.mem
        xch := { free with
          causes := { s.xch.causes with order := true }
          store := s.xch.store.set n (some { en with status := .completed r data true }) } }) ∧
    (∀ n bytes, s.xch.access = some (.publish n .odd bytes) → exec (.accessEnd host) s = .next { s with
      mem := stored (0x1000 + 128 * n + 48) (le 4 (client s n).version)
      xch := { s.xch with access := some (.publish n .fields bytes) } }) ∧
    (∀ n bytes, s.xch.access = some (.publish n .fields bytes) → exec (.accessEnd host) s = .next { s with
      mem := stored (0x1000 + 128 * n + 52) bytes, xch := { s.xch with access := some (.publish n .even bytes) } }) ∧
    (∀ n bytes left, s.xch.access = some (.publish n .even bytes) → s.xch.sweep = some (.clients left) →
      let even := ((client s n).version + 1) % 4294967296
      goes { s with
        mem := stored (0x1000 + 128 * n + 48) (le 4 even), xch := free
        crs := { s.crs with clients := s.crs.clients.set n { client s n with version := even } } }) ∧
    (∀ left, s.xch.access = some .headerHost → s.xch.sweep = some (.journal left) →
      let ws := hostWords m
      let threshold := fieldLe ws 0x10 4
      let period := fieldLe ws 0x14 4
      goes { m with xch := { free with
        consumed := some (fieldLe ws 0x0C 4)
        threshold := some (if threshold = 0 then 1 else min threshold (s.xch.capacity.getD 0))
        period := some (if period = 0 then 1000 else max 125 (min 8000 period)) } }) ∧
    (∀ left rec rest capacity, s.xch.access = some .journal → s.xch.sweep = some (.journal left) →
      s.xch.staging = rec :: rest → s.xch.capacity = some capacity →
      let f := bodyFields (rec.sec * 16000000000 + rec.ns * 16) rec.body
      goes { s with
        mem := stored (0x9000 + 32 * (s.xch.produced % capacity)) (le 1 f.1 ++ [if rec.lossBefore then 1 else 0] ++
          le 2 f.2.1 ++ le 4 rec.ns ++ le 8 rec.sec ++ f.2.2 ++ List.replicate (16 - f.2.2.length) 0)
        xch := { free with staging := rest, produced := (s.xch.produced + 1) % 4294967296 } }) ∧
    (s.xch.access = some .headerPart → s.xch.sweep = some .header →
      let written : State := { s with
        mem := stored 0x20 (le 4 s.xch.produced ++ le 4 s.xch.lost ++ le 4 s.xch.sweeps ++ le 4 0 ++
          le 8 (s.tbs.time.six / 16000000000) ++ le 4 (s.tbs.time.six % 16000000000 / 16) ++ le 1 (s.tbs.time.six % 16) ++
          le 1 s.dsv.cls ++ le 1 (servoCode s.dsv.state) ++ le 1 (activeCode s.rfi.active))
        xch := free }
      exec (.accessEnd host) s = .next (if s.xch.haltAsked ∨ s.xch.resetAsked then written
        else { written with xch := { free with sweeps := (s.xch.sweeps + 1) % 4294967296, sweep := none } })) ∧
    (∀ landed,
      (s.xch.access = none → exec (.busError landed) s = .next s) ∧
      (∀ a, s.xch.access = some a →
        ∃ t, exec (.busError landed) s = .next t ∧ t = { s with
          mem := t.mem, crs := t.crs, xch := { s.xch with
            causes := { s.xch.causes with stall := true }
            state := if s.xch.haltAsked ∨ s.xch.resetAsked then s.xch.state else .stalled
            timer := none, timeUp := false, sweepPending := false, sweep := none, access := none } } ∧
          t.crs = { s.crs with queue := match a with
            | .publish n _ _ => n :: s.crs.queue.erase n
            | _ => s.crs.queue }))

/-- Ch. 11.4 to 11.6, ch. 11.8, R190: the layouts of the exchange area, row by row of their tables, every number little-endian and
signed ones in two's complement. The parameters of each order give the fields of the order decoded, and a code outside the list an
unknown order. The measurement group holds the client's state, verdicts, results and paths. A journal record holds the kind, the
subject and the payload of its kind. The enumerated fields have the codes of ch. 11.8.
That addresses in records are little-endian is log 34, that a number past its field is cut to it log 29. -/
def Obligations.ExchangeAreaLayouts : Prop :=
  (∀ (bs : List Byte) (off k : Nat), fieldLe bs off 0 = 0 ∧ fieldBe bs off 0 = 0 ∧
    fieldLe bs off (k + 1) = (bs.getD off 0).toNat + 256 * fieldLe bs (off + 1) k ∧
    fieldBe bs off (k + 1) = 256 * fieldBe bs off k + (bs.getD (off + k) 0).toNat) ∧
  (∀ ps : List Byte, ps.length = 24 →
    (∃ p, decodeOrder 0x01 ps = .portSetup p ∧ p.station.toNat = fieldBe ps 8 6 ∧ laidOut ps
      [(0, 1, p.port.toNat), (1, 1, p.enable.toNat), (2, 1, p.reporting.toNat), (3, 1, p.rate.toNat), (4, 1, p.domain.toNat),
        (6, 2, p.typeCode.toNat)]) ∧
    (∃ p, decodeOrder 0x02 ps = .refSetup p ∧ laidOut ps
      [(0, 1, p.input.toNat), (1, 1, p.enable.toNat), (2, 1, p.baud.toNat), (3, 1, p.preference.toNat), (4, 4, p.minWidth.toNat),
        (8, 2, p.longWidth.toNat), (12, 4, p.cableDelay.toNat)]) ∧
    (∃ mode, decodeOrder 0x03 ps = .setRef mode ∧ laidOut ps [(0, 1, mode.toNat)]) ∧
    (∃ p, decodeOrder 0x04 ps = .servoSetup p ∧ laidOut ps
      [(0, 1, p.kpA.toNat + 16 * p.kiA.toNat), (1, 1, p.kpT.toNat + 16 * p.kiT.toNat), (2, 1, p.improveDwell.toNat),
        (4, 4, p.stepThreshold.toNat), (8, 4, p.lockThreshold.toNat), (12, 4, p.phaseGate.toNat), (16, 2, p.drift.toNat),
        (18, 2, p.aging.toNat), (20, 4, p.holdoverLimit.toNat)]) ∧
    (∃ p, decodeOrder 0x05 ps = .postStep p ∧ laidOut ps
      [(0, 1, p.targetKind.toNat), (8, 8, p.delta.toInt), (16, 6, p.epoch.toNat)]) ∧
    (∃ p, decodeOrder 0x06 ps = .utcSetup p ∧ laidOut ps
      [(0, 1, p.operation.toNat), (1, 1, p.direction.toInt), (2, 2, p.offset.toInt), (8, 6, p.leapEpoch.toNat)]) ∧
    (∃ c, decodeOrder 0x07 ps = .admitClient c ∧ laidOut ps [(0, 2, c.toNat)]) ∧
    (∃ c, decodeOrder 0x08 ps = .reconfig c ∧ laidOut ps [(0, 2, c.toNat)]) ∧
    (∃ c, decodeOrder 0x09 ps = .retire c ∧ laidOut ps [(0, 2, c.toNat)]) ∧
    (∃ p, decodeOrder 0x0A ps = .rangingSetup p ∧ laidOut ps
      [(0, 1, p.launchLimit.toNat), (2, 2, p.window.toNat), (4, 2, p.echoWait.toNat), (8, 4, p.ceiling.toNat)]) ∧
    (∃ p, decodeOrder 0x0B ps = .noticePost p ∧ p.payload = ps.drop 8 ∧ laidOut ps
      [(0, 1, p.index.toNat + 16 * p.mode.toNat), (1, 1, p.length.toNat), (2, 6, p.param.toNat)]) ∧
    (∃ i, decodeOrder 0x0C ps = .noticeWithdraw i ∧ laidOut ps [(0, 1, i.toNat)]) ∧
    (∃ p, decodeOrder 0x0D ps = .pulseProgram p ∧ laidOut ps
      [(0, 1, p.channel.toNat), (1, 1, p.mode.toNat), (2, 1, p.polarity.toNat), (3, 1, p.gated.toNat), (4, 1, p.markClass.toNat),
        (8, 4, p.at8.toNat), (12, 4, p.at12.toNat), (16, 6, p.at16.toNat)]) ∧
    (∃ p, decodeOrder 0x0E ps = .pulseArm p ∧ p.channels = (ps.drop 1).take 8 ∧ laidOut ps
      [(0, 1, p.count.toNat), (16, 6, p.epoch.toNat)]) ∧
    (∃ f, decodeOrder 0x0F ps = .gateSetup f ∧ laidOut ps [(0, 1, f.toNat)]) ∧
    decodeOrder 0x10 ps = .gateOpen ∧
    (∃ p, decodeOrder 0x11 ps = .captureSetup p ∧ laidOut ps
      [(0, 1, p.input.toNat), (1, 1, p.edge.toNat), (2, 1, p.quiet.toNat), (4, 2, p.slot.toNat), (8, 4, p.minWidth.toNat),
        (12, 4, p.wiringDelay.toNat)]) ∧
    (∃ v, decodeOrder 0x12 ps = .snapshot v ∧ laidOut ps [(0, 1, v.toNat)]) ∧
    (∃ target cookie, decodeOrder 0x13 ps = .cancel target cookie ∧ laidOut ps [(0, 1, target.toNat), (2, 2, cookie.toNat)]) ∧
    ∀ code : Byte, (code = 0 ∨ 0x13 < code.toNat) → decodeOrder code ps = .unknown code) ∧
  (∀ c : Client,
    let flag := fun (b : Bool) (v : Int) => if b then v else 0
    let group := le 4 c.version ++ measureFields c
    let block := fun (off : Nat) (q : Path) => laidOut group [(off, 1, pathStateCode q.state), (off + 1, 1, q.debt), (off + 2, 1, q.seeds),
      (off + 3, 1, flag q.delay.isSome 1), (off + 4, 4, q.delay.getD 0), (off + 8, 2, q.accepted), (off + 10, 2, q.outliers),
      (off + 12, 2, q.rejects), (off + 14, 2, q.timeouts), (off + 16, 2, q.late), (off + 18, 2, q.clamps)]
    let hail := c.lastHail.getD 0
    group.length = 80 ∧ block 40 c.paths.a ∧ block 60 c.paths.b ∧ laidOut group
      [(0, 4, c.version), (4, 1, clientStateCode c.state), (5, 1, verdictCode c.offsetV.verdict), (6, 1, c.offsetV.within),
        (7, 1, c.offsetV.beyond), (8, 1, verdictCode c.pulseV.verdict), (9, 1, c.pulseV.within), (10, 1, c.pulseV.beyond),
        (11, 1, selfStatusCode c.selfStatus),
        (12, 1, flag c.offset.isSome 1 + flag c.pulseError.isSome 2 + flag c.lastHail.isSome 4),
        (13, 1, (hail % 16 : Nat)), (14, 6, (hail / 16000000000 : Nat)), (20, 4, (hail % 16000000000 / 16 : Nat)),
        (24, 4, c.offset.getD 0), (28, 8, c.pulseError.getD 0), (36, 4, 0)]) ∧
  (∀ (handed : Nat) (body : JournalBody),
    let f := bodyFields handed body
    let is := fun (kind subject : Nat) (rows : List (Nat × Nat × Int)) => f.1 = kind ∧ f.2.1 = subject ∧ laidOut f.2.2 rows
    let five := fun (off : Nat) (k : RefCounters) => laidOut f.2.2 [(off, 2, k.bad), (off + 2, 2, k.overrun),
      (off + 4, 2, k.stale), (off + 6, 2, k.misplaced), (off + 8, 2, k.stuck)]
    let on := fun (slot : Nat) (port : Port) => slot + 256 * portCode port
    f.2.2.length ≤ 16 ∧ match body with
    | .refState i prev new cause k => is 1 (inputCode i)
        [(0, 1, qualCode prev), (1, 1, qualCode new), (2, 1, refStateCauseCode cause), (3, 1, 0)] ∧ five 4 k
    | .refChange prev new mode cause => is 2 0
        [(0, 1, activeCode prev), (1, 1, activeCode new), (2, 1, modeCode mode), (3, 1, refChangeCauseCode cause)]
    | .msgOverrun i label k => is 3 (inputCode i) [(0, 5, label), (5, 1, 0)] ∧ five 6 k
    | .pulseStuck i rise k => is 4 (inputCode i)
        [(0, 4, (rise % 16000000000 / 16 : Nat)), (4, 1, (rise % 16 : Nat)), (5, 1, (rise / 16000000000 : Nat))] ∧ five 6 k
    | .utcDisagree i message timebase leap => is 5 (inputCode i)
        [(0, 2, message), (2, 2, timebase), (4, 1, leapFlagsCode leap)]
    | .servoState prev new cause phi eps labels gated => is 6 0
        [(0, 1, servoCode prev), (1, 1, servoCode new), (2, 1, servoCauseCode cause), (3, 1, 0), (4, 4, phi), (8, 4, eps),
          (12, 2, labels), (14, 2, gated)]
    | .classChange prev new servo eps => is 7 0 [(0, 1, prev), (1, 1, new), (2, 1, servoCode servo), (3, 1, 0), (4, 4, eps)]
    | .stepApplied origin epoch delta => is 8 (originCode origin)
        [(0, 6, epoch), (6, 10, max (-(2 ^ 79)) (min (2 ^ 79 - 1) delta))]
    | .leapApplied insert offset epoch => is 9 0
        [(0, 1, if insert then 1 else -1), (1, 1, 0), (2, 2, offset), (4, 6, epoch)]
    | .clientState slot addr prev new cause ov pv pa pb => is 10 slot
        [(0, 6, addr.toNat), (6, 1, clientStateCode prev), (7, 1, clientStateCode new), (8, 1, clientCauseCode cause),
          (9, 1, verdictCode ov), (10, 1, verdictCode pv), (11, 1, pathStateCode pa), (12, 1, pathStateCode pb)]
    | .pathValid slot port addr debt delay accepted outliers => is 11 (on slot port)
        [(0, 6, addr.toNat), (6, 1, debt), (7, 1, 0), (8, 4, delay), (12, 2, accepted), (14, 2, outliers)]
    | .pathLost slot port addr delay timeouts rejects late => is 12 (on slot port + if delay.isSome then 512 else 0)
        [(0, 6, addr.toNat), (6, 4, delay.getD 0), (10, 2, timeouts), (12, 2, rejects), (14, 2, late)]
    | .pathStep slot port addr state old new => is 13 (on slot port)
        [(0, 6, addr.toNat), (6, 1, pathStateCode state), (7, 1, 0), (8, 4, old), (12, 4, new)]
    | .hail port addr kind period entries overflow => is 14 (portCode port)
        [(0, 6, addr.toNat), (6, 1, clientKindCode kind), (7, 1, period), (8, 1, entries), (9, 1, 0), (10, 2, overflow)]
    | .foreignBeacon port addr cls servo seq count => is 15 (portCode port)
        [(0, 6, addr.toNat), (6, 1, cls.toNat), (7, 1, servo.toNat), (8, 2, seq), (10, 2, 0), (12, 4, count)]
    | .noticeDone index mode carried cause => is 16 index
        [(0, 1, noticeModeCode mode), (1, 1, (if carried.a then 1 else 0) + if carried.b then 2 else 0),
          (2, 1, noticeCauseCode cause)]
    | .gateClosed cause cls floor inhibit cut => is 17 0
        [(0, 1, gateCauseCode cause), (1, 1, cls), (2, 1, floor), (3, 1, if inhibit then 1 else 0),
          (4, 1, (((List.range 8).map (fun c => if c ∈ cut then 2 ^ c else 0)).sum : Nat))]
    | .gateOpened cls floor => is 18 0 [(0, 1, cls), (1, 1, floor)]
    | .capture i rising stamp interval count outcome err => is 19
        (i.val + (if rising then 0 else 256) + (if interval.isSome then 512 else 0) + 4096 * outcomeCode outcome)
        [(0, 3, (handed - stamp : Nat)), (3, 5, err.getD 0), (8, 6, interval.getD 0), (14, 2, count)]) ∧
  [portCode .a, portCode .b, inputCode .a, inputCode .b] = [0, 1, 0, 1] ∧
  [activeCode none, activeCode (some .a), activeCode (some .b)] = [0, 1, 2] ∧
  [modeCode .auto, modeCode (.force .a), modeCode (.force .b)] = [0, 1, 2] ∧
  [qualCode .disabled, qualCode .absent, qualCode .qualifying, qualCode .qualified] = [0, 1, 2, 3] ∧
  [RefStateCause.enable, .disable, .goodRun, .nonGoodRun, .loss, .pulse].map refStateCauseCode = [0, 1, 2, 3, 4, 5] ∧
  [RefChangeCause.qualification, .revert, .order, .forceLost, .preference].map refChangeCauseCode = [0, 1, 2, 3, 4] ∧
  [ServoState.freerun, .acquire, .track, .holdover].map servoCode = [0, 1, 2, 3] ∧
  [ServoCause.refActive, .lock, .label, .gate, .refLost, .limit].map servoCauseCode = [0, 1, 2, 3, 4, 5] ∧
  [LeapFlags.none, .insert, .delete].map leapFlagsCode = [0, 1, 2] ∧
  ((∀ slot, originCode (.host slot) = 0) ∧ originCode .servo = 1) ∧
  [ClientKind.relay, .meter, .mergingUnit, .other].map clientKindCode = [0, 1, 2, 3] ∧
  [ClientState.vacant, .admitted, .following, .astray, .reverify, .silent].map clientStateCode = [0, 1, 2, 3, 4, 5] ∧
  [ClientCause.admitted, .reconfig, .retire, .path, .verdict, .step, .echo].map clientCauseCode = [0, 1, 2, 3, 4, 5, 6] ∧
  [Verdict.none, .pass, .fail].map verdictCode = [0, 1, 2] ∧
  [none, some SelfStatus.following, some .free, some .unset].map selfStatusCode = [0, 1, 2, 3] ∧
  [PathState.idle, .seeding, .valid, .lost].map pathStateCode = [0, 1, 2, 3] ∧
  (∀ n, [NoticeMode.once, .every, .nth n, .until_ n].map noticeModeCode = [0, 1, 2, 3]) ∧
  [NoticeCause.sent, .portDown, .noneUp, .epoch].map noticeCauseCode = [0, 1, 2, 3] ∧
  [GateCause.cls, .inhibit, .floor].map gateCauseCode = [0, 1, 2] ∧
  [CaptureOutcome.within, .beyond, .setup, .step, .noClient, .vacant, .mismatch].map outcomeCode = [0, 1, 2, 3, 4, 5, 6] ∧
  [ResultCode.ok, .adjusted, .badField, .unknown, .busy, .past, .notQualified, .occupied, .vacant, .duplicate, .empty,
    .qualityLow, .inhibited, .replaced, .superseded, .cancelled, .tooLate, .abandoned].map resultCodeOf = List.range 18
end

