-- ==== Sys2Proof/Laws/State.lean ====
section
/-! SUPPORT. One lemma per field for each operation that changes one part of the state. -/

namespace Sys2Proof.Machine

@[simp] theorem modTbs_tbs (f : Timebase → Timebase) (s : State) : (modTbs f s).tbs = f s.tbs := rfl
/-- `modTbs` leaves every other part as it is. -/
@[simp] theorem modTbs_rfi (f : Timebase → Timebase) (s : State) : (modTbs f s).rfi = s.rfi := rfl
@[simp] theorem modTbs_dsv (f : Timebase → Timebase) (s : State) : (modTbs f s).dsv = s.dsv := rfl
@[simp] theorem modTbs_lnk (f : Timebase → Timebase) (s : State) : (modTbs f s).lnk = s.lnk := rfl
@[simp] theorem modTbs_crs (f : Timebase → Timebase) (s : State) : (modTbs f s).crs = s.crs := rfl
@[simp] theorem modTbs_rng (f : Timebase → Timebase) (s : State) : (modTbs f s).rng = s.rng := rfl
@[simp] theorem modTbs_bcu (f : Timebase → Timebase) (s : State) : (modTbs f s).bcu = s.bcu := rfl
@[simp] theorem modTbs_pou (f : Timebase → Timebase) (s : State) : (modTbs f s).pou = s.pou := rfl
@[simp] theorem modTbs_evc (f : Timebase → Timebase) (s : State) : (modTbs f s).evc = s.evc := rfl
@[simp] theorem modTbs_xch (f : Timebase → Timebase) (s : State) : (modTbs f s).xch = s.xch := rfl
@[simp] theorem modTbs_mem (f : Timebase → Timebase) (s : State) : (modTbs f s).mem = s.mem := rfl
@[simp] theorem modTbs_pending (f : Timebase → Timebase) (s : State) : (modTbs f s).pending = s.pending := rfl

@[simp] theorem modRfi_rfi (f : RefIntake → RefIntake) (s : State) : (modRfi f s).rfi = f s.rfi := rfl
/-- `modRfi` leaves every other part as it is. -/
@[simp] theorem modRfi_tbs (f : RefIntake → RefIntake) (s : State) : (modRfi f s).tbs = s.tbs := rfl
@[simp] theorem modRfi_dsv (f : RefIntake → RefIntake) (s : State) : (modRfi f s).dsv = s.dsv := rfl
@[simp] theorem modRfi_lnk (f : RefIntake → RefIntake) (s : State) : (modRfi f s).lnk = s.lnk := rfl
@[simp] theorem modRfi_crs (f : RefIntake → RefIntake) (s : State) : (modRfi f s).crs = s.crs := rfl
@[simp] theorem modRfi_rng (f : RefIntake → RefIntake) (s : State) : (modRfi f s).rng = s.rng := rfl
@[simp] theorem modRfi_bcu (f : RefIntake → RefIntake) (s : State) : (modRfi f s).bcu = s.bcu := rfl
@[simp] theorem modRfi_pou (f : RefIntake → RefIntake) (s : State) : (modRfi f s).pou = s.pou := rfl
@[simp] theorem modRfi_evc (f : RefIntake → RefIntake) (s : State) : (modRfi f s).evc = s.evc := rfl
@[simp] theorem modRfi_xch (f : RefIntake → RefIntake) (s : State) : (modRfi f s).xch = s.xch := rfl
@[simp] theorem modRfi_mem (f : RefIntake → RefIntake) (s : State) : (modRfi f s).mem = s.mem := rfl
@[simp] theorem modRfi_pending (f : RefIntake → RefIntake) (s : State) : (modRfi f s).pending = s.pending := rfl

@[simp] theorem modDsv_dsv (f : Servo → Servo) (s : State) : (modDsv f s).dsv = f s.dsv := rfl
/-- `modDsv` leaves every other part as it is. -/
@[simp] theorem modDsv_tbs (f : Servo → Servo) (s : State) : (modDsv f s).tbs = s.tbs := rfl
@[simp] theorem modDsv_rfi (f : Servo → Servo) (s : State) : (modDsv f s).rfi = s.rfi := rfl
@[simp] theorem modDsv_lnk (f : Servo → Servo) (s : State) : (modDsv f s).lnk = s.lnk := rfl
@[simp] theorem modDsv_crs (f : Servo → Servo) (s : State) : (modDsv f s).crs = s.crs := rfl
@[simp] theorem modDsv_rng (f : Servo → Servo) (s : State) : (modDsv f s).rng = s.rng := rfl
@[simp] theorem modDsv_bcu (f : Servo → Servo) (s : State) : (modDsv f s).bcu = s.bcu := rfl
@[simp] theorem modDsv_pou (f : Servo → Servo) (s : State) : (modDsv f s).pou = s.pou := rfl
@[simp] theorem modDsv_evc (f : Servo → Servo) (s : State) : (modDsv f s).evc = s.evc := rfl
@[simp] theorem modDsv_xch (f : Servo → Servo) (s : State) : (modDsv f s).xch = s.xch := rfl
@[simp] theorem modDsv_mem (f : Servo → Servo) (s : State) : (modDsv f s).mem = s.mem := rfl
@[simp] theorem modDsv_pending (f : Servo → Servo) (s : State) : (modDsv f s).pending = s.pending := rfl

@[simp] theorem modCrs_crs (f : Roster → Roster) (s : State) : (modCrs f s).crs = f s.crs := rfl
/-- `modCrs` leaves every other part as it is. -/
@[simp] theorem modCrs_tbs (f : Roster → Roster) (s : State) : (modCrs f s).tbs = s.tbs := rfl
@[simp] theorem modCrs_rfi (f : Roster → Roster) (s : State) : (modCrs f s).rfi = s.rfi := rfl
@[simp] theorem modCrs_dsv (f : Roster → Roster) (s : State) : (modCrs f s).dsv = s.dsv := rfl
@[simp] theorem modCrs_lnk (f : Roster → Roster) (s : State) : (modCrs f s).lnk = s.lnk := rfl
@[simp] theorem modCrs_rng (f : Roster → Roster) (s : State) : (modCrs f s).rng = s.rng := rfl
@[simp] theorem modCrs_bcu (f : Roster → Roster) (s : State) : (modCrs f s).bcu = s.bcu := rfl
@[simp] theorem modCrs_pou (f : Roster → Roster) (s : State) : (modCrs f s).pou = s.pou := rfl
@[simp] theorem modCrs_evc (f : Roster → Roster) (s : State) : (modCrs f s).evc = s.evc := rfl
@[simp] theorem modCrs_xch (f : Roster → Roster) (s : State) : (modCrs f s).xch = s.xch := rfl
@[simp] theorem modCrs_mem (f : Roster → Roster) (s : State) : (modCrs f s).mem = s.mem := rfl
@[simp] theorem modCrs_pending (f : Roster → Roster) (s : State) : (modCrs f s).pending = s.pending := rfl

@[simp] theorem modRng_rng (f : Ranging → Ranging) (s : State) : (modRng f s).rng = f s.rng := rfl
/-- `modRng` leaves every other part as it is. -/
@[simp] theorem modRng_tbs (f : Ranging → Ranging) (s : State) : (modRng f s).tbs = s.tbs := rfl
@[simp] theorem modRng_rfi (f : Ranging → Ranging) (s : State) : (modRng f s).rfi = s.rfi := rfl
@[simp] theorem modRng_dsv (f : Ranging → Ranging) (s : State) : (modRng f s).dsv = s.dsv := rfl
@[simp] theorem modRng_lnk (f : Ranging → Ranging) (s : State) : (modRng f s).lnk = s.lnk := rfl
@[simp] theorem modRng_crs (f : Ranging → Ranging) (s : State) : (modRng f s).crs = s.crs := rfl
@[simp] theorem modRng_bcu (f : Ranging → Ranging) (s : State) : (modRng f s).bcu = s.bcu := rfl
@[simp] theorem modRng_pou (f : Ranging → Ranging) (s : State) : (modRng f s).pou = s.pou := rfl
@[simp] theorem modRng_evc (f : Ranging → Ranging) (s : State) : (modRng f s).evc = s.evc := rfl
@[simp] theorem modRng_xch (f : Ranging → Ranging) (s : State) : (modRng f s).xch = s.xch := rfl
@[simp] theorem modRng_mem (f : Ranging → Ranging) (s : State) : (modRng f s).mem = s.mem := rfl
@[simp] theorem modRng_pending (f : Ranging → Ranging) (s : State) : (modRng f s).pending = s.pending := rfl

@[simp] theorem modBcu_bcu (f : BeaconUnit → BeaconUnit) (s : State) : (modBcu f s).bcu = f s.bcu := rfl
/-- `modBcu` leaves every other part as it is. -/
@[simp] theorem modBcu_tbs (f : BeaconUnit → BeaconUnit) (s : State) : (modBcu f s).tbs = s.tbs := rfl
@[simp] theorem modBcu_rfi (f : BeaconUnit → BeaconUnit) (s : State) : (modBcu f s).rfi = s.rfi := rfl
@[simp] theorem modBcu_dsv (f : BeaconUnit → BeaconUnit) (s : State) : (modBcu f s).dsv = s.dsv := rfl
@[simp] theorem modBcu_lnk (f : BeaconUnit → BeaconUnit) (s : State) : (modBcu f s).lnk = s.lnk := rfl
@[simp] theorem modBcu_crs (f : BeaconUnit → BeaconUnit) (s : State) : (modBcu f s).crs = s.crs := rfl
@[simp] theorem modBcu_rng (f : BeaconUnit → BeaconUnit) (s : State) : (modBcu f s).rng = s.rng := rfl
@[simp] theorem modBcu_pou (f : BeaconUnit → BeaconUnit) (s : State) : (modBcu f s).pou = s.pou := rfl
@[simp] theorem modBcu_evc (f : BeaconUnit → BeaconUnit) (s : State) : (modBcu f s).evc = s.evc := rfl
@[simp] theorem modBcu_xch (f : BeaconUnit → BeaconUnit) (s : State) : (modBcu f s).xch = s.xch := rfl
@[simp] theorem modBcu_mem (f : BeaconUnit → BeaconUnit) (s : State) : (modBcu f s).mem = s.mem := rfl
@[simp] theorem modBcu_pending (f : BeaconUnit → BeaconUnit) (s : State) : (modBcu f s).pending = s.pending := rfl

@[simp] theorem modPou_pou (f : PulseUnit → PulseUnit) (s : State) : (modPou f s).pou = f s.pou := rfl
/-- `modPou` leaves every other part as it is. -/
@[simp] theorem modPou_tbs (f : PulseUnit → PulseUnit) (s : State) : (modPou f s).tbs = s.tbs := rfl
@[simp] theorem modPou_rfi (f : PulseUnit → PulseUnit) (s : State) : (modPou f s).rfi = s.rfi := rfl
@[simp] theorem modPou_dsv (f : PulseUnit → PulseUnit) (s : State) : (modPou f s).dsv = s.dsv := rfl
@[simp] theorem modPou_lnk (f : PulseUnit → PulseUnit) (s : State) : (modPou f s).lnk = s.lnk := rfl
@[simp] theorem modPou_crs (f : PulseUnit → PulseUnit) (s : State) : (modPou f s).crs = s.crs := rfl
@[simp] theorem modPou_rng (f : PulseUnit → PulseUnit) (s : State) : (modPou f s).rng = s.rng := rfl
@[simp] theorem modPou_bcu (f : PulseUnit → PulseUnit) (s : State) : (modPou f s).bcu = s.bcu := rfl
@[simp] theorem modPou_evc (f : PulseUnit → PulseUnit) (s : State) : (modPou f s).evc = s.evc := rfl
@[simp] theorem modPou_xch (f : PulseUnit → PulseUnit) (s : State) : (modPou f s).xch = s.xch := rfl
@[simp] theorem modPou_mem (f : PulseUnit → PulseUnit) (s : State) : (modPou f s).mem = s.mem := rfl
@[simp] theorem modPou_pending (f : PulseUnit → PulseUnit) (s : State) : (modPou f s).pending = s.pending := rfl

@[simp] theorem modXch_xch (f : Controller → Controller) (s : State) : (modXch f s).xch = f s.xch := rfl
/-- `modXch` leaves every other part as it is. -/
@[simp] theorem modXch_tbs (f : Controller → Controller) (s : State) : (modXch f s).tbs = s.tbs := rfl
@[simp] theorem modXch_rfi (f : Controller → Controller) (s : State) : (modXch f s).rfi = s.rfi := rfl
@[simp] theorem modXch_dsv (f : Controller → Controller) (s : State) : (modXch f s).dsv = s.dsv := rfl
@[simp] theorem modXch_lnk (f : Controller → Controller) (s : State) : (modXch f s).lnk = s.lnk := rfl
@[simp] theorem modXch_crs (f : Controller → Controller) (s : State) : (modXch f s).crs = s.crs := rfl
@[simp] theorem modXch_rng (f : Controller → Controller) (s : State) : (modXch f s).rng = s.rng := rfl
@[simp] theorem modXch_bcu (f : Controller → Controller) (s : State) : (modXch f s).bcu = s.bcu := rfl
@[simp] theorem modXch_pou (f : Controller → Controller) (s : State) : (modXch f s).pou = s.pou := rfl
@[simp] theorem modXch_evc (f : Controller → Controller) (s : State) : (modXch f s).evc = s.evc := rfl
@[simp] theorem modXch_mem (f : Controller → Controller) (s : State) : (modXch f s).mem = s.mem := rfl
@[simp] theorem modXch_pending (f : Controller → Controller) (s : State) : (modXch f s).pending = s.pending := rfl

@[simp] theorem modMem_mem (f : Memory → Memory) (s : State) : (modMem f s).mem = f s.mem := rfl
/-- `modMem` leaves every other part as it is. -/
@[simp] theorem modMem_tbs (f : Memory → Memory) (s : State) : (modMem f s).tbs = s.tbs := rfl
@[simp] theorem modMem_rfi (f : Memory → Memory) (s : State) : (modMem f s).rfi = s.rfi := rfl
@[simp] theorem modMem_dsv (f : Memory → Memory) (s : State) : (modMem f s).dsv = s.dsv := rfl
@[simp] theorem modMem_lnk (f : Memory → Memory) (s : State) : (modMem f s).lnk = s.lnk := rfl
@[simp] theorem modMem_crs (f : Memory → Memory) (s : State) : (modMem f s).crs = s.crs := rfl
@[simp] theorem modMem_rng (f : Memory → Memory) (s : State) : (modMem f s).rng = s.rng := rfl
@[simp] theorem modMem_bcu (f : Memory → Memory) (s : State) : (modMem f s).bcu = s.bcu := rfl
@[simp] theorem modMem_pou (f : Memory → Memory) (s : State) : (modMem f s).pou = s.pou := rfl
@[simp] theorem modMem_evc (f : Memory → Memory) (s : State) : (modMem f s).evc = s.evc := rfl
@[simp] theorem modMem_xch (f : Memory → Memory) (s : State) : (modMem f s).xch = s.xch := rfl
@[simp] theorem modMem_pending (f : Memory → Memory) (s : State) : (modMem f s).pending = s.pending := rfl

@[simp] theorem modRef_rfi (i : RefInput) (f : RefIn → RefIn) (s : State) : (modRef i f s).rfi = { s.rfi with inputs := modInput i f s.rfi.inputs } := rfl
/-- `modRef` leaves every other part as it is. -/
@[simp] theorem modRef_tbs (i : RefInput) (f : RefIn → RefIn) (s : State) : (modRef i f s).tbs = s.tbs := rfl
@[simp] theorem modRef_dsv (i : RefInput) (f : RefIn → RefIn) (s : State) : (modRef i f s).dsv = s.dsv := rfl
@[simp] theorem modRef_lnk (i : RefInput) (f : RefIn → RefIn) (s : State) : (modRef i f s).lnk = s.lnk := rfl
@[simp] theorem modRef_crs (i : RefInput) (f : RefIn → RefIn) (s : State) : (modRef i f s).crs = s.crs := rfl
@[simp] theorem modRef_rng (i : RefInput) (f : RefIn → RefIn) (s : State) : (modRef i f s).rng = s.rng := rfl
@[simp] theorem modRef_bcu (i : RefInput) (f : RefIn → RefIn) (s : State) : (modRef i f s).bcu = s.bcu := rfl
@[simp] theorem modRef_pou (i : RefInput) (f : RefIn → RefIn) (s : State) : (modRef i f s).pou = s.pou := rfl
@[simp] theorem modRef_evc (i : RefInput) (f : RefIn → RefIn) (s : State) : (modRef i f s).evc = s.evc := rfl
@[simp] theorem modRef_xch (i : RefInput) (f : RefIn → RefIn) (s : State) : (modRef i f s).xch = s.xch := rfl
@[simp] theorem modRef_mem (i : RefInput) (f : RefIn → RefIn) (s : State) : (modRef i f s).mem = s.mem := rfl
@[simp] theorem modRef_pending (i : RefInput) (f : RefIn → RefIn) (s : State) : (modRef i f s).pending = s.pending := rfl

@[simp] theorem modLink_lnk (p : Port) (f : LinkPort → LinkPort) (s : State) : (modLink p f s).lnk = modPort p f s.lnk := rfl
/-- `modLink` leaves every other part as it is. -/
@[simp] theorem modLink_tbs (p : Port) (f : LinkPort → LinkPort) (s : State) : (modLink p f s).tbs = s.tbs := rfl
@[simp] theorem modLink_rfi (p : Port) (f : LinkPort → LinkPort) (s : State) : (modLink p f s).rfi = s.rfi := rfl
@[simp] theorem modLink_dsv (p : Port) (f : LinkPort → LinkPort) (s : State) : (modLink p f s).dsv = s.dsv := rfl
@[simp] theorem modLink_crs (p : Port) (f : LinkPort → LinkPort) (s : State) : (modLink p f s).crs = s.crs := rfl
@[simp] theorem modLink_rng (p : Port) (f : LinkPort → LinkPort) (s : State) : (modLink p f s).rng = s.rng := rfl
@[simp] theorem modLink_bcu (p : Port) (f : LinkPort → LinkPort) (s : State) : (modLink p f s).bcu = s.bcu := rfl
@[simp] theorem modLink_pou (p : Port) (f : LinkPort → LinkPort) (s : State) : (modLink p f s).pou = s.pou := rfl
@[simp] theorem modLink_evc (p : Port) (f : LinkPort → LinkPort) (s : State) : (modLink p f s).evc = s.evc := rfl
@[simp] theorem modLink_xch (p : Port) (f : LinkPort → LinkPort) (s : State) : (modLink p f s).xch = s.xch := rfl
@[simp] theorem modLink_mem (p : Port) (f : LinkPort → LinkPort) (s : State) : (modLink p f s).mem = s.mem := rfl
@[simp] theorem modLink_pending (p : Port) (f : LinkPort → LinkPort) (s : State) : (modLink p f s).pending = s.pending := rfl

@[simp] theorem modRange_rng (p : Port) (f : RangePort → RangePort) (s : State) : (modRange p f s).rng = { s.rng with ports := modPort p f s.rng.ports } := rfl
/-- `modRange` leaves every other part as it is. -/
@[simp] theorem modRange_tbs (p : Port) (f : RangePort → RangePort) (s : State) : (modRange p f s).tbs = s.tbs := rfl
@[simp] theorem modRange_rfi (p : Port) (f : RangePort → RangePort) (s : State) : (modRange p f s).rfi = s.rfi := rfl
@[simp] theorem modRange_dsv (p : Port) (f : RangePort → RangePort) (s : State) : (modRange p f s).dsv = s.dsv := rfl
@[simp] theorem modRange_lnk (p : Port) (f : RangePort → RangePort) (s : State) : (modRange p f s).lnk = s.lnk := rfl
@[simp] theorem modRange_crs (p : Port) (f : RangePort → RangePort) (s : State) : (modRange p f s).crs = s.crs := rfl
@[simp] theorem modRange_bcu (p : Port) (f : RangePort → RangePort) (s : State) : (modRange p f s).bcu = s.bcu := rfl
@[simp] theorem modRange_pou (p : Port) (f : RangePort → RangePort) (s : State) : (modRange p f s).pou = s.pou := rfl
@[simp] theorem modRange_evc (p : Port) (f : RangePort → RangePort) (s : State) : (modRange p f s).evc = s.evc := rfl
@[simp] theorem modRange_xch (p : Port) (f : RangePort → RangePort) (s : State) : (modRange p f s).xch = s.xch := rfl
@[simp] theorem modRange_mem (p : Port) (f : RangePort → RangePort) (s : State) : (modRange p f s).mem = s.mem := rfl
@[simp] theorem modRange_pending (p : Port) (f : RangePort → RangePort) (s : State) : (modRange p f s).pending = s.pending := rfl

@[simp] theorem modBeacon_bcu (p : Port) (f : BeaconPort → BeaconPort) (s : State) : (modBeacon p f s).bcu = { s.bcu with ports := modPort p f s.bcu.ports } := rfl
/-- `modBeacon` leaves every other part as it is. -/
@[simp] theorem modBeacon_tbs (p : Port) (f : BeaconPort → BeaconPort) (s : State) : (modBeacon p f s).tbs = s.tbs := rfl
@[simp] theorem modBeacon_rfi (p : Port) (f : BeaconPort → BeaconPort) (s : State) : (modBeacon p f s).rfi = s.rfi := rfl
@[simp] theorem modBeacon_dsv (p : Port) (f : BeaconPort → BeaconPort) (s : State) : (modBeacon p f s).dsv = s.dsv := rfl
@[simp] theorem modBeacon_lnk (p : Port) (f : BeaconPort → BeaconPort) (s : State) : (modBeacon p f s).lnk = s.lnk := rfl
@[simp] theorem modBeacon_crs (p : Port) (f : BeaconPort → BeaconPort) (s : State) : (modBeacon p f s).crs = s.crs := rfl
@[simp] theorem modBeacon_rng (p : Port) (f : BeaconPort → BeaconPort) (s : State) : (modBeacon p f s).rng = s.rng := rfl
@[simp] theorem modBeacon_pou (p : Port) (f : BeaconPort → BeaconPort) (s : State) : (modBeacon p f s).pou = s.pou := rfl
@[simp] theorem modBeacon_evc (p : Port) (f : BeaconPort → BeaconPort) (s : State) : (modBeacon p f s).evc = s.evc := rfl
@[simp] theorem modBeacon_xch (p : Port) (f : BeaconPort → BeaconPort) (s : State) : (modBeacon p f s).xch = s.xch := rfl
@[simp] theorem modBeacon_mem (p : Port) (f : BeaconPort → BeaconPort) (s : State) : (modBeacon p f s).mem = s.mem := rfl
@[simp] theorem modBeacon_pending (p : Port) (f : BeaconPort → BeaconPort) (s : State) : (modBeacon p f s).pending = s.pending := rfl

@[simp] theorem modChannel_pou (c : Nat) (f : Channel → Channel) (s : State) : (modChannel c f s).pou = { s.pou with channels := s.pou.channels.modify c f } := rfl
/-- `modChannel` leaves every other part as it is. -/
@[simp] theorem modChannel_tbs (c : Nat) (f : Channel → Channel) (s : State) : (modChannel c f s).tbs = s.tbs := rfl
@[simp] theorem modChannel_rfi (c : Nat) (f : Channel → Channel) (s : State) : (modChannel c f s).rfi = s.rfi := rfl
@[simp] theorem modChannel_dsv (c : Nat) (f : Channel → Channel) (s : State) : (modChannel c f s).dsv = s.dsv := rfl
@[simp] theorem modChannel_lnk (c : Nat) (f : Channel → Channel) (s : State) : (modChannel c f s).lnk = s.lnk := rfl
@[simp] theorem modChannel_crs (c : Nat) (f : Channel → Channel) (s : State) : (modChannel c f s).crs = s.crs := rfl
@[simp] theorem modChannel_rng (c : Nat) (f : Channel → Channel) (s : State) : (modChannel c f s).rng = s.rng := rfl
@[simp] theorem modChannel_bcu (c : Nat) (f : Channel → Channel) (s : State) : (modChannel c f s).bcu = s.bcu := rfl
@[simp] theorem modChannel_evc (c : Nat) (f : Channel → Channel) (s : State) : (modChannel c f s).evc = s.evc := rfl
@[simp] theorem modChannel_xch (c : Nat) (f : Channel → Channel) (s : State) : (modChannel c f s).xch = s.xch := rfl
@[simp] theorem modChannel_mem (c : Nat) (f : Channel → Channel) (s : State) : (modChannel c f s).mem = s.mem := rfl
@[simp] theorem modChannel_pending (c : Nat) (f : Channel → Channel) (s : State) : (modChannel c f s).pending = s.pending := rfl

@[simp] theorem modCapture_evc (i : Nat) (f : CaptureIn → CaptureIn) (s : State) : (modCapture i f s).evc = s.evc.modify i f := rfl
/-- `modCapture` leaves every other part as it is. -/
@[simp] theorem modCapture_tbs (i : Nat) (f : CaptureIn → CaptureIn) (s : State) : (modCapture i f s).tbs = s.tbs := rfl
@[simp] theorem modCapture_rfi (i : Nat) (f : CaptureIn → CaptureIn) (s : State) : (modCapture i f s).rfi = s.rfi := rfl
@[simp] theorem modCapture_dsv (i : Nat) (f : CaptureIn → CaptureIn) (s : State) : (modCapture i f s).dsv = s.dsv := rfl
@[simp] theorem modCapture_lnk (i : Nat) (f : CaptureIn → CaptureIn) (s : State) : (modCapture i f s).lnk = s.lnk := rfl
@[simp] theorem modCapture_crs (i : Nat) (f : CaptureIn → CaptureIn) (s : State) : (modCapture i f s).crs = s.crs := rfl
@[simp] theorem modCapture_rng (i : Nat) (f : CaptureIn → CaptureIn) (s : State) : (modCapture i f s).rng = s.rng := rfl
@[simp] theorem modCapture_bcu (i : Nat) (f : CaptureIn → CaptureIn) (s : State) : (modCapture i f s).bcu = s.bcu := rfl
@[simp] theorem modCapture_pou (i : Nat) (f : CaptureIn → CaptureIn) (s : State) : (modCapture i f s).pou = s.pou := rfl
@[simp] theorem modCapture_xch (i : Nat) (f : CaptureIn → CaptureIn) (s : State) : (modCapture i f s).xch = s.xch := rfl
@[simp] theorem modCapture_mem (i : Nat) (f : CaptureIn → CaptureIn) (s : State) : (modCapture i f s).mem = s.mem := rfl
@[simp] theorem modCapture_pending (i : Nat) (f : CaptureIn → CaptureIn) (s : State) : (modCapture i f s).pending = s.pending := rfl

@[simp] theorem modClient_crs (n : Nat) (f : Client → Client) (s : State) : (modClient n f s).crs = { s.crs with clients := s.crs.clients.modify n f } := rfl
/-- `modClient` leaves every other part as it is. -/
@[simp] theorem modClient_tbs (n : Nat) (f : Client → Client) (s : State) : (modClient n f s).tbs = s.tbs := rfl
@[simp] theorem modClient_rfi (n : Nat) (f : Client → Client) (s : State) : (modClient n f s).rfi = s.rfi := rfl
@[simp] theorem modClient_dsv (n : Nat) (f : Client → Client) (s : State) : (modClient n f s).dsv = s.dsv := rfl
@[simp] theorem modClient_lnk (n : Nat) (f : Client → Client) (s : State) : (modClient n f s).lnk = s.lnk := rfl
@[simp] theorem modClient_rng (n : Nat) (f : Client → Client) (s : State) : (modClient n f s).rng = s.rng := rfl
@[simp] theorem modClient_bcu (n : Nat) (f : Client → Client) (s : State) : (modClient n f s).bcu = s.bcu := rfl
@[simp] theorem modClient_pou (n : Nat) (f : Client → Client) (s : State) : (modClient n f s).pou = s.pou := rfl
@[simp] theorem modClient_evc (n : Nat) (f : Client → Client) (s : State) : (modClient n f s).evc = s.evc := rfl
@[simp] theorem modClient_xch (n : Nat) (f : Client → Client) (s : State) : (modClient n f s).xch = s.xch := rfl
@[simp] theorem modClient_mem (n : Nat) (f : Client → Client) (s : State) : (modClient n f s).mem = s.mem := rfl
@[simp] theorem modClient_pending (n : Nat) (f : Client → Client) (s : State) : (modClient n f s).pending = s.pending := rfl

@[simp] theorem modPath_tbs (n : Nat) (p : Port) (f : Path → Path) (s : State) : (modPath n p f s).tbs = s.tbs := rfl
@[simp] theorem modPath_rfi (n : Nat) (p : Port) (f : Path → Path) (s : State) : (modPath n p f s).rfi = s.rfi := rfl
@[simp] theorem modPath_dsv (n : Nat) (p : Port) (f : Path → Path) (s : State) : (modPath n p f s).dsv = s.dsv := rfl
@[simp] theorem modPath_lnk (n : Nat) (p : Port) (f : Path → Path) (s : State) : (modPath n p f s).lnk = s.lnk := rfl
@[simp] theorem modPath_rng (n : Nat) (p : Port) (f : Path → Path) (s : State) : (modPath n p f s).rng = s.rng := rfl
@[simp] theorem modPath_bcu (n : Nat) (p : Port) (f : Path → Path) (s : State) : (modPath n p f s).bcu = s.bcu := rfl
@[simp] theorem modPath_pou (n : Nat) (p : Port) (f : Path → Path) (s : State) : (modPath n p f s).pou = s.pou := rfl
@[simp] theorem modPath_evc (n : Nat) (p : Port) (f : Path → Path) (s : State) : (modPath n p f s).evc = s.evc := rfl
@[simp] theorem modPath_xch (n : Nat) (p : Port) (f : Path → Path) (s : State) : (modPath n p f s).xch = s.xch := rfl
@[simp] theorem modPath_mem (n : Nat) (p : Port) (f : Path → Path) (s : State) : (modPath n p f s).mem = s.mem := rfl
@[simp] theorem modPath_pending (n : Nat) (p : Port) (f : Path → Path) (s : State) : (modPath n p f s).pending = s.pending := rfl

@[simp] theorem modPort_a_a {α : Type} (f : α → α) (x : Pair α) : (modPort .a f x).a = f x.a := rfl
@[simp] theorem modPort_a_b {α : Type} (f : α → α) (x : Pair α) : (modPort .a f x).b = x.b := rfl
@[simp] theorem modInput_a_a {α : Type} (f : α → α) (x : Pair α) : (modInput .a f x).a = f x.a := rfl
@[simp] theorem modInput_a_b {α : Type} (f : α → α) (x : Pair α) : (modInput .a f x).b = x.b := rfl
@[simp] theorem modPort_b_b {α : Type} (f : α → α) (x : Pair α) : (modPort .b f x).b = f x.b := rfl
@[simp] theorem modPort_b_a {α : Type} (f : α → α) (x : Pair α) : (modPort .b f x).a = x.a := rfl
@[simp] theorem modInput_b_b {α : Type} (f : α → α) (x : Pair α) : (modInput .b f x).b = f x.b := rfl
@[simp] theorem modInput_b_a {α : Type} (f : α → α) (x : Pair α) : (modInput .b f x).a = x.a := rfl

@[simp] theorem atPort_modPort {α : Type} (p : Port) (f : α → α) (x : Pair α) : atPort (modPort p f x) p = f (atPort x p) := by
  cases p <;> rfl

/-- Changing one port's member leaves the other's. -/
theorem atPort_modPort_ne {α : Type} {p q : Port} (h : q ≠ p) (f : α → α) (x : Pair α) :
    atPort (modPort p f x) q = atPort x q := by
  cases p <;> cases q <;> first | rfl | exact absurd rfl h

@[simp] theorem atInput_modInput {α : Type} (i : RefInput) (f : α → α) (x : Pair α) :
    atInput (modInput i f x) i = f (atInput x i) := by
  cases i <;> rfl

/-- Changing one input's member leaves the other's. -/
theorem atInput_modInput_ne {α : Type} {i j : RefInput} (h : j ≠ i) (f : α → α) (x : Pair α) :
    atInput (modInput i f x) j = atInput x j := by
  cases i <;> cases j <;> first | rfl | exact absurd rfl h

end Sys2Proof.Machine
end

