-- ==== Sys2Proof/Laws/Frames.lean ====
section
/-! SUPPORT. For every operation of the machine, the parts of the state that it leaves as they are. -/

namespace Sys2Proof.Machine

@[simp] theorem forEach_tbs {α : Type} (xs : List α) (f : α → State → State) (s : State)
    (h : ∀ x s, (f x s).tbs = s.tbs) : (forEach xs f s).tbs = s.tbs := by
  induction xs generalizing s with
  | nil => rfl
  | cons y ys ih => exact (ih (f y s)).trans (h y s)

@[simp] theorem forEach_rfi {α : Type} (xs : List α) (f : α → State → State) (s : State)
    (h : ∀ x s, (f x s).rfi = s.rfi) : (forEach xs f s).rfi = s.rfi := by
  induction xs generalizing s with
  | nil => rfl
  | cons y ys ih => exact (ih (f y s)).trans (h y s)

@[simp] theorem forEach_dsv {α : Type} (xs : List α) (f : α → State → State) (s : State)
    (h : ∀ x s, (f x s).dsv = s.dsv) : (forEach xs f s).dsv = s.dsv := by
  induction xs generalizing s with
  | nil => rfl
  | cons y ys ih => exact (ih (f y s)).trans (h y s)

@[simp] theorem forEach_lnk {α : Type} (xs : List α) (f : α → State → State) (s : State)
    (h : ∀ x s, (f x s).lnk = s.lnk) : (forEach xs f s).lnk = s.lnk := by
  induction xs generalizing s with
  | nil => rfl
  | cons y ys ih => exact (ih (f y s)).trans (h y s)

@[simp] theorem forEach_crs {α : Type} (xs : List α) (f : α → State → State) (s : State)
    (h : ∀ x s, (f x s).crs = s.crs) : (forEach xs f s).crs = s.crs := by
  induction xs generalizing s with
  | nil => rfl
  | cons y ys ih => exact (ih (f y s)).trans (h y s)

@[simp] theorem forEach_rng {α : Type} (xs : List α) (f : α → State → State) (s : State)
    (h : ∀ x s, (f x s).rng = s.rng) : (forEach xs f s).rng = s.rng := by
  induction xs generalizing s with
  | nil => rfl
  | cons y ys ih => exact (ih (f y s)).trans (h y s)

@[simp] theorem forEach_bcu {α : Type} (xs : List α) (f : α → State → State) (s : State)
    (h : ∀ x s, (f x s).bcu = s.bcu) : (forEach xs f s).bcu = s.bcu := by
  induction xs generalizing s with
  | nil => rfl
  | cons y ys ih => exact (ih (f y s)).trans (h y s)

@[simp] theorem forEach_pou {α : Type} (xs : List α) (f : α → State → State) (s : State)
    (h : ∀ x s, (f x s).pou = s.pou) : (forEach xs f s).pou = s.pou := by
  induction xs generalizing s with
  | nil => rfl
  | cons y ys ih => exact (ih (f y s)).trans (h y s)

@[simp] theorem forEach_evc {α : Type} (xs : List α) (f : α → State → State) (s : State)
    (h : ∀ x s, (f x s).evc = s.evc) : (forEach xs f s).evc = s.evc := by
  induction xs generalizing s with
  | nil => rfl
  | cons y ys ih => exact (ih (f y s)).trans (h y s)

@[simp] theorem forEach_xch {α : Type} (xs : List α) (f : α → State → State) (s : State)
    (h : ∀ x s, (f x s).xch = s.xch) : (forEach xs f s).xch = s.xch := by
  induction xs generalizing s with
  | nil => rfl
  | cons y ys ih => exact (ih (f y s)).trans (h y s)

@[simp] theorem forEach_mem {α : Type} (xs : List α) (f : α → State → State) (s : State)
    (h : ∀ x s, (f x s).mem = s.mem) : (forEach xs f s).mem = s.mem := by
  induction xs generalizing s with
  | nil => rfl
  | cons y ys ih => exact (ih (f y s)).trans (h y s)

@[simp] theorem forEach_pending {α : Type} (xs : List α) (f : α → State → State) (s : State)
    (h : ∀ x s, (f x s).pending = s.pending) : (forEach xs f s).pending = s.pending := by
  induction xs generalizing s with
  | nil => rfl
  | cons y ys ih => exact (ih (f y s)).trans (h y s)

@[simp] theorem handOver_tbs (src : OrderSrc) (o : Order) (owner : Nat → State → State) (s : State)
    (h : ∀ n s, (owner n s).tbs = s.tbs) : (handOver src o owner s).tbs = s.tbs := by
  unfold handOver; split
  · rw [h]; rfl
  · rfl

@[simp] theorem handOver_rfi (src : OrderSrc) (o : Order) (owner : Nat → State → State) (s : State)
    (h : ∀ n s, (owner n s).rfi = s.rfi) : (handOver src o owner s).rfi = s.rfi := by
  unfold handOver; split
  · rw [h]; rfl
  · rfl

@[simp] theorem handOver_dsv (src : OrderSrc) (o : Order) (owner : Nat → State → State) (s : State)
    (h : ∀ n s, (owner n s).dsv = s.dsv) : (handOver src o owner s).dsv = s.dsv := by
  unfold handOver; split
  · rw [h]; rfl
  · rfl

@[simp] theorem handOver_lnk (src : OrderSrc) (o : Order) (owner : Nat → State → State) (s : State)
    (h : ∀ n s, (owner n s).lnk = s.lnk) : (handOver src o owner s).lnk = s.lnk := by
  unfold handOver; split
  · rw [h]; rfl
  · rfl

@[simp] theorem handOver_crs (src : OrderSrc) (o : Order) (owner : Nat → State → State) (s : State)
    (h : ∀ n s, (owner n s).crs = s.crs) : (handOver src o owner s).crs = s.crs := by
  unfold handOver; split
  · rw [h]; rfl
  · rfl

@[simp] theorem handOver_rng (src : OrderSrc) (o : Order) (owner : Nat → State → State) (s : State)
    (h : ∀ n s, (owner n s).rng = s.rng) : (handOver src o owner s).rng = s.rng := by
  unfold handOver; split
  · rw [h]; rfl
  · rfl

@[simp] theorem handOver_bcu (src : OrderSrc) (o : Order) (owner : Nat → State → State) (s : State)
    (h : ∀ n s, (owner n s).bcu = s.bcu) : (handOver src o owner s).bcu = s.bcu := by
  unfold handOver; split
  · rw [h]; rfl
  · rfl

@[simp] theorem handOver_pou (src : OrderSrc) (o : Order) (owner : Nat → State → State) (s : State)
    (h : ∀ n s, (owner n s).pou = s.pou) : (handOver src o owner s).pou = s.pou := by
  unfold handOver; split
  · rw [h]; rfl
  · rfl

@[simp] theorem handOver_evc (src : OrderSrc) (o : Order) (owner : Nat → State → State) (s : State)
    (h : ∀ n s, (owner n s).evc = s.evc) : (handOver src o owner s).evc = s.evc := by
  unfold handOver; split
  · rw [h]; rfl
  · rfl

@[simp] theorem handOver_mem (src : OrderSrc) (o : Order) (owner : Nat → State → State) (s : State)
    (h : ∀ n s, (owner n s).mem = s.mem) : (handOver src o owner s).mem = s.mem := by
  unfold handOver; split
  · rw [h]; rfl
  · rfl

@[simp] theorem handOver_pending (src : OrderSrc) (o : Order) (owner : Nat → State → State) (s : State)
    (h : ∀ n s, (owner n s).pending = s.pending) : (handOver src o owner s).pending = s.pending := by
  unfold handOver; split
  · rw [h]; rfl
  · rfl

/-- Changes of channels, one after another, leave every other part as it is. -/
theorem forEach_channel_frame (xs : List Nat) (g : Channel → Channel) (s : State) :
    (forEach xs (fun c => modChannel c g) s).tbs = s.tbs ∧ (forEach xs (fun c => modChannel c g) s).rfi = s.rfi ∧
    (forEach xs (fun c => modChannel c g) s).dsv = s.dsv ∧ (forEach xs (fun c => modChannel c g) s).lnk = s.lnk ∧
    (forEach xs (fun c => modChannel c g) s).crs = s.crs ∧ (forEach xs (fun c => modChannel c g) s).rng = s.rng ∧
    (forEach xs (fun c => modChannel c g) s).bcu = s.bcu ∧ (forEach xs (fun c => modChannel c g) s).evc = s.evc ∧
    (forEach xs (fun c => modChannel c g) s).xch = s.xch ∧ (forEach xs (fun c => modChannel c g) s).mem = s.mem ∧
    (forEach xs (fun c => modChannel c g) s).pending = s.pending :=
  ⟨forEach_tbs _ _ _ (fun _ _ => rfl), forEach_rfi _ _ _ (fun _ _ => rfl),
    forEach_dsv _ _ _ (fun _ _ => rfl), forEach_lnk _ _ _ (fun _ _ => rfl), forEach_crs _ _ _ (fun _ _ => rfl),
    forEach_rng _ _ _ (fun _ _ => rfl), forEach_bcu _ _ _ (fun _ _ => rfl), forEach_evc _ _ _ (fun _ _ => rfl),
    forEach_xch _ _ _ (fun _ _ => rfl), forEach_mem _ _ _ (fun _ _ => rfl), forEach_pending _ _ _ (fun _ _ => rfl)⟩

@[simp] theorem stage_frame (body : JournalBody) (s : State) :
    (stage body s).tbs = s.tbs ∧ (stage body s).rfi = s.rfi ∧ (stage body s).dsv = s.dsv ∧
    (stage body s).lnk = s.lnk ∧ (stage body s).crs = s.crs ∧ (stage body s).rng = s.rng ∧
    (stage body s).bcu = s.bcu ∧ (stage body s).pou = s.pou ∧ (stage body s).evc = s.evc ∧
    (stage body s).mem = s.mem ∧ (stage body s).pending = s.pending := by
  unfold stage; (repeat' split) <;> simp

@[simp] theorem raiseCause_frame (c : Cause) (s : State) :
    (raiseCause c s).tbs = s.tbs ∧ (raiseCause c s).rfi = s.rfi ∧ (raiseCause c s).dsv = s.dsv ∧
    (raiseCause c s).lnk = s.lnk ∧ (raiseCause c s).crs = s.crs ∧ (raiseCause c s).rng = s.rng ∧
    (raiseCause c s).bcu = s.bcu ∧ (raiseCause c s).pou = s.pou ∧ (raiseCause c s).evc = s.evc ∧
    (raiseCause c s).mem = s.mem ∧ (raiseCause c s).pending = s.pending := by
  simp [raiseCause]

@[simp] theorem takeOrder_frame (slot : Nat) (cookie : BitVec 16) (o : Order) (s : State) :
    (takeOrder slot cookie o s).tbs = s.tbs ∧ (takeOrder slot cookie o s).rfi = s.rfi ∧
    (takeOrder slot cookie o s).dsv = s.dsv ∧ (takeOrder slot cookie o s).lnk = s.lnk ∧
    (takeOrder slot cookie o s).crs = s.crs ∧ (takeOrder slot cookie o s).rng = s.rng ∧
    (takeOrder slot cookie o s).bcu = s.bcu ∧ (takeOrder slot cookie o s).pou = s.pou ∧
    (takeOrder slot cookie o s).evc = s.evc ∧ (takeOrder slot cookie o s).mem = s.mem ∧
    (takeOrder slot cookie o s).pending = s.pending := by
  simp [takeOrder]

@[simp] theorem complete_frame (slot : Nat) (r : ResultCode) (data : List Byte) (s : State) :
    (complete slot r data s).tbs = s.tbs ∧ (complete slot r data s).rfi = s.rfi ∧
    (complete slot r data s).dsv = s.dsv ∧ (complete slot r data s).lnk = s.lnk ∧
    (complete slot r data s).crs = s.crs ∧ (complete slot r data s).rng = s.rng ∧
    (complete slot r data s).bcu = s.bcu ∧ (complete slot r data s).pou = s.pou ∧
    (complete slot r data s).evc = s.evc ∧ (complete slot r data s).mem = s.mem ∧
    (complete slot r data s).pending = s.pending := by
  simp [complete]

@[simp] theorem finish_frame (slot : Nat) (r : ResultCode) (s : State) :
    (finish slot r s).tbs = s.tbs ∧ (finish slot r s).rfi = s.rfi ∧ (finish slot r s).dsv = s.dsv ∧
    (finish slot r s).lnk = s.lnk ∧ (finish slot r s).crs = s.crs ∧ (finish slot r s).rng = s.rng ∧
    (finish slot r s).bcu = s.bcu ∧ (finish slot r s).pou = s.pou ∧ (finish slot r s).evc = s.evc ∧
    (finish slot r s).mem = s.mem ∧ (finish slot r s).pending = s.pending := by
  simp [finish]

@[simp] theorem queuePub_frame (n : Nat) (s : State) :
    (queuePub n s).tbs = s.tbs ∧ (queuePub n s).rfi = s.rfi ∧ (queuePub n s).dsv = s.dsv ∧
    (queuePub n s).lnk = s.lnk ∧ (queuePub n s).rng = s.rng ∧ (queuePub n s).bcu = s.bcu ∧
    (queuePub n s).pou = s.pou ∧ (queuePub n s).evc = s.evc ∧ (queuePub n s).xch = s.xch ∧
    (queuePub n s).mem = s.mem ∧ (queuePub n s).pending = s.pending := by
  simp [queuePub]

@[simp] theorem queueIfChanged_frame (n : Nat) (before : Client) (s : State) :
    (queueIfChanged n before s).tbs = s.tbs ∧ (queueIfChanged n before s).rfi = s.rfi ∧
    (queueIfChanged n before s).dsv = s.dsv ∧ (queueIfChanged n before s).lnk = s.lnk ∧
    (queueIfChanged n before s).rng = s.rng ∧ (queueIfChanged n before s).bcu = s.bcu ∧
    (queueIfChanged n before s).pou = s.pou ∧ (queueIfChanged n before s).evc = s.evc ∧
    (queueIfChanged n before s).xch = s.xch ∧ (queueIfChanged n before s).mem = s.mem ∧
    (queueIfChanged n before s).pending = s.pending := by
  unfold queueIfChanged; (repeat' split) <;> simp

@[simp] theorem joinRoll_frame (p : Port) (n : Nat) (s : State) :
    (joinRoll p n s).tbs = s.tbs ∧ (joinRoll p n s).rfi = s.rfi ∧ (joinRoll p n s).dsv = s.dsv ∧
    (joinRoll p n s).lnk = s.lnk ∧ (joinRoll p n s).crs = s.crs ∧ (joinRoll p n s).rng = s.rng ∧
    (joinRoll p n s).pou = s.pou ∧ (joinRoll p n s).evc = s.evc ∧ (joinRoll p n s).xch = s.xch ∧
    (joinRoll p n s).mem = s.mem ∧ (joinRoll p n s).pending = s.pending := by
  simp [joinRoll]

@[simp] theorem leaveRoll_frame (p : Port) (n : Nat) (s : State) :
    (leaveRoll p n s).tbs = s.tbs ∧ (leaveRoll p n s).rfi = s.rfi ∧ (leaveRoll p n s).dsv = s.dsv ∧
    (leaveRoll p n s).lnk = s.lnk ∧ (leaveRoll p n s).crs = s.crs ∧ (leaveRoll p n s).rng = s.rng ∧
    (leaveRoll p n s).pou = s.pou ∧ (leaveRoll p n s).evc = s.evc ∧ (leaveRoll p n s).xch = s.xch ∧
    (leaveRoll p n s).mem = s.mem ∧ (leaveRoll p n s).pending = s.pending := by
  simp [leaveRoll]

@[simp] theorem changeState_frame (n : Nat) (st : ClientState) (cause : ClientCause) (s : State) :
    (changeState n st cause s).tbs = s.tbs ∧ (changeState n st cause s).rfi = s.rfi ∧
    (changeState n st cause s).dsv = s.dsv ∧ (changeState n st cause s).lnk = s.lnk ∧
    (changeState n st cause s).rng = s.rng ∧ (changeState n st cause s).pou = s.pou ∧
    (changeState n st cause s).evc = s.evc ∧ (changeState n st cause s).mem = s.mem ∧
    (changeState n st cause s).pending = s.pending := by
  simp only [changeState]; (repeat' split) <;> simp_all

@[simp] theorem evaluate_frame (n : Nat) (cause : ClientCause) (s : State) :
    (evaluate n cause s).tbs = s.tbs ∧ (evaluate n cause s).rfi = s.rfi ∧ (evaluate n cause s).dsv = s.dsv ∧
    (evaluate n cause s).lnk = s.lnk ∧ (evaluate n cause s).rng = s.rng ∧ (evaluate n cause s).pou = s.pou ∧
    (evaluate n cause s).evc = s.evc ∧ (evaluate n cause s).mem = s.mem ∧ (evaluate n cause s).pending = s.pending := by
  simp only [evaluate]; (repeat' split) <;> simp_all

@[simp] theorem postServoStep_frame (delta : Int) (s : State) :
    (postServoStep delta s).rfi = s.rfi ∧ (postServoStep delta s).dsv = s.dsv ∧ (postServoStep delta s).lnk = s.lnk ∧
    (postServoStep delta s).crs = s.crs ∧ (postServoStep delta s).rng = s.rng ∧ (postServoStep delta s).bcu = s.bcu ∧
    (postServoStep delta s).pou = s.pou ∧ (postServoStep delta s).evc = s.evc ∧ (postServoStep delta s).mem = s.mem ∧
    (postServoStep delta s).pending = s.pending := by
  unfold postServoStep; (repeat' split) <;> simp

@[simp] theorem orderStep_frame (p : StepP) (slot : Nat) (s : State) :
    (orderStep p slot s).rfi = s.rfi ∧ (orderStep p slot s).dsv = s.dsv ∧ (orderStep p slot s).lnk = s.lnk ∧
    (orderStep p slot s).crs = s.crs ∧ (orderStep p slot s).rng = s.rng ∧ (orderStep p slot s).bcu = s.bcu ∧
    (orderStep p slot s).pou = s.pou ∧ (orderStep p slot s).evc = s.evc ∧ (orderStep p slot s).mem = s.mem ∧
    (orderStep p slot s).pending = s.pending := by
  simp only [orderStep]; (repeat' split) <;> simp_all

@[simp] theorem orderUtcSetup_frame (p : UtcSetupP) (slot : Nat) (s : State) :
    (orderUtcSetup p slot s).rfi = s.rfi ∧ (orderUtcSetup p slot s).dsv = s.dsv ∧
    (orderUtcSetup p slot s).lnk = s.lnk ∧ (orderUtcSetup p slot s).crs = s.crs ∧
    (orderUtcSetup p slot s).rng = s.rng ∧ (orderUtcSetup p slot s).bcu = s.bcu ∧
    (orderUtcSetup p slot s).pou = s.pou ∧ (orderUtcSetup p slot s).evc = s.evc ∧
    (orderUtcSetup p slot s).mem = s.mem ∧ (orderUtcSetup p slot s).pending = s.pending := by
  unfold orderUtcSetup; (repeat' split) <;> simp

@[simp] theorem tickTimer_frame (s : State) :
    (tickTimer s).tbs = s.tbs ∧ (tickTimer s).rfi = s.rfi ∧ (tickTimer s).dsv = s.dsv ∧ (tickTimer s).lnk = s.lnk ∧
    (tickTimer s).crs = s.crs ∧ (tickTimer s).rng = s.rng ∧ (tickTimer s).bcu = s.bcu ∧ (tickTimer s).pou = s.pou ∧
    (tickTimer s).evc = s.evc ∧ (tickTimer s).mem = s.mem ∧ (tickTimer s).pending = s.pending := by
  simp [tickTimer]

@[simp] theorem stepApplied_frame (r : Report) (s : State) :
    (stepApplied r s).rfi = s.rfi ∧ (stepApplied r s).dsv = s.dsv ∧ (stepApplied r s).lnk = s.lnk ∧
    (stepApplied r s).crs = s.crs ∧ (stepApplied r s).rng = s.rng ∧ (stepApplied r s).bcu = s.bcu ∧
    (stepApplied r s).pou = s.pou ∧ (stepApplied r s).evc = s.evc ∧ (stepApplied r s).mem = s.mem ∧
    (stepApplied r s).pending = s.pending := by
  unfold stepApplied; (repeat' split) <;> simp

@[simp] theorem applyLeap_frame (s : State) :
    (applyLeap s).rfi = s.rfi ∧ (applyLeap s).dsv = s.dsv ∧ (applyLeap s).lnk = s.lnk ∧ (applyLeap s).crs = s.crs ∧
    (applyLeap s).rng = s.rng ∧ (applyLeap s).bcu = s.bcu ∧ (applyLeap s).pou = s.pou ∧ (applyLeap s).evc = s.evc ∧
    (applyLeap s).mem = s.mem ∧ (applyLeap s).pending = s.pending := by
  unfold applyLeap; (repeat' split) <;> simp

@[simp] theorem tbsBoundary_frame (r : Report) (s : State) :
    (tbsBoundary r s).rfi = s.rfi ∧ (tbsBoundary r s).dsv = s.dsv ∧ (tbsBoundary r s).lnk = s.lnk ∧
    (tbsBoundary r s).crs = s.crs ∧ (tbsBoundary r s).rng = s.rng ∧ (tbsBoundary r s).bcu = s.bcu ∧
    (tbsBoundary r s).pou = s.pou ∧ (tbsBoundary r s).evc = s.evc ∧ (tbsBoundary r s).mem = s.mem ∧
    (tbsBoundary r s).pending = s.pending := by
  simp [tbsBoundary]

@[simp] theorem closeGate_frame (cause : GateCause) (s : State) :
    (closeGate cause s).tbs = s.tbs ∧ (closeGate cause s).rfi = s.rfi ∧ (closeGate cause s).dsv = s.dsv ∧
    (closeGate cause s).lnk = s.lnk ∧ (closeGate cause s).crs = s.crs ∧ (closeGate cause s).rng = s.rng ∧
    (closeGate cause s).bcu = s.bcu ∧ (closeGate cause s).evc = s.evc ∧ (closeGate cause s).mem = s.mem ∧
    (closeGate cause s).pending = s.pending := by
  unfold closeGate; (repeat' split) <;> simp

@[simp] theorem pouClass_frame (cls : Nat) (s : State) :
    (pouClass cls s).tbs = s.tbs ∧ (pouClass cls s).rfi = s.rfi ∧ (pouClass cls s).dsv = s.dsv ∧
    (pouClass cls s).lnk = s.lnk ∧ (pouClass cls s).crs = s.crs ∧ (pouClass cls s).rng = s.rng ∧
    (pouClass cls s).bcu = s.bcu ∧ (pouClass cls s).evc = s.evc ∧ (pouClass cls s).mem = s.mem ∧
    (pouClass cls s).pending = s.pending := by
  simp only [pouClass]; (repeat' split) <;> simp_all

@[simp] theorem orderGateSetup_frame (floor : Byte) (slot : Nat) (s : State) :
    (orderGateSetup floor slot s).tbs = s.tbs ∧ (orderGateSetup floor slot s).rfi = s.rfi ∧
    (orderGateSetup floor slot s).dsv = s.dsv ∧ (orderGateSetup floor slot s).lnk = s.lnk ∧
    (orderGateSetup floor slot s).crs = s.crs ∧ (orderGateSetup floor slot s).rng = s.rng ∧
    (orderGateSetup floor slot s).bcu = s.bcu ∧ (orderGateSetup floor slot s).evc = s.evc ∧
    (orderGateSetup floor slot s).mem = s.mem ∧ (orderGateSetup floor slot s).pending = s.pending := by
  simp only [orderGateSetup]; (repeat' split) <;> simp_all

@[simp] theorem orderGateOpen_frame (slot : Nat) (s : State) :
    (orderGateOpen slot s).tbs = s.tbs ∧ (orderGateOpen slot s).rfi = s.rfi ∧ (orderGateOpen slot s).dsv = s.dsv ∧
    (orderGateOpen slot s).lnk = s.lnk ∧ (orderGateOpen slot s).crs = s.crs ∧ (orderGateOpen slot s).rng = s.rng ∧
    (orderGateOpen slot s).bcu = s.bcu ∧ (orderGateOpen slot s).evc = s.evc ∧ (orderGateOpen slot s).mem = s.mem ∧
    (orderGateOpen slot s).pending = s.pending := by
  unfold orderGateOpen; (repeat' split) <;> simp

@[simp] theorem changeClass_frame (new : Nat) (s : State) :
    (changeClass new s).tbs = s.tbs ∧ (changeClass new s).rfi = s.rfi ∧ (changeClass new s).lnk = s.lnk ∧
    (changeClass new s).crs = s.crs ∧ (changeClass new s).rng = s.rng ∧ (changeClass new s).evc = s.evc ∧
    (changeClass new s).mem = s.mem ∧ (changeClass new s).pending = s.pending := by
  simp [changeClass]

@[simp] theorem applyCandidate_frame (cand : Nat) (s : State) :
    (applyCandidate cand s).tbs = s.tbs ∧ (applyCandidate cand s).rfi = s.rfi ∧ (applyCandidate cand s).lnk = s.lnk ∧
    (applyCandidate cand s).crs = s.crs ∧ (applyCandidate cand s).rng = s.rng ∧ (applyCandidate cand s).evc = s.evc ∧
    (applyCandidate cand s).mem = s.mem ∧ (applyCandidate cand s).pending = s.pending := by
  unfold applyCandidate; (repeat' split) <;> simp

@[simp] theorem evaluateClass_frame (s : State) :
    (evaluateClass s).tbs = s.tbs ∧ (evaluateClass s).rfi = s.rfi ∧ (evaluateClass s).lnk = s.lnk ∧
    (evaluateClass s).crs = s.crs ∧ (evaluateClass s).rng = s.rng ∧ (evaluateClass s).evc = s.evc ∧
    (evaluateClass s).mem = s.mem ∧ (evaluateClass s).pending = s.pending := by
  unfold evaluateClass; (repeat' split) <;> simp

@[simp] theorem enterServo_frame (new : ServoState) (cause : ServoCause) (s : State) :
    (enterServo new cause s).rfi = s.rfi ∧ (enterServo new cause s).lnk = s.lnk ∧
    (enterServo new cause s).crs = s.crs ∧ (enterServo new cause s).rng = s.rng ∧
    (enterServo new cause s).evc = s.evc ∧ (enterServo new cause s).mem = s.mem ∧
    (enterServo new cause s).pending = s.pending := by
  unfold enterServo; (repeat' split) <;> simp

@[simp] theorem takeNotice_frame (prev new : Option RefInput) (s : State) :
    (takeNotice prev new s).rfi = s.rfi ∧ (takeNotice prev new s).lnk = s.lnk ∧
    (takeNotice prev new s).crs = s.crs ∧ (takeNotice prev new s).rng = s.rng ∧
    (takeNotice prev new s).evc = s.evc ∧ (takeNotice prev new s).mem = s.mem ∧
    (takeNotice prev new s).pending = s.pending := by
  unfold takeNotice; (repeat' split) <;> simp

@[simp] theorem selectionNotice_frame (prev new : Option RefInput) (s : State) :
    (selectionNotice prev new s).rfi = s.rfi ∧ (selectionNotice prev new s).lnk = s.lnk ∧
    (selectionNotice prev new s).crs = s.crs ∧ (selectionNotice prev new s).rng = s.rng ∧
    (selectionNotice prev new s).evc = s.evc ∧ (selectionNotice prev new s).mem = s.mem ∧
    (selectionNotice prev new s).pending = s.pending := by
  simp [selectionNotice]

@[simp] theorem noteEstimate_frame (m : Mark) (s : State) :
    (noteEstimate m s).tbs = s.tbs ∧ (noteEstimate m s).rfi = s.rfi ∧ (noteEstimate m s).lnk = s.lnk ∧
    (noteEstimate m s).crs = s.crs ∧ (noteEstimate m s).rng = s.rng ∧ (noteEstimate m s).bcu = s.bcu ∧
    (noteEstimate m s).pou = s.pou ∧ (noteEstimate m s).evc = s.evc ∧ (noteEstimate m s).xch = s.xch ∧
    (noteEstimate m s).mem = s.mem ∧ (noteEstimate m s).pending = s.pending := by
  unfold noteEstimate; (repeat' split) <;> simp

@[simp] theorem servoStep_frame (delta : Int) (s : State) :
    (servoStep delta s).rfi = s.rfi ∧ (servoStep delta s).lnk = s.lnk ∧ (servoStep delta s).crs = s.crs ∧
    (servoStep delta s).rng = s.rng ∧ (servoStep delta s).bcu = s.bcu ∧ (servoStep delta s).pou = s.pou ∧
    (servoStep delta s).evc = s.evc ∧ (servoStep delta s).mem = s.mem ∧ (servoStep delta s).pending = s.pending := by
  simp [servoStep]

@[simp] theorem correct_frame (e : Int) (kp ki : Nat) (s : State) :
    (correct e kp ki s).rfi = s.rfi ∧ (correct e kp ki s).dsv = s.dsv ∧ (correct e kp ki s).lnk = s.lnk ∧
    (correct e kp ki s).crs = s.crs ∧ (correct e kp ki s).rng = s.rng ∧ (correct e kp ki s).bcu = s.bcu ∧
    (correct e kp ki s).pou = s.pou ∧ (correct e kp ki s).evc = s.evc ∧ (correct e kp ki s).xch = s.xch ∧
    (correct e kp ki s).mem = s.mem ∧ (correct e kp ki s).pending = s.pending := by
  simp [correct]

@[simp] theorem countLock_frame (e : Int) (s : State) :
    (countLock e s).rfi = s.rfi ∧ (countLock e s).lnk = s.lnk ∧ (countLock e s).crs = s.crs ∧
    (countLock e s).rng = s.rng ∧ (countLock e s).evc = s.evc ∧ (countLock e s).mem = s.mem ∧
    (countLock e s).pending = s.pending := by
  unfold countLock; (repeat' split) <;> simp

@[simp] theorem acquireMark_frame (m : Mark) (s : State) :
    (acquireMark m s).rfi = s.rfi ∧ (acquireMark m s).lnk = s.lnk ∧ (acquireMark m s).crs = s.crs ∧
    (acquireMark m s).rng = s.rng ∧ (acquireMark m s).evc = s.evc ∧ (acquireMark m s).mem = s.mem ∧
    (acquireMark m s).pending = s.pending := by
  simp only [acquireMark]; (repeat' split) <;> simp_all

@[simp] theorem gateMark_frame (m : Mark) (s : State) :
    (gateMark m s).rfi = s.rfi ∧ (gateMark m s).lnk = s.lnk ∧ (gateMark m s).crs = s.crs ∧
    (gateMark m s).rng = s.rng ∧ (gateMark m s).evc = s.evc ∧ (gateMark m s).mem = s.mem ∧
    (gateMark m s).pending = s.pending := by
  simp only [gateMark]; (repeat' split) <;> simp_all

@[simp] theorem trackMark_frame (m : Mark) (s : State) :
    (trackMark m s).rfi = s.rfi ∧ (trackMark m s).lnk = s.lnk ∧ (trackMark m s).crs = s.crs ∧
    (trackMark m s).rng = s.rng ∧ (trackMark m s).evc = s.evc ∧ (trackMark m s).mem = s.mem ∧
    (trackMark m s).pending = s.pending := by
  simp only [trackMark]; (repeat' split) <;> simp_all

@[simp] theorem handleMark_frame (m : Mark) (s : State) :
    (handleMark m s).rfi = s.rfi ∧ (handleMark m s).lnk = s.lnk ∧ (handleMark m s).crs = s.crs ∧
    (handleMark m s).rng = s.rng ∧ (handleMark m s).evc = s.evc ∧ (handleMark m s).mem = s.mem ∧
    (handleMark m s).pending = s.pending := by
  unfold handleMark; (repeat' split) <;> simp

@[simp] theorem dsvBoundary_frame (s : State) :
    (dsvBoundary s).rfi = s.rfi ∧ (dsvBoundary s).lnk = s.lnk ∧ (dsvBoundary s).crs = s.crs ∧
    (dsvBoundary s).rng = s.rng ∧ (dsvBoundary s).evc = s.evc ∧ (dsvBoundary s).mem = s.mem ∧
    (dsvBoundary s).pending = s.pending := by
  simp only [dsvBoundary]; (repeat' split) <;> simp_all

@[simp] theorem orderServoSetup_frame (p : ServoSetupP) (slot : Nat) (s : State) :
    (orderServoSetup p slot s).tbs = s.tbs ∧ (orderServoSetup p slot s).rfi = s.rfi ∧
    (orderServoSetup p slot s).lnk = s.lnk ∧ (orderServoSetup p slot s).crs = s.crs ∧
    (orderServoSetup p slot s).rng = s.rng ∧ (orderServoSetup p slot s).bcu = s.bcu ∧
    (orderServoSetup p slot s).pou = s.pou ∧ (orderServoSetup p slot s).evc = s.evc ∧
    (orderServoSetup p slot s).mem = s.mem ∧ (orderServoSetup p slot s).pending = s.pending := by
  simp [orderServoSetup]

@[simp] theorem updateRevert_frame (s : State) :
    (updateRevert s).tbs = s.tbs ∧ (updateRevert s).dsv = s.dsv ∧ (updateRevert s).lnk = s.lnk ∧
    (updateRevert s).crs = s.crs ∧ (updateRevert s).rng = s.rng ∧ (updateRevert s).bcu = s.bcu ∧
    (updateRevert s).pou = s.pou ∧ (updateRevert s).evc = s.evc ∧ (updateRevert s).xch = s.xch ∧
    (updateRevert s).mem = s.mem ∧ (updateRevert s).pending = s.pending := by
  unfold updateRevert; (repeat' split) <;> simp

@[simp] theorem applySelection_frame (mode : SelMode) (active : Option RefInput) (cause : RefChangeCause) (s : State) :
    (applySelection mode active cause s).lnk = s.lnk ∧ (applySelection mode active cause s).crs = s.crs ∧
    (applySelection mode active cause s).rng = s.rng ∧ (applySelection mode active cause s).evc = s.evc ∧
    (applySelection mode active cause s).mem = s.mem ∧ (applySelection mode active cause s).pending = s.pending := by
  simp only [applySelection]; (repeat' split) <;> simp_all

@[simp] theorem reselect_frame (cause : RefChangeCause) (s : State) :
    (reselect cause s).lnk = s.lnk ∧ (reselect cause s).crs = s.crs ∧ (reselect cause s).rng = s.rng ∧
    (reselect cause s).evc = s.evc ∧ (reselect cause s).mem = s.mem ∧ (reselect cause s).pending = s.pending := by
  unfold reselect; (repeat' split) <;> simp

@[simp] theorem changeQual_frame (i : RefInput) (new : Qual) (cause : RefStateCause) (s : State) :
    (changeQual i new cause s).tbs = s.tbs ∧ (changeQual i new cause s).dsv = s.dsv ∧
    (changeQual i new cause s).lnk = s.lnk ∧ (changeQual i new cause s).crs = s.crs ∧
    (changeQual i new cause s).rng = s.rng ∧ (changeQual i new cause s).bcu = s.bcu ∧
    (changeQual i new cause s).pou = s.pou ∧ (changeQual i new cause s).evc = s.evc ∧
    (changeQual i new cause s).mem = s.mem ∧ (changeQual i new cause s).pending = s.pending := by
  unfold changeQual; (repeat' split) <;> simp

@[simp] theorem reselectIfChanged_frame (i : RefInput) (was : Bool) (s : State) :
    (reselectIfChanged i was s).lnk = s.lnk ∧ (reselectIfChanged i was s).crs = s.crs ∧
    (reselectIfChanged i was s).rng = s.rng ∧ (reselectIfChanged i was s).evc = s.evc ∧
    (reselectIfChanged i was s).mem = s.mem ∧ (reselectIfChanged i was s).pending = s.pending := by
  unfold reselectIfChanged; (repeat' split) <;> simp

@[simp] theorem applyJudgement_frame (i : RefInput) (good : Bool) (s : State) :
    (applyJudgement i good s).tbs = s.tbs ∧ (applyJudgement i good s).dsv = s.dsv ∧
    (applyJudgement i good s).lnk = s.lnk ∧ (applyJudgement i good s).crs = s.crs ∧
    (applyJudgement i good s).rng = s.rng ∧ (applyJudgement i good s).bcu = s.bcu ∧
    (applyJudgement i good s).pou = s.pou ∧ (applyJudgement i good s).evc = s.evc ∧
    (applyJudgement i good s).mem = s.mem ∧ (applyJudgement i good s).pending = s.pending := by
  simp only [applyJudgement]; (repeat' split) <;> simp_all

@[simp] theorem judgeMark_frame (i : RefInput) (cls : WidthClass) (msg : Option RefMsg) (s : State) :
    (judgeMark i cls msg s).tbs = s.tbs ∧ (judgeMark i cls msg s).dsv = s.dsv ∧ (judgeMark i cls msg s).lnk = s.lnk ∧
    (judgeMark i cls msg s).crs = s.crs ∧ (judgeMark i cls msg s).rng = s.rng ∧ (judgeMark i cls msg s).bcu = s.bcu ∧
    (judgeMark i cls msg s).pou = s.pou ∧ (judgeMark i cls msg s).evc = s.evc ∧ (judgeMark i cls msg s).mem = s.mem ∧
    (judgeMark i cls msg s).pending = s.pending := by
  unfold judgeMark; (repeat' split) <;> simp

@[simp] theorem compareUtc_frame (i : RefInput) (m : RefMsg) (s : State) :
    (compareUtc i m s).tbs = s.tbs ∧ (compareUtc i m s).dsv = s.dsv ∧ (compareUtc i m s).lnk = s.lnk ∧
    (compareUtc i m s).crs = s.crs ∧ (compareUtc i m s).rng = s.rng ∧ (compareUtc i m s).bcu = s.bcu ∧
    (compareUtc i m s).pou = s.pou ∧ (compareUtc i m s).evc = s.evc ∧ (compareUtc i m s).mem = s.mem ∧
    (compareUtc i m s).pending = s.pending := by
  simp only [compareUtc]; (repeat' split) <;> simp_all

@[simp] theorem handOn_frame (i : RefInput) (rise : Nat) (cls : WidthClass) (msg : Option RefMsg) (s : State) :
    (handOn i rise cls msg s).lnk = s.lnk ∧ (handOn i rise cls msg s).crs = s.crs ∧
    (handOn i rise cls msg s).rng = s.rng ∧ (handOn i rise cls msg s).evc = s.evc ∧
    (handOn i rise cls msg s).mem = s.mem ∧ (handOn i rise cls msg s).pending = s.pending := by
  unfold handOn; (repeat' split) <;> simp

@[simp] theorem acceptMark_frame (i : RefInput) (rise : Nat) (cls : WidthClass) (msg : Option RefMsg) (s : State) :
    (acceptMark i rise cls msg s).lnk = s.lnk ∧ (acceptMark i rise cls msg s).crs = s.crs ∧
    (acceptMark i rise cls msg s).rng = s.rng ∧ (acceptMark i rise cls msg s).evc = s.evc ∧
    (acceptMark i rise cls msg s).mem = s.mem ∧ (acceptMark i rise cls msg s).pending = s.pending := by
  simp [acceptMark]

@[simp] theorem classifiedPulse_frame (i : RefInput) (rise : Nat) (cls : WidthClass) (s : State) :
    (classifiedPulse i rise cls s).lnk = s.lnk ∧ (classifiedPulse i rise cls s).crs = s.crs ∧
    (classifiedPulse i rise cls s).rng = s.rng ∧ (classifiedPulse i rise cls s).evc = s.evc ∧
    (classifiedPulse i rise cls s).mem = s.mem ∧ (classifiedPulse i rise cls s).pending = s.pending := by
  simp only [classifiedPulse]; (repeat' split) <;> simp_all

@[simp] theorem makeStuck_frame (i : RefInput) (high : Bool) (rise : Nat) (s : State) :
    (makeStuck i high rise s).tbs = s.tbs ∧ (makeStuck i high rise s).dsv = s.dsv ∧
    (makeStuck i high rise s).lnk = s.lnk ∧ (makeStuck i high rise s).crs = s.crs ∧
    (makeStuck i high rise s).rng = s.rng ∧ (makeStuck i high rise s).bcu = s.bcu ∧
    (makeStuck i high rise s).pou = s.pou ∧ (makeStuck i high rise s).evc = s.evc ∧
    (makeStuck i high rise s).mem = s.mem ∧ (makeStuck i high rise s).pending = s.pending := by
  simp [makeStuck]

@[simp] theorem pulseRise_frame (i : RefInput) (at_ : Instant) (s : State) :
    (pulseRise i at_ s).tbs = s.tbs ∧ (pulseRise i at_ s).dsv = s.dsv ∧ (pulseRise i at_ s).lnk = s.lnk ∧
    (pulseRise i at_ s).crs = s.crs ∧ (pulseRise i at_ s).rng = s.rng ∧ (pulseRise i at_ s).bcu = s.bcu ∧
    (pulseRise i at_ s).pou = s.pou ∧ (pulseRise i at_ s).evc = s.evc ∧ (pulseRise i at_ s).xch = s.xch ∧
    (pulseRise i at_ s).mem = s.mem ∧ (pulseRise i at_ s).pending = s.pending := by
  simp only [pulseRise]; (repeat' split) <;> simp_all

@[simp] theorem endPulse_frame (i : RefInput) (p : RefPulse) (fall : Nat) (s : State) :
    (endPulse i p fall s).lnk = s.lnk ∧ (endPulse i p fall s).crs = s.crs ∧ (endPulse i p fall s).rng = s.rng ∧
    (endPulse i p fall s).evc = s.evc ∧ (endPulse i p fall s).mem = s.mem ∧ (endPulse i p fall s).pending = s.pending := by
  simp only [endPulse]; (repeat' split) <;> simp_all

@[simp] theorem pulseFall_frame (i : RefInput) (at_ : Instant) (s : State) :
    (pulseFall i at_ s).lnk = s.lnk ∧ (pulseFall i at_ s).crs = s.crs ∧ (pulseFall i at_ s).rng = s.rng ∧
    (pulseFall i at_ s).evc = s.evc ∧ (pulseFall i at_ s).mem = s.mem ∧ (pulseFall i at_ s).pending = s.pending := by
  unfold pulseFall; (repeat' split) <;> simp

@[simp] theorem badMessage_frame (i : RefInput) (s : State) :
    (badMessage i s).tbs = s.tbs ∧ (badMessage i s).dsv = s.dsv ∧ (badMessage i s).lnk = s.lnk ∧
    (badMessage i s).crs = s.crs ∧ (badMessage i s).rng = s.rng ∧ (badMessage i s).bcu = s.bcu ∧
    (badMessage i s).pou = s.pou ∧ (badMessage i s).evc = s.evc ∧ (badMessage i s).xch = s.xch ∧
    (badMessage i s).mem = s.mem ∧ (badMessage i s).pending = s.pending := by
  simp [badMessage]

@[simp] theorem completeMessage_frame (i : RefInput) (m : RefMsg) (s : State) :
    (completeMessage i m s).tbs = s.tbs ∧ (completeMessage i m s).dsv = s.dsv ∧ (completeMessage i m s).lnk = s.lnk ∧
    (completeMessage i m s).crs = s.crs ∧ (completeMessage i m s).rng = s.rng ∧ (completeMessage i m s).bcu = s.bcu ∧
    (completeMessage i m s).pou = s.pou ∧ (completeMessage i m s).evc = s.evc ∧ (completeMessage i m s).mem = s.mem ∧
    (completeMessage i m s).pending = s.pending := by
  unfold completeMessage; (repeat' split) <;> simp

@[simp] theorem messageChar_frame (i : RefInput) (c : Character) (s : State) :
    (messageChar i c s).tbs = s.tbs ∧ (messageChar i c s).dsv = s.dsv ∧ (messageChar i c s).lnk = s.lnk ∧
    (messageChar i c s).crs = s.crs ∧ (messageChar i c s).rng = s.rng ∧ (messageChar i c s).bcu = s.bcu ∧
    (messageChar i c s).pou = s.pou ∧ (messageChar i c s).evc = s.evc ∧ (messageChar i c s).mem = s.mem ∧
    (messageChar i c s).pending = s.pending := by
  simp only [messageChar]; (repeat' split) <;> simp_all

@[simp] theorem orderSetRef_frame (mode : Byte) (slot : Nat) (s : State) :
    (orderSetRef mode slot s).lnk = s.lnk ∧ (orderSetRef mode slot s).crs = s.crs ∧
    (orderSetRef mode slot s).rng = s.rng ∧ (orderSetRef mode slot s).evc = s.evc ∧
    (orderSetRef mode slot s).mem = s.mem ∧ (orderSetRef mode slot s).pending = s.pending := by
  simp only [orderSetRef]; (repeat' split) <;> simp_all

@[simp] theorem refEnableEffect_frame (i : RefInput) (enable baudChanged : Bool) (s : State) :
    (refEnableEffect i enable baudChanged s).lnk = s.lnk ∧ (refEnableEffect i enable baudChanged s).crs = s.crs ∧
    (refEnableEffect i enable baudChanged s).rng = s.rng ∧ (refEnableEffect i enable baudChanged s).evc = s.evc ∧
    (refEnableEffect i enable baudChanged s).mem = s.mem ∧
    (refEnableEffect i enable baudChanged s).pending = s.pending := by
  unfold refEnableEffect; (repeat' split) <;> simp

@[simp] theorem orderRefSetup_frame (p : RefSetupP) (slot : Nat) (s : State) :
    (orderRefSetup p slot s).lnk = s.lnk ∧ (orderRefSetup p slot s).crs = s.crs ∧
    (orderRefSetup p slot s).rng = s.rng ∧ (orderRefSetup p slot s).evc = s.evc ∧
    (orderRefSetup p slot s).mem = s.mem ∧ (orderRefSetup p slot s).pending = s.pending := by
  simp only [orderRefSetup]; (repeat' split) <;> simp_all

@[simp] theorem rfiStep_frame (d : Int) (s : State) :
    (rfiStep d s).tbs = s.tbs ∧ (rfiStep d s).dsv = s.dsv ∧ (rfiStep d s).lnk = s.lnk ∧ (rfiStep d s).crs = s.crs ∧
    (rfiStep d s).rng = s.rng ∧ (rfiStep d s).bcu = s.bcu ∧ (rfiStep d s).pou = s.pou ∧ (rfiStep d s).evc = s.evc ∧
    (rfiStep d s).xch = s.xch ∧ (rfiStep d s).mem = s.mem ∧ (rfiStep d s).pending = s.pending := by
  simp [rfiStep]

@[simp] theorem refreshRange_frame (p : Port) (s : State) :
    (refreshRange p s).tbs = s.tbs ∧ (refreshRange p s).rfi = s.rfi ∧ (refreshRange p s).dsv = s.dsv ∧
    (refreshRange p s).crs = s.crs ∧ (refreshRange p s).bcu = s.bcu ∧ (refreshRange p s).pou = s.pou ∧
    (refreshRange p s).evc = s.evc ∧ (refreshRange p s).xch = s.xch ∧ (refreshRange p s).mem = s.mem ∧
    (refreshRange p s).pending = s.pending := by
  simp [refreshRange]

@[simp] theorem refreshBoth_frame (s : State) :
    (refreshBoth s).tbs = s.tbs ∧ (refreshBoth s).rfi = s.rfi ∧ (refreshBoth s).dsv = s.dsv ∧
    (refreshBoth s).crs = s.crs ∧ (refreshBoth s).bcu = s.bcu ∧ (refreshBoth s).pou = s.pou ∧
    (refreshBoth s).evc = s.evc ∧ (refreshBoth s).xch = s.xch ∧ (refreshBoth s).mem = s.mem ∧
    (refreshBoth s).pending = s.pending := by
  simp [refreshBoth]

@[simp] theorem clearExpired_frame (n : Nat) (p : Port) (s : State) :
    (clearExpired n p s).tbs = s.tbs ∧ (clearExpired n p s).rfi = s.rfi ∧ (clearExpired n p s).dsv = s.dsv ∧
    (clearExpired n p s).lnk = s.lnk ∧ (clearExpired n p s).rng = s.rng ∧ (clearExpired n p s).bcu = s.bcu ∧
    (clearExpired n p s).pou = s.pou ∧ (clearExpired n p s).evc = s.evc ∧ (clearExpired n p s).xch = s.xch ∧
    (clearExpired n p s).mem = s.mem ∧ (clearExpired n p s).pending = s.pending := by
  simp [clearExpired]

@[simp] theorem voidPort_frame (p : Port) (s : State) :
    (voidPort p s).tbs = s.tbs ∧ (voidPort p s).rfi = s.rfi ∧ (voidPort p s).dsv = s.dsv ∧
    (voidPort p s).lnk = s.lnk ∧ (voidPort p s).bcu = s.bcu ∧ (voidPort p s).pou = s.pou ∧
    (voidPort p s).evc = s.evc ∧ (voidPort p s).xch = s.xch ∧ (voidPort p s).mem = s.mem ∧
    (voidPort p s).pending = s.pending := by
  simp [voidPort]

@[simp] theorem voidPath_frame (n : Nat) (p : Port) (s : State) :
    (voidPath n p s).tbs = s.tbs ∧ (voidPath n p s).rfi = s.rfi ∧ (voidPath n p s).dsv = s.dsv ∧
    (voidPath n p s).lnk = s.lnk ∧ (voidPath n p s).bcu = s.bcu ∧ (voidPath n p s).pou = s.pou ∧
    (voidPath n p s).evc = s.evc ∧ (voidPath n p s).xch = s.xch ∧ (voidPath n p s).mem = s.mem ∧
    (voidPath n p s).pending = s.pending := by
  unfold voidPath; (repeat' split) <;> simp

@[simp] theorem freeEntry_frame (p : Port) (tag : Byte) (s : State) :
    (freeEntry p tag s).tbs = s.tbs ∧ (freeEntry p tag s).rfi = s.rfi ∧ (freeEntry p tag s).dsv = s.dsv ∧
    (freeEntry p tag s).lnk = s.lnk ∧ (freeEntry p tag s).crs = s.crs ∧ (freeEntry p tag s).bcu = s.bcu ∧
    (freeEntry p tag s).pou = s.pou ∧ (freeEntry p tag s).evc = s.evc ∧ (freeEntry p tag s).xch = s.xch ∧
    (freeEntry p tag s).mem = s.mem ∧ (freeEntry p tag s).pending = s.pending := by
  simp [freeEntry]

@[simp] theorem expire_frame (p : Port) (tag : Byte) (e : Exchange) (s : State) :
    (expire p tag e s).tbs = s.tbs ∧ (expire p tag e s).rfi = s.rfi ∧ (expire p tag e s).dsv = s.dsv ∧
    (expire p tag e s).bcu = s.bcu ∧ (expire p tag e s).pou = s.pou ∧ (expire p tag e s).evc = s.evc ∧
    (expire p tag e s).xch = s.xch ∧ (expire p tag e s).mem = s.mem ∧ (expire p tag e s).pending = s.pending := by
  simp [expire]

@[simp] theorem reserve_frame (p : Port) (n : Nat) (tag : Byte) (s : State) :
    (reserve p n tag s).tbs = s.tbs ∧ (reserve p n tag s).rfi = s.rfi ∧ (reserve p n tag s).dsv = s.dsv ∧
    (reserve p n tag s).lnk = s.lnk ∧ (reserve p n tag s).crs = s.crs ∧ (reserve p n tag s).bcu = s.bcu ∧
    (reserve p n tag s).pou = s.pou ∧ (reserve p n tag s).evc = s.evc ∧ (reserve p n tag s).xch = s.xch ∧
    (reserve p n tag s).mem = s.mem ∧ (reserve p n tag s).pending = s.pending := by
  simp [reserve]

@[simp] theorem joinHistory_frame (p : Port) (stamp : Nat) (s : State) :
    (joinHistory p stamp s).tbs = s.tbs ∧ (joinHistory p stamp s).rfi = s.rfi ∧ (joinHistory p stamp s).dsv = s.dsv ∧
    (joinHistory p stamp s).lnk = s.lnk ∧ (joinHistory p stamp s).crs = s.crs ∧ (joinHistory p stamp s).bcu = s.bcu ∧
    (joinHistory p stamp s).pou = s.pou ∧ (joinHistory p stamp s).evc = s.evc ∧ (joinHistory p stamp s).xch = s.xch ∧
    (joinHistory p stamp s).mem = s.mem ∧ (joinHistory p stamp s).pending = s.pending := by
  simp [joinHistory]

@[simp] theorem departed_frame (p : Port) (n : Nat) (tag : Byte) (stamp : Nat) (s : State) :
    (departed p n tag stamp s).tbs = s.tbs ∧ (departed p n tag stamp s).rfi = s.rfi ∧
    (departed p n tag stamp s).dsv = s.dsv ∧ (departed p n tag stamp s).lnk = s.lnk ∧
    (departed p n tag stamp s).bcu = s.bcu ∧ (departed p n tag stamp s).pou = s.pou ∧
    (departed p n tag stamp s).evc = s.evc ∧ (departed p n tag stamp s).xch = s.xch ∧
    (departed p n tag stamp s).mem = s.mem ∧ (departed p n tag stamp s).pending = s.pending := by
  simp [departed]

@[simp] theorem pathRecords_frame (n : Nat) (p : Port) (before : PathState) (f : Filtered) (s : State) :
    (pathRecords n p before f s).tbs = s.tbs ∧ (pathRecords n p before f s).rfi = s.rfi ∧
    (pathRecords n p before f s).dsv = s.dsv ∧ (pathRecords n p before f s).lnk = s.lnk ∧
    (pathRecords n p before f s).crs = s.crs ∧ (pathRecords n p before f s).rng = s.rng ∧
    (pathRecords n p before f s).bcu = s.bcu ∧ (pathRecords n p before f s).pou = s.pou ∧
    (pathRecords n p before f s).evc = s.evc ∧ (pathRecords n p before f s).mem = s.mem ∧
    (pathRecords n p before f s).pending = s.pending := by
  simp only [pathRecords]; (repeat' split) <;> simp_all

@[simp] theorem processEcho_frame (n : Nat) (p : Port) (t1 : Nat) (e : Echo) (s : State) :
    (processEcho n p t1 e s).tbs = s.tbs ∧ (processEcho n p t1 e s).rfi = s.rfi ∧
    (processEcho n p t1 e s).dsv = s.dsv ∧ (processEcho n p t1 e s).lnk = s.lnk ∧
    (processEcho n p t1 e s).rng = s.rng ∧ (processEcho n p t1 e s).pou = s.pou ∧
    (processEcho n p t1 e s).evc = s.evc ∧ (processEcho n p t1 e s).mem = s.mem ∧
    (processEcho n p t1 e s).pending = s.pending := by
  simp only [processEcho]; (repeat' split) <;> simp_all

@[simp] theorem handleEcho_frame (p : Port) (e : Echo) (s : State) :
    (handleEcho p e s).tbs = s.tbs ∧ (handleEcho p e s).rfi = s.rfi ∧ (handleEcho p e s).dsv = s.dsv ∧
    (handleEcho p e s).pou = s.pou ∧ (handleEcho p e s).evc = s.evc ∧ (handleEcho p e s).mem = s.mem ∧
    (handleEcho p e s).pending = s.pending := by
  unfold handleEcho; (repeat' split) <;> simp

@[simp] theorem orderRangingSetup_frame (p : RangingSetupP) (slot : Nat) (s : State) :
    (orderRangingSetup p slot s).tbs = s.tbs ∧ (orderRangingSetup p slot s).rfi = s.rfi ∧
    (orderRangingSetup p slot s).dsv = s.dsv ∧ (orderRangingSetup p slot s).crs = s.crs ∧
    (orderRangingSetup p slot s).bcu = s.bcu ∧ (orderRangingSetup p slot s).pou = s.pou ∧
    (orderRangingSetup p slot s).evc = s.evc ∧ (orderRangingSetup p slot s).mem = s.mem ∧
    (orderRangingSetup p slot s).pending = s.pending := by
  simp [orderRangingSetup]

@[simp] theorem addDebt_frame (epoch n : Nat) (p : Port) (s : State) :
    (addDebt epoch n p s).tbs = s.tbs ∧ (addDebt epoch n p s).rfi = s.rfi ∧ (addDebt epoch n p s).dsv = s.dsv ∧
    (addDebt epoch n p s).lnk = s.lnk ∧ (addDebt epoch n p s).rng = s.rng ∧ (addDebt epoch n p s).bcu = s.bcu ∧
    (addDebt epoch n p s).pou = s.pou ∧ (addDebt epoch n p s).evc = s.evc ∧ (addDebt epoch n p s).mem = s.mem ∧
    (addDebt epoch n p s).pending = s.pending := by
  simp only [addDebt]; (repeat' split) <;> simp_all

@[simp] theorem joinIfLost_frame (before : Client) (n : Nat) (p : Port) (s : State) :
    (joinIfLost before n p s).tbs = s.tbs ∧ (joinIfLost before n p s).rfi = s.rfi ∧
    (joinIfLost before n p s).dsv = s.dsv ∧ (joinIfLost before n p s).lnk = s.lnk ∧
    (joinIfLost before n p s).crs = s.crs ∧ (joinIfLost before n p s).rng = s.rng ∧
    (joinIfLost before n p s).pou = s.pou ∧ (joinIfLost before n p s).evc = s.evc ∧
    (joinIfLost before n p s).xch = s.xch ∧ (joinIfLost before n p s).mem = s.mem ∧
    (joinIfLost before n p s).pending = s.pending := by
  unfold joinIfLost; (repeat' split) <;> simp

@[simp] theorem clientDebt_frame (epoch n : Nat) (s : State) :
    (clientDebt epoch n s).tbs = s.tbs ∧ (clientDebt epoch n s).rfi = s.rfi ∧ (clientDebt epoch n s).dsv = s.dsv ∧
    (clientDebt epoch n s).lnk = s.lnk ∧ (clientDebt epoch n s).rng = s.rng ∧ (clientDebt epoch n s).pou = s.pou ∧
    (clientDebt epoch n s).evc = s.evc ∧ (clientDebt epoch n s).mem = s.mem ∧
    (clientDebt epoch n s).pending = s.pending := by
  simp [clientDebt]

@[simp] theorem rngStep_frame (d : Int) (s : State) :
    (rngStep d s).tbs = s.tbs ∧ (rngStep d s).rfi = s.rfi ∧ (rngStep d s).dsv = s.dsv ∧ (rngStep d s).lnk = s.lnk ∧
    (rngStep d s).bcu = s.bcu ∧ (rngStep d s).pou = s.pou ∧ (rngStep d s).evc = s.evc ∧ (rngStep d s).xch = s.xch ∧
    (rngStep d s).mem = s.mem ∧ (rngStep d s).pending = s.pending := by
  simp [rngStep]

@[simp] theorem rngBoundary_frame (r : Report) (s : State) :
    (rngBoundary r s).tbs = s.tbs ∧ (rngBoundary r s).rfi = s.rfi ∧ (rngBoundary r s).dsv = s.dsv ∧
    (rngBoundary r s).pou = s.pou ∧ (rngBoundary r s).evc = s.evc ∧ (rngBoundary r s).mem = s.mem ∧
    (rngBoundary r s).pending = s.pending := by
  unfold rngBoundary; (repeat' split) <;> simp

@[simp] theorem beaconEnterUp_frame (p : Port) (s : State) :
    (beaconEnterUp p s).tbs = s.tbs ∧ (beaconEnterUp p s).rfi = s.rfi ∧ (beaconEnterUp p s).dsv = s.dsv ∧
    (beaconEnterUp p s).lnk = s.lnk ∧ (beaconEnterUp p s).crs = s.crs ∧ (beaconEnterUp p s).rng = s.rng ∧
    (beaconEnterUp p s).pou = s.pou ∧ (beaconEnterUp p s).evc = s.evc ∧ (beaconEnterUp p s).xch = s.xch ∧
    (beaconEnterUp p s).mem = s.mem ∧ (beaconEnterUp p s).pending = s.pending := by
  simp [beaconEnterUp]

@[simp] theorem handRate_frame (p : Port) (rate : Nat) (s : State) :
    (handRate p rate s).tbs = s.tbs ∧ (handRate p rate s).rfi = s.rfi ∧ (handRate p rate s).dsv = s.dsv ∧
    (handRate p rate s).lnk = s.lnk ∧ (handRate p rate s).crs = s.crs ∧ (handRate p rate s).rng = s.rng ∧
    (handRate p rate s).pou = s.pou ∧ (handRate p rate s).evc = s.evc ∧ (handRate p rate s).xch = s.xch ∧
    (handRate p rate s).mem = s.mem ∧ (handRate p rate s).pending = s.pending := by
  unfold handRate; (repeat' split) <;> simp

@[simp] theorem boundarySchedule_frame (r : Report) (p : Port) (s : State) :
    (boundarySchedule r p s).tbs = s.tbs ∧ (boundarySchedule r p s).rfi = s.rfi ∧
    (boundarySchedule r p s).dsv = s.dsv ∧ (boundarySchedule r p s).lnk = s.lnk ∧
    (boundarySchedule r p s).crs = s.crs ∧ (boundarySchedule r p s).rng = s.rng ∧
    (boundarySchedule r p s).pou = s.pou ∧ (boundarySchedule r p s).evc = s.evc ∧
    (boundarySchedule r p s).xch = s.xch ∧ (boundarySchedule r p s).mem = s.mem ∧
    (boundarySchedule r p s).pending = s.pending := by
  unfold boundarySchedule; (repeat' split) <;> simp

@[simp] theorem modNotice_frame (i : Nat) (f : Notice → Notice) (s : State) :
    (modNotice i f s).tbs = s.tbs ∧ (modNotice i f s).rfi = s.rfi ∧ (modNotice i f s).dsv = s.dsv ∧
    (modNotice i f s).lnk = s.lnk ∧ (modNotice i f s).crs = s.crs ∧ (modNotice i f s).rng = s.rng ∧
    (modNotice i f s).pou = s.pou ∧ (modNotice i f s).evc = s.evc ∧ (modNotice i f s).xch = s.xch ∧
    (modNotice i f s).mem = s.mem ∧ (modNotice i f s).pending = s.pending := by
  simp [modNotice]

@[simp] theorem putNotice_frame (i : Nat) (n : Option Notice) (s : State) :
    (putNotice i n s).tbs = s.tbs ∧ (putNotice i n s).rfi = s.rfi ∧ (putNotice i n s).dsv = s.dsv ∧
    (putNotice i n s).lnk = s.lnk ∧ (putNotice i n s).crs = s.crs ∧ (putNotice i n s).rng = s.rng ∧
    (putNotice i n s).pou = s.pou ∧ (putNotice i n s).evc = s.evc ∧ (putNotice i n s).xch = s.xch ∧
    (putNotice i n s).mem = s.mem ∧ (putNotice i n s).pending = s.pending := by
  simp [putNotice]

@[simp] theorem freeNotice_frame (i : Nat) (n : Notice) (cause : NoticeCause) (s : State) :
    (freeNotice i n cause s).tbs = s.tbs ∧ (freeNotice i n cause s).rfi = s.rfi ∧
    (freeNotice i n cause s).dsv = s.dsv ∧ (freeNotice i n cause s).lnk = s.lnk ∧
    (freeNotice i n cause s).crs = s.crs ∧ (freeNotice i n cause s).rng = s.rng ∧
    (freeNotice i n cause s).pou = s.pou ∧ (freeNotice i n cause s).evc = s.evc ∧
    (freeNotice i n cause s).mem = s.mem ∧ (freeNotice i n cause s).pending = s.pending := by
  simp [freeNotice]

@[simp] theorem settleOnce_frame (i : Nat) (s : State) :
    (settleOnce i s).tbs = s.tbs ∧ (settleOnce i s).rfi = s.rfi ∧ (settleOnce i s).dsv = s.dsv ∧
    (settleOnce i s).lnk = s.lnk ∧ (settleOnce i s).crs = s.crs ∧ (settleOnce i s).rng = s.rng ∧
    (settleOnce i s).pou = s.pou ∧ (settleOnce i s).evc = s.evc ∧ (settleOnce i s).mem = s.mem ∧
    (settleOnce i s).pending = s.pending := by
  unfold settleOnce; (repeat' split) <;> simp

@[simp] theorem noticeLeaveUp_frame (p : Port) (i : Nat) (s : State) :
    (noticeLeaveUp p i s).tbs = s.tbs ∧ (noticeLeaveUp p i s).rfi = s.rfi ∧ (noticeLeaveUp p i s).dsv = s.dsv ∧
    (noticeLeaveUp p i s).lnk = s.lnk ∧ (noticeLeaveUp p i s).crs = s.crs ∧ (noticeLeaveUp p i s).rng = s.rng ∧
    (noticeLeaveUp p i s).pou = s.pou ∧ (noticeLeaveUp p i s).evc = s.evc ∧ (noticeLeaveUp p i s).mem = s.mem ∧
    (noticeLeaveUp p i s).pending = s.pending := by
  unfold noticeLeaveUp; (repeat' split) <;> simp

@[simp] theorem noticeEpoch_frame (i : Nat) (s : State) :
    (noticeEpoch i s).tbs = s.tbs ∧ (noticeEpoch i s).rfi = s.rfi ∧ (noticeEpoch i s).dsv = s.dsv ∧
    (noticeEpoch i s).lnk = s.lnk ∧ (noticeEpoch i s).crs = s.crs ∧ (noticeEpoch i s).rng = s.rng ∧
    (noticeEpoch i s).pou = s.pou ∧ (noticeEpoch i s).evc = s.evc ∧ (noticeEpoch i s).mem = s.mem ∧
    (noticeEpoch i s).pending = s.pending := by
  unfold noticeEpoch; (repeat' split) <;> simp

@[simp] theorem orderNoticePost_frame (p : NoticePostP) (slot : Nat) (s : State) :
    (orderNoticePost p slot s).tbs = s.tbs ∧ (orderNoticePost p slot s).rfi = s.rfi ∧
    (orderNoticePost p slot s).dsv = s.dsv ∧ (orderNoticePost p slot s).lnk = s.lnk ∧
    (orderNoticePost p slot s).crs = s.crs ∧ (orderNoticePost p slot s).rng = s.rng ∧
    (orderNoticePost p slot s).pou = s.pou ∧ (orderNoticePost p slot s).evc = s.evc ∧
    (orderNoticePost p slot s).mem = s.mem ∧ (orderNoticePost p slot s).pending = s.pending := by
  unfold orderNoticePost; (repeat' split) <;> simp

@[simp] theorem orderNoticeWithdraw_frame (index : Byte) (slot : Nat) (s : State) :
    (orderNoticeWithdraw index slot s).tbs = s.tbs ∧ (orderNoticeWithdraw index slot s).rfi = s.rfi ∧
    (orderNoticeWithdraw index slot s).dsv = s.dsv ∧ (orderNoticeWithdraw index slot s).lnk = s.lnk ∧
    (orderNoticeWithdraw index slot s).crs = s.crs ∧ (orderNoticeWithdraw index slot s).rng = s.rng ∧
    (orderNoticeWithdraw index slot s).pou = s.pou ∧ (orderNoticeWithdraw index slot s).evc = s.evc ∧
    (orderNoticeWithdraw index slot s).mem = s.mem ∧ (orderNoticeWithdraw index slot s).pending = s.pending := by
  unfold orderNoticeWithdraw; (repeat' split) <;> simp

@[simp] theorem recordAnnounced_frame (p : Port) (stamp : Nat) (e : BuiltEntry) (s : State) :
    (recordAnnounced p stamp e s).tbs = s.tbs ∧ (recordAnnounced p stamp e s).rfi = s.rfi ∧
    (recordAnnounced p stamp e s).dsv = s.dsv ∧ (recordAnnounced p stamp e s).lnk = s.lnk ∧
    (recordAnnounced p stamp e s).rng = s.rng ∧ (recordAnnounced p stamp e s).bcu = s.bcu ∧
    (recordAnnounced p stamp e s).pou = s.pou ∧ (recordAnnounced p stamp e s).evc = s.evc ∧
    (recordAnnounced p stamp e s).xch = s.xch ∧ (recordAnnounced p stamp e s).mem = s.mem ∧
    (recordAnnounced p stamp e s).pending = s.pending := by
  unfold recordAnnounced; (repeat' split) <;> simp

@[simp] theorem advanceNotice_frame (p : Port) (ns : List BuiltNotice) (i : Nat) (s : State) :
    (advanceNotice p ns i s).tbs = s.tbs ∧ (advanceNotice p ns i s).rfi = s.rfi ∧
    (advanceNotice p ns i s).dsv = s.dsv ∧ (advanceNotice p ns i s).lnk = s.lnk ∧
    (advanceNotice p ns i s).crs = s.crs ∧ (advanceNotice p ns i s).rng = s.rng ∧
    (advanceNotice p ns i s).pou = s.pou ∧ (advanceNotice p ns i s).evc = s.evc ∧
    (advanceNotice p ns i s).mem = s.mem ∧ (advanceNotice p ns i s).pending = s.pending := by
  unfold advanceNotice; (repeat' split) <;> simp

@[simp] theorem completeBeacon_frame (p : Port) (stamp : Nat) (s : State) :
    (completeBeacon p stamp s).tbs = s.tbs ∧ (completeBeacon p stamp s).rfi = s.rfi ∧
    (completeBeacon p stamp s).dsv = s.dsv ∧ (completeBeacon p stamp s).lnk = s.lnk ∧
    (completeBeacon p stamp s).rng = s.rng ∧ (completeBeacon p stamp s).pou = s.pou ∧
    (completeBeacon p stamp s).evc = s.evc ∧ (completeBeacon p stamp s).mem = s.mem ∧
    (completeBeacon p stamp s).pending = s.pending := by
  unfold completeBeacon; (repeat' split) <;> simp

@[simp] theorem beaconLeaveUp_frame (p : Port) (s : State) :
    (beaconLeaveUp p s).tbs = s.tbs ∧ (beaconLeaveUp p s).rfi = s.rfi ∧ (beaconLeaveUp p s).dsv = s.dsv ∧
    (beaconLeaveUp p s).lnk = s.lnk ∧ (beaconLeaveUp p s).crs = s.crs ∧ (beaconLeaveUp p s).rng = s.rng ∧
    (beaconLeaveUp p s).pou = s.pou ∧ (beaconLeaveUp p s).evc = s.evc ∧ (beaconLeaveUp p s).mem = s.mem ∧
    (beaconLeaveUp p s).pending = s.pending := by
  simp [beaconLeaveUp]

@[simp] theorem announceBoundary_frame (r : Report) (p : Port) (n : Nat) (s : State) :
    (announceBoundary r p n s).tbs = s.tbs ∧ (announceBoundary r p n s).rfi = s.rfi ∧
    (announceBoundary r p n s).dsv = s.dsv ∧ (announceBoundary r p n s).lnk = s.lnk ∧
    (announceBoundary r p n s).crs = s.crs ∧ (announceBoundary r p n s).rng = s.rng ∧
    (announceBoundary r p n s).pou = s.pou ∧ (announceBoundary r p n s).evc = s.evc ∧
    (announceBoundary r p n s).xch = s.xch ∧ (announceBoundary r p n s).mem = s.mem ∧
    (announceBoundary r p n s).pending = s.pending := by
  unfold announceBoundary; (repeat' split) <;> simp

@[simp] theorem bcuBoundary_frame (r : Report) (s : State) :
    (bcuBoundary r s).tbs = s.tbs ∧ (bcuBoundary r s).rfi = s.rfi ∧ (bcuBoundary r s).dsv = s.dsv ∧
    (bcuBoundary r s).lnk = s.lnk ∧ (bcuBoundary r s).rng = s.rng ∧ (bcuBoundary r s).pou = s.pou ∧
    (bcuBoundary r s).evc = s.evc ∧ (bcuBoundary r s).mem = s.mem ∧ (bcuBoundary r s).pending = s.pending := by
  unfold bcuBoundary; (repeat' split) <;> simp

@[simp] theorem dropNewcomer_frame (addr : MacAddr) (s : State) :
    (dropNewcomer addr s).tbs = s.tbs ∧ (dropNewcomer addr s).rfi = s.rfi ∧ (dropNewcomer addr s).dsv = s.dsv ∧
    (dropNewcomer addr s).lnk = s.lnk ∧ (dropNewcomer addr s).rng = s.rng ∧ (dropNewcomer addr s).bcu = s.bcu ∧
    (dropNewcomer addr s).pou = s.pou ∧ (dropNewcomer addr s).evc = s.evc ∧ (dropNewcomer addr s).xch = s.xch ∧
    (dropNewcomer addr s).mem = s.mem ∧ (dropNewcomer addr s).pending = s.pending := by
  simp [dropNewcomer]

@[simp] theorem settleState_frame (n : Nat) (st : ClientState) (cause : ClientCause) (s : State) :
    (settleState n st cause s).tbs = s.tbs ∧ (settleState n st cause s).rfi = s.rfi ∧
    (settleState n st cause s).dsv = s.dsv ∧ (settleState n st cause s).lnk = s.lnk ∧
    (settleState n st cause s).rng = s.rng ∧ (settleState n st cause s).pou = s.pou ∧
    (settleState n st cause s).evc = s.evc ∧ (settleState n st cause s).mem = s.mem ∧
    (settleState n st cause s).pending = s.pending := by
  unfold settleState; (repeat' split) <;> simp

@[simp] theorem makeClient_frame (n : Nat) (cfg : ClientConfig) (s : State) :
    (makeClient n cfg s).tbs = s.tbs ∧ (makeClient n cfg s).rfi = s.rfi ∧ (makeClient n cfg s).dsv = s.dsv ∧
    (makeClient n cfg s).pou = s.pou ∧ (makeClient n cfg s).evc = s.evc ∧ (makeClient n cfg s).mem = s.mem ∧
    (makeClient n cfg s).pending = s.pending := by
  simp [makeClient]

@[simp] theorem admitRead_frame (n : Nat) (bytes : List Byte) (slot : Nat) (s : State) :
    (admitRead n bytes slot s).tbs = s.tbs ∧ (admitRead n bytes slot s).rfi = s.rfi ∧
    (admitRead n bytes slot s).dsv = s.dsv ∧ (admitRead n bytes slot s).pou = s.pou ∧
    (admitRead n bytes slot s).evc = s.evc ∧ (admitRead n bytes slot s).mem = s.mem ∧
    (admitRead n bytes slot s).pending = s.pending := by
  unfold admitRead; (repeat' split) <;> simp

@[simp] theorem reconfigPath_frame (n : Nat) (p : Port) (old new : ClientConfig) (s : State) :
    (reconfigPath n p old new s).tbs = s.tbs ∧ (reconfigPath n p old new s).rfi = s.rfi ∧
    (reconfigPath n p old new s).dsv = s.dsv ∧ (reconfigPath n p old new s).lnk = s.lnk ∧
    (reconfigPath n p old new s).pou = s.pou ∧ (reconfigPath n p old new s).evc = s.evc ∧
    (reconfigPath n p old new s).xch = s.xch ∧ (reconfigPath n p old new s).mem = s.mem ∧
    (reconfigPath n p old new s).pending = s.pending := by
  simp only [reconfigPath]; (repeat' split) <;> simp_all

@[simp] theorem readdress_frame (n : Nat) (new : ClientConfig) (s : State) :
    (readdress n new s).tbs = s.tbs ∧ (readdress n new s).rfi = s.rfi ∧ (readdress n new s).dsv = s.dsv ∧
    (readdress n new s).lnk = s.lnk ∧ (readdress n new s).pou = s.pou ∧ (readdress n new s).evc = s.evc ∧
    (readdress n new s).xch = s.xch ∧ (readdress n new s).mem = s.mem ∧ (readdress n new s).pending = s.pending := by
  simp [readdress]

@[simp] theorem installConfig_frame (n : Nat) (new : ClientConfig) (s : State) :
    (installConfig n new s).tbs = s.tbs ∧ (installConfig n new s).rfi = s.rfi ∧ (installConfig n new s).dsv = s.dsv ∧
    (installConfig n new s).pou = s.pou ∧ (installConfig n new s).evc = s.evc ∧ (installConfig n new s).mem = s.mem ∧
    (installConfig n new s).pending = s.pending := by
  simp only [installConfig]; (repeat' split) <;> simp_all

@[simp] theorem reconfigRead_frame (n : Nat) (bytes : List Byte) (slot : Nat) (s : State) :
    (reconfigRead n bytes slot s).tbs = s.tbs ∧ (reconfigRead n bytes slot s).rfi = s.rfi ∧
    (reconfigRead n bytes slot s).dsv = s.dsv ∧ (reconfigRead n bytes slot s).pou = s.pou ∧
    (reconfigRead n bytes slot s).evc = s.evc ∧ (reconfigRead n bytes slot s).mem = s.mem ∧
    (reconfigRead n bytes slot s).pending = s.pending := by
  unfold reconfigRead; (repeat' split) <;> simp

@[simp] theorem orderAdmit_frame (c : BitVec 16) (slot : Nat) (s : State) :
    (orderAdmit c slot s).tbs = s.tbs ∧ (orderAdmit c slot s).rfi = s.rfi ∧ (orderAdmit c slot s).dsv = s.dsv ∧
    (orderAdmit c slot s).pou = s.pou ∧ (orderAdmit c slot s).evc = s.evc ∧ (orderAdmit c slot s).mem = s.mem ∧
    (orderAdmit c slot s).pending = s.pending := by
  unfold orderAdmit; (repeat' split) <;> simp

@[simp] theorem orderReconfig_frame (c : BitVec 16) (slot : Nat) (s : State) :
    (orderReconfig c slot s).tbs = s.tbs ∧ (orderReconfig c slot s).rfi = s.rfi ∧
    (orderReconfig c slot s).dsv = s.dsv ∧ (orderReconfig c slot s).pou = s.pou ∧
    (orderReconfig c slot s).evc = s.evc ∧ (orderReconfig c slot s).mem = s.mem ∧
    (orderReconfig c slot s).pending = s.pending := by
  unfold orderReconfig; (repeat' split) <;> simp

@[simp] theorem removeClient_frame (n : Nat) (s : State) :
    (removeClient n s).tbs = s.tbs ∧ (removeClient n s).rfi = s.rfi ∧ (removeClient n s).dsv = s.dsv ∧
    (removeClient n s).pou = s.pou ∧ (removeClient n s).evc = s.evc ∧ (removeClient n s).mem = s.mem ∧
    (removeClient n s).pending = s.pending := by
  simp [removeClient]

@[simp] theorem orderRetire_frame (c : BitVec 16) (slot : Nat) (s : State) :
    (orderRetire c slot s).tbs = s.tbs ∧ (orderRetire c slot s).rfi = s.rfi ∧ (orderRetire c slot s).dsv = s.dsv ∧
    (orderRetire c slot s).pou = s.pou ∧ (orderRetire c slot s).evc = s.evc ∧ (orderRetire c slot s).mem = s.mem ∧
    (orderRetire c slot s).pending = s.pending := by
  unfold orderRetire; (repeat' split) <;> simp

@[simp] theorem knownHail_frame (n : Nat) (p : Port) (stamp : Nat) (s : State) :
    (knownHail n p stamp s).tbs = s.tbs ∧ (knownHail n p stamp s).rfi = s.rfi ∧ (knownHail n p stamp s).dsv = s.dsv ∧
    (knownHail n p stamp s).lnk = s.lnk ∧ (knownHail n p stamp s).rng = s.rng ∧ (knownHail n p stamp s).bcu = s.bcu ∧
    (knownHail n p stamp s).pou = s.pou ∧ (knownHail n p stamp s).evc = s.evc ∧ (knownHail n p stamp s).xch = s.xch ∧
    (knownHail n p stamp s).mem = s.mem ∧ (knownHail n p stamp s).pending = s.pending := by
  unfold knownHail; (repeat' split) <;> simp

@[simp] theorem newcomerHail_frame (p : Port) (h : Hail) (s : State) :
    (newcomerHail p h s).tbs = s.tbs ∧ (newcomerHail p h s).rfi = s.rfi ∧ (newcomerHail p h s).dsv = s.dsv ∧
    (newcomerHail p h s).lnk = s.lnk ∧ (newcomerHail p h s).rng = s.rng ∧ (newcomerHail p h s).bcu = s.bcu ∧
    (newcomerHail p h s).pou = s.pou ∧ (newcomerHail p h s).evc = s.evc ∧ (newcomerHail p h s).mem = s.mem ∧
    (newcomerHail p h s).pending = s.pending := by
  unfold newcomerHail; (repeat' split) <;> simp

@[simp] theorem handleHail_frame (p : Port) (h : Hail) (s : State) :
    (handleHail p h s).tbs = s.tbs ∧ (handleHail p h s).rfi = s.rfi ∧ (handleHail p h s).dsv = s.dsv ∧
    (handleHail p h s).lnk = s.lnk ∧ (handleHail p h s).rng = s.rng ∧ (handleHail p h s).bcu = s.bcu ∧
    (handleHail p h s).pou = s.pou ∧ (handleHail p h s).evc = s.evc ∧ (handleHail p h s).mem = s.mem ∧
    (handleHail p h s).pending = s.pending := by
  unfold handleHail; (repeat' split) <;> simp

@[simp] theorem stepClient_frame (n : Nat) (s : State) :
    (stepClient n s).tbs = s.tbs ∧ (stepClient n s).rfi = s.rfi ∧ (stepClient n s).dsv = s.dsv ∧
    (stepClient n s).lnk = s.lnk ∧ (stepClient n s).rng = s.rng ∧ (stepClient n s).pou = s.pou ∧
    (stepClient n s).evc = s.evc ∧ (stepClient n s).mem = s.mem ∧ (stepClient n s).pending = s.pending := by
  simp [stepClient]

@[simp] theorem crsStep_frame (d : Int) (s : State) :
    (crsStep d s).tbs = s.tbs ∧ (crsStep d s).rfi = s.rfi ∧ (crsStep d s).dsv = s.dsv ∧ (crsStep d s).lnk = s.lnk ∧
    (crsStep d s).rng = s.rng ∧ (crsStep d s).pou = s.pou ∧ (crsStep d s).evc = s.evc ∧ (crsStep d s).mem = s.mem ∧
    (crsStep d s).pending = s.pending := by
  simp [crsStep]

@[simp] theorem ageNewcomers_frame (r : Report) (s : State) :
    (ageNewcomers r s).tbs = s.tbs ∧ (ageNewcomers r s).rfi = s.rfi ∧ (ageNewcomers r s).dsv = s.dsv ∧
    (ageNewcomers r s).lnk = s.lnk ∧ (ageNewcomers r s).rng = s.rng ∧ (ageNewcomers r s).bcu = s.bcu ∧
    (ageNewcomers r s).pou = s.pou ∧ (ageNewcomers r s).evc = s.evc ∧ (ageNewcomers r s).xch = s.xch ∧
    (ageNewcomers r s).mem = s.mem ∧ (ageNewcomers r s).pending = s.pending := by
  simp [ageNewcomers]

@[simp] theorem crsBoundary_frame (r : Report) (s : State) :
    (crsBoundary r s).tbs = s.tbs ∧ (crsBoundary r s).rfi = s.rfi ∧ (crsBoundary r s).dsv = s.dsv ∧
    (crsBoundary r s).lnk = s.lnk ∧ (crsBoundary r s).rng = s.rng ∧ (crsBoundary r s).pou = s.pou ∧
    (crsBoundary r s).evc = s.evc ∧ (crsBoundary r s).mem = s.mem ∧ (crsBoundary r s).pending = s.pending := by
  unfold crsBoundary; (repeat' split) <;> simp

@[simp] theorem leaveUp_frame (p : Port) (new : PortState) (s : State) :
    (leaveUp p new s).tbs = s.tbs ∧ (leaveUp p new s).rfi = s.rfi ∧ (leaveUp p new s).dsv = s.dsv ∧
    (leaveUp p new s).pou = s.pou ∧ (leaveUp p new s).evc = s.evc ∧ (leaveUp p new s).mem = s.mem ∧
    (leaveUp p new s).pending = s.pending := by
  simp [leaveUp]

@[simp] theorem enterUp_frame (p : Port) (s : State) :
    (enterUp p s).tbs = s.tbs ∧ (enterUp p s).rfi = s.rfi ∧ (enterUp p s).dsv = s.dsv ∧ (enterUp p s).crs = s.crs ∧
    (enterUp p s).pou = s.pou ∧ (enterUp p s).evc = s.evc ∧ (enterUp p s).xch = s.xch ∧ (enterUp p s).mem = s.mem ∧
    (enterUp p s).pending = s.pending := by
  simp [enterUp]

@[simp] theorem linkLevel_frame (p : Port) (level : Bool) (s : State) :
    (linkLevel p level s).tbs = s.tbs ∧ (linkLevel p level s).rfi = s.rfi ∧ (linkLevel p level s).dsv = s.dsv ∧
    (linkLevel p level s).pou = s.pou ∧ (linkLevel p level s).evc = s.evc ∧ (linkLevel p level s).mem = s.mem ∧
    (linkLevel p level s).pending = s.pending := by
  unfold linkLevel; (repeat' split) <;> simp

@[simp] theorem enableEffect_frame (p : Port) (enable : Bool) (s : State) :
    (enableEffect p enable s).tbs = s.tbs ∧ (enableEffect p enable s).rfi = s.rfi ∧
    (enableEffect p enable s).dsv = s.dsv ∧ (enableEffect p enable s).pou = s.pou ∧
    (enableEffect p enable s).evc = s.evc ∧ (enableEffect p enable s).mem = s.mem ∧
    (enableEffect p enable s).pending = s.pending := by
  unfold enableEffect; (repeat' split) <;> simp

@[simp] theorem orderPortSetup_frame (p : PortSetupP) (slot : Nat) (s : State) :
    (orderPortSetup p slot s).tbs = s.tbs ∧ (orderPortSetup p slot s).rfi = s.rfi ∧
    (orderPortSetup p slot s).dsv = s.dsv ∧ (orderPortSetup p slot s).pou = s.pou ∧
    (orderPortSetup p slot s).evc = s.evc ∧ (orderPortSetup p slot s).mem = s.mem ∧
    (orderPortSetup p slot s).pending = s.pending := by
  unfold orderPortSetup; (repeat' split) <;> simp

@[simp] theorem startFrame_frame (p : Port) (kind : TxKind) (bytes : List Byte) (s : State) :
    (startFrame p kind bytes s).tbs = s.tbs ∧ (startFrame p kind bytes s).rfi = s.rfi ∧
    (startFrame p kind bytes s).dsv = s.dsv ∧ (startFrame p kind bytes s).crs = s.crs ∧
    (startFrame p kind bytes s).rng = s.rng ∧ (startFrame p kind bytes s).bcu = s.bcu ∧
    (startFrame p kind bytes s).pou = s.pou ∧ (startFrame p kind bytes s).evc = s.evc ∧
    (startFrame p kind bytes s).xch = s.xch ∧ (startFrame p kind bytes s).mem = s.mem ∧
    (startFrame p kind bytes s).pending = s.pending := by
  simp [startFrame]

@[simp] theorem grantBeacon_frame (p : Port) (s : State) :
    (grantBeacon p s).tbs = s.tbs ∧ (grantBeacon p s).rfi = s.rfi ∧ (grantBeacon p s).dsv = s.dsv ∧
    (grantBeacon p s).crs = s.crs ∧ (grantBeacon p s).rng = s.rng ∧ (grantBeacon p s).pou = s.pou ∧
    (grantBeacon p s).evc = s.evc ∧ (grantBeacon p s).xch = s.xch ∧ (grantBeacon p s).mem = s.mem ∧
    (grantBeacon p s).pending = s.pending := by
  simp [grantBeacon, buildBeacon]

@[simp] theorem grantRange_frame (p : Port) (s : State) :
    (grantRange p s).tbs = s.tbs ∧ (grantRange p s).rfi = s.rfi ∧ (grantRange p s).dsv = s.dsv ∧
    (grantRange p s).crs = s.crs ∧ (grantRange p s).bcu = s.bcu ∧ (grantRange p s).pou = s.pou ∧
    (grantRange p s).evc = s.evc ∧ (grantRange p s).xch = s.xch ∧ (grantRange p s).mem = s.mem ∧
    (grantRange p s).pending = s.pending := by
  simp only [grantRange]; (repeat' split) <;> simp_all

@[simp] theorem grant_frame (p : Port) (s : State) :
    (grant p s).tbs = s.tbs ∧ (grant p s).rfi = s.rfi ∧ (grant p s).dsv = s.dsv ∧ (grant p s).crs = s.crs ∧
    (grant p s).pou = s.pou ∧ (grant p s).evc = s.evc ∧ (grant p s).xch = s.xch ∧ (grant p s).mem = s.mem ∧
    (grant p s).pending = s.pending := by
  unfold grant; (repeat' split) <;> simp

@[simp] theorem arbiterFree_frame (p : Port) (s : State) :
    (arbiterFree p s).tbs = s.tbs ∧ (arbiterFree p s).rfi = s.rfi ∧ (arbiterFree p s).dsv = s.dsv ∧
    (arbiterFree p s).crs = s.crs ∧ (arbiterFree p s).pou = s.pou ∧ (arbiterFree p s).evc = s.evc ∧
    (arbiterFree p s).xch = s.xch ∧ (arbiterFree p s).mem = s.mem ∧ (arbiterFree p s).pending = s.pending := by
  unfold arbiterFree; (repeat' split) <;> simp

@[simp] theorem txTimestamp_frame (p : Port) (at_ : Instant) (s : State) :
    (txTimestamp p at_ s).tbs = s.tbs ∧ (txTimestamp p at_ s).rfi = s.rfi ∧ (txTimestamp p at_ s).dsv = s.dsv ∧
    (txTimestamp p at_ s).pou = s.pou ∧ (txTimestamp p at_ s).evc = s.evc ∧ (txTimestamp p at_ s).mem = s.mem ∧
    (txTimestamp p at_ s).pending = s.pending := by
  unfold txTimestamp; (repeat' split) <;> simp

@[simp] theorem rxTimestamp_frame (p : Port) (at_ : Instant) (s : State) :
    (rxTimestamp p at_ s).tbs = s.tbs ∧ (rxTimestamp p at_ s).rfi = s.rfi ∧ (rxTimestamp p at_ s).dsv = s.dsv ∧
    (rxTimestamp p at_ s).crs = s.crs ∧ (rxTimestamp p at_ s).rng = s.rng ∧ (rxTimestamp p at_ s).bcu = s.bcu ∧
    (rxTimestamp p at_ s).pou = s.pou ∧ (rxTimestamp p at_ s).evc = s.evc ∧ (rxTimestamp p at_ s).xch = s.xch ∧
    (rxTimestamp p at_ s).mem = s.mem ∧ (rxTimestamp p at_ s).pending = s.pending := by
  unfold rxTimestamp; (repeat' split) <;> simp

@[simp] theorem dropFrame_frame (p : Port) (s : State) :
    (dropFrame p s).tbs = s.tbs ∧ (dropFrame p s).rfi = s.rfi ∧ (dropFrame p s).dsv = s.dsv ∧
    (dropFrame p s).crs = s.crs ∧ (dropFrame p s).rng = s.rng ∧ (dropFrame p s).bcu = s.bcu ∧
    (dropFrame p s).pou = s.pou ∧ (dropFrame p s).evc = s.evc ∧ (dropFrame p s).xch = s.xch ∧
    (dropFrame p s).mem = s.mem ∧ (dropFrame p s).pending = s.pending := by
  simp [dropFrame]

@[simp] theorem receiveBeacon_frame (p : Port) (f : RxFrame) (stamp : Nat) (s : State) :
    (receiveBeacon p f stamp s).tbs = s.tbs ∧ (receiveBeacon p f stamp s).rfi = s.rfi ∧
    (receiveBeacon p f stamp s).dsv = s.dsv ∧ (receiveBeacon p f stamp s).crs = s.crs ∧
    (receiveBeacon p f stamp s).rng = s.rng ∧ (receiveBeacon p f stamp s).bcu = s.bcu ∧
    (receiveBeacon p f stamp s).pou = s.pou ∧ (receiveBeacon p f stamp s).evc = s.evc ∧
    (receiveBeacon p f stamp s).mem = s.mem ∧ (receiveBeacon p f stamp s).pending = s.pending := by
  unfold receiveBeacon; (repeat' split) <;> simp

@[simp] theorem dispatch_frame (p : Port) (f : RxFrame) (stamp : Nat) (s : State) :
    (dispatch p f stamp s).tbs = s.tbs ∧ (dispatch p f stamp s).rfi = s.rfi ∧ (dispatch p f stamp s).dsv = s.dsv ∧
    (dispatch p f stamp s).pou = s.pou ∧ (dispatch p f stamp s).evc = s.evc ∧ (dispatch p f stamp s).mem = s.mem ∧
    (dispatch p f stamp s).pending = s.pending := by
  unfold dispatch; (repeat' split) <;> simp

@[simp] theorem frameReceived_frame (p : Port) (bytes : List Byte) (s : State) :
    (frameReceived p bytes s).tbs = s.tbs ∧ (frameReceived p bytes s).rfi = s.rfi ∧
    (frameReceived p bytes s).dsv = s.dsv ∧ (frameReceived p bytes s).pou = s.pou ∧
    (frameReceived p bytes s).evc = s.evc ∧ (frameReceived p bytes s).mem = s.mem ∧
    (frameReceived p bytes s).pending = s.pending := by
  simp only [frameReceived]; (repeat' split) <;> simp_all

@[simp] theorem lnkBoundary_frame (r : Report) (s : State) :
    (lnkBoundary r s).tbs = s.tbs ∧ (lnkBoundary r s).rfi = s.rfi ∧ (lnkBoundary r s).dsv = s.dsv ∧
    (lnkBoundary r s).crs = s.crs ∧ (lnkBoundary r s).rng = s.rng ∧ (lnkBoundary r s).bcu = s.bcu ∧
    (lnkBoundary r s).pou = s.pou ∧ (lnkBoundary r s).evc = s.evc ∧ (lnkBoundary r s).xch = s.xch ∧
    (lnkBoundary r s).mem = s.mem ∧ (lnkBoundary r s).pending = s.pending := by
  unfold lnkBoundary; (repeat' split) <;> simp

@[simp] theorem riseChannel_frame (c r : Nat) (s : State) :
    (riseChannel c r s).tbs = s.tbs ∧ (riseChannel c r s).rfi = s.rfi ∧ (riseChannel c r s).dsv = s.dsv ∧
    (riseChannel c r s).lnk = s.lnk ∧ (riseChannel c r s).crs = s.crs ∧ (riseChannel c r s).rng = s.rng ∧
    (riseChannel c r s).bcu = s.bcu ∧ (riseChannel c r s).evc = s.evc ∧ (riseChannel c r s).xch = s.xch ∧
    (riseChannel c r s).mem = s.mem ∧ (riseChannel c r s).pending = s.pending := by
  simp [riseChannel]

@[simp] theorem replacePending_frame (c : Nat) (s : State) :
    (replacePending c s).tbs = s.tbs ∧ (replacePending c s).rfi = s.rfi ∧ (replacePending c s).dsv = s.dsv ∧
    (replacePending c s).lnk = s.lnk ∧ (replacePending c s).crs = s.crs ∧ (replacePending c s).rng = s.rng ∧
    (replacePending c s).bcu = s.bcu ∧ (replacePending c s).pou = s.pou ∧ (replacePending c s).evc = s.evc ∧
    (replacePending c s).mem = s.mem ∧ (replacePending c s).pending = s.pending := by
  unfold replacePending; (repeat' split) <;> simp

@[simp] theorem orderPulseProgram_frame (p : PulseProgramP) (slot : Nat) (s : State) :
    (orderPulseProgram p slot s).tbs = s.tbs ∧ (orderPulseProgram p slot s).rfi = s.rfi ∧
    (orderPulseProgram p slot s).dsv = s.dsv ∧ (orderPulseProgram p slot s).lnk = s.lnk ∧
    (orderPulseProgram p slot s).crs = s.crs ∧ (orderPulseProgram p slot s).rng = s.rng ∧
    (orderPulseProgram p slot s).bcu = s.bcu ∧ (orderPulseProgram p slot s).evc = s.evc ∧
    (orderPulseProgram p slot s).mem = s.mem ∧ (orderPulseProgram p slot s).pending = s.pending := by
  simp only [orderPulseProgram]; (repeat' split) <;> simp_all

@[simp] theorem transfer_frame (r : Report) (c : Nat) (s : State) :
    (transfer r c s).tbs = s.tbs ∧ (transfer r c s).rfi = s.rfi ∧ (transfer r c s).dsv = s.dsv ∧
    (transfer r c s).lnk = s.lnk ∧ (transfer r c s).crs = s.crs ∧ (transfer r c s).rng = s.rng ∧
    (transfer r c s).bcu = s.bcu ∧ (transfer r c s).evc = s.evc ∧ (transfer r c s).mem = s.mem ∧
    (transfer r c s).pending = s.pending := by
  unfold transfer; (repeat' split) <;> simp

@[simp] theorem dropPending_frame (slot : Nat) (s : State) :
    (dropPending slot s).tbs = s.tbs ∧ (dropPending slot s).rfi = s.rfi ∧ (dropPending slot s).dsv = s.dsv ∧
    (dropPending slot s).lnk = s.lnk ∧ (dropPending slot s).crs = s.crs ∧ (dropPending slot s).rng = s.rng ∧
    (dropPending slot s).bcu = s.bcu ∧ (dropPending slot s).evc = s.evc ∧ (dropPending slot s).xch = s.xch ∧
    (dropPending slot s).mem = s.mem ∧ (dropPending slot s).pending = s.pending := by
  simp [dropPending]

@[simp] theorem orderPulseArm_frame (p : PulseArmP) (slot : Nat) (s : State) :
    (orderPulseArm p slot s).tbs = s.tbs ∧ (orderPulseArm p slot s).rfi = s.rfi ∧
    (orderPulseArm p slot s).dsv = s.dsv ∧ (orderPulseArm p slot s).lnk = s.lnk ∧
    (orderPulseArm p slot s).crs = s.crs ∧ (orderPulseArm p slot s).rng = s.rng ∧
    (orderPulseArm p slot s).bcu = s.bcu ∧ (orderPulseArm p slot s).evc = s.evc ∧
    (orderPulseArm p slot s).mem = s.mem ∧ (orderPulseArm p slot s).pending = s.pending := by
  simp only [orderPulseArm]; (repeat' split) <;> simp [forEach_channel_frame]

@[simp] theorem startArm_frame (r : Report) (slot : Nat) (s : State) :
    (startArm r slot s).tbs = s.tbs ∧ (startArm r slot s).rfi = s.rfi ∧ (startArm r slot s).dsv = s.dsv ∧
    (startArm r slot s).lnk = s.lnk ∧ (startArm r slot s).crs = s.crs ∧ (startArm r slot s).rng = s.rng ∧
    (startArm r slot s).bcu = s.bcu ∧ (startArm r slot s).evc = s.evc ∧ (startArm r slot s).mem = s.mem ∧
    (startArm r slot s).pending = s.pending := by
  simp only [startArm]; (repeat' split) <;> simp [forEach_channel_frame]

@[simp] theorem dropArm_frame (slot : Nat) (s : State) :
    (dropArm slot s).tbs = s.tbs ∧ (dropArm slot s).rfi = s.rfi ∧ (dropArm slot s).dsv = s.dsv ∧
    (dropArm slot s).lnk = s.lnk ∧ (dropArm slot s).crs = s.crs ∧ (dropArm slot s).rng = s.rng ∧
    (dropArm slot s).bcu = s.bcu ∧ (dropArm slot s).evc = s.evc ∧ (dropArm slot s).xch = s.xch ∧
    (dropArm slot s).mem = s.mem ∧ (dropArm slot s).pending = s.pending := by
  simp [dropArm]

@[simp] theorem pouStep_frame (d : Int) (s : State) :
    (pouStep d s).tbs = s.tbs ∧ (pouStep d s).rfi = s.rfi ∧ (pouStep d s).dsv = s.dsv ∧ (pouStep d s).lnk = s.lnk ∧
    (pouStep d s).crs = s.crs ∧ (pouStep d s).rng = s.rng ∧ (pouStep d s).bcu = s.bcu ∧ (pouStep d s).evc = s.evc ∧
    (pouStep d s).xch = s.xch ∧ (pouStep d s).mem = s.mem ∧ (pouStep d s).pending = s.pending := by
  simp [pouStep]

@[simp] theorem pouBoundary_frame (r : Report) (s : State) :
    (pouBoundary r s).tbs = s.tbs ∧ (pouBoundary r s).rfi = s.rfi ∧ (pouBoundary r s).dsv = s.dsv ∧
    (pouBoundary r s).lnk = s.lnk ∧ (pouBoundary r s).crs = s.crs ∧ (pouBoundary r s).rng = s.rng ∧
    (pouBoundary r s).bcu = s.bcu ∧ (pouBoundary r s).evc = s.evc ∧ (pouBoundary r s).mem = s.mem ∧
    (pouBoundary r s).pending = s.pending := by
  unfold pouBoundary; (repeat' split) <;> simp

@[simp] theorem pulseResult_frame (n : Nat) (p : Int) (within : Bool) (s : State) :
    (pulseResult n p within s).tbs = s.tbs ∧ (pulseResult n p within s).rfi = s.rfi ∧
    (pulseResult n p within s).dsv = s.dsv ∧ (pulseResult n p within s).lnk = s.lnk ∧
    (pulseResult n p within s).rng = s.rng ∧ (pulseResult n p within s).pou = s.pou ∧
    (pulseResult n p within s).evc = s.evc ∧ (pulseResult n p within s).mem = s.mem ∧
    (pulseResult n p within s).pending = s.pending := by
  simp [pulseResult]

@[simp] theorem captureRecord_frame (i : Fin 4) (cap : Captured) (interval : Option Nat) (outcome : CaptureOutcome) (p : Option Int) (s : State) :
    (captureRecord i cap interval outcome p s).tbs = s.tbs ∧ (captureRecord i cap interval outcome p s).rfi = s.rfi ∧
    (captureRecord i cap interval outcome p s).dsv = s.dsv ∧ (captureRecord i cap interval outcome p s).lnk = s.lnk ∧
    (captureRecord i cap interval outcome p s).crs = s.crs ∧ (captureRecord i cap interval outcome p s).rng = s.rng ∧
    (captureRecord i cap interval outcome p s).bcu = s.bcu ∧ (captureRecord i cap interval outcome p s).pou = s.pou ∧
    (captureRecord i cap interval outcome p s).evc = s.evc ∧ (captureRecord i cap interval outcome p s).mem = s.mem ∧
    (captureRecord i cap interval outcome p s).pending = s.pending := by
  unfold captureRecord; (repeat' split) <;> simp

@[simp] theorem capture_frame (i : Fin 4) (cap : Captured) (s : State) :
    (capture i cap s).tbs = s.tbs ∧ (capture i cap s).rfi = s.rfi ∧ (capture i cap s).dsv = s.dsv ∧
    (capture i cap s).lnk = s.lnk ∧ (capture i cap s).rng = s.rng ∧ (capture i cap s).pou = s.pou ∧
    (capture i cap s).mem = s.mem ∧ (capture i cap s).pending = s.pending := by
  simp only [capture]; (repeat' split) <;> simp_all

@[simp] theorem lineChange_frame (i : Fin 4) (level : Bool) (at_ : Instant) (s : State) :
    (lineChange i level at_ s).tbs = s.tbs ∧ (lineChange i level at_ s).rfi = s.rfi ∧
    (lineChange i level at_ s).dsv = s.dsv ∧ (lineChange i level at_ s).lnk = s.lnk ∧
    (lineChange i level at_ s).crs = s.crs ∧ (lineChange i level at_ s).rng = s.rng ∧
    (lineChange i level at_ s).bcu = s.bcu ∧ (lineChange i level at_ s).pou = s.pou ∧
    (lineChange i level at_ s).xch = s.xch ∧ (lineChange i level at_ s).mem = s.mem ∧
    (lineChange i level at_ s).pending = s.pending := by
  simp only [lineChange]; (repeat' split) <;> simp_all

@[simp] theorem confirm_frame (i : Fin 4) (cd : Candidate) (s : State) :
    (confirm i cd s).tbs = s.tbs ∧ (confirm i cd s).rfi = s.rfi ∧ (confirm i cd s).dsv = s.dsv ∧
    (confirm i cd s).lnk = s.lnk ∧ (confirm i cd s).rng = s.rng ∧ (confirm i cd s).pou = s.pou ∧
    (confirm i cd s).mem = s.mem ∧ (confirm i cd s).pending = s.pending := by
  unfold confirm; (repeat' split) <;> simp

@[simp] theorem confirmIf_frame (reached : Nat → Bool) (i : Fin 4) (s : State) :
    (confirmIf reached i s).tbs = s.tbs ∧ (confirmIf reached i s).rfi = s.rfi ∧ (confirmIf reached i s).dsv = s.dsv ∧
    (confirmIf reached i s).lnk = s.lnk ∧ (confirmIf reached i s).rng = s.rng ∧ (confirmIf reached i s).pou = s.pou ∧
    (confirmIf reached i s).mem = s.mem ∧ (confirmIf reached i s).pending = s.pending := by
  unfold confirmIf; (repeat' split) <;> simp

@[simp] theorem orderCaptureSetup_frame (p : CaptureSetupP) (slot : Nat) (s : State) :
    (orderCaptureSetup p slot s).tbs = s.tbs ∧ (orderCaptureSetup p slot s).rfi = s.rfi ∧
    (orderCaptureSetup p slot s).dsv = s.dsv ∧ (orderCaptureSetup p slot s).lnk = s.lnk ∧
    (orderCaptureSetup p slot s).rng = s.rng ∧ (orderCaptureSetup p slot s).pou = s.pou ∧
    (orderCaptureSetup p slot s).mem = s.mem ∧ (orderCaptureSetup p slot s).pending = s.pending := by
  unfold orderCaptureSetup; (repeat' split) <;> simp

@[simp] theorem evcBoundary_frame (r : Report) (s : State) :
    (evcBoundary r s).tbs = s.tbs ∧ (evcBoundary r s).rfi = s.rfi ∧ (evcBoundary r s).dsv = s.dsv ∧
    (evcBoundary r s).lnk = s.lnk ∧ (evcBoundary r s).rng = s.rng ∧ (evcBoundary r s).pou = s.pou ∧
    (evcBoundary r s).mem = s.mem ∧ (evcBoundary r s).pending = s.pending := by
  unfold evcBoundary; (repeat' split) <;> simp

@[simp] theorem orderSnapshot_frame (view : Byte) (slot : Nat) (s : State) :
    (orderSnapshot view slot s).tbs = s.tbs ∧ (orderSnapshot view slot s).rfi = s.rfi ∧
    (orderSnapshot view slot s).dsv = s.dsv ∧ (orderSnapshot view slot s).lnk = s.lnk ∧
    (orderSnapshot view slot s).crs = s.crs ∧ (orderSnapshot view slot s).rng = s.rng ∧
    (orderSnapshot view slot s).bcu = s.bcu ∧ (orderSnapshot view slot s).pou = s.pou ∧
    (orderSnapshot view slot s).evc = s.evc ∧ (orderSnapshot view slot s).mem = s.mem ∧
    (orderSnapshot view slot s).pending = s.pending := by
  unfold orderSnapshot; (repeat' split) <;> simp

@[simp] theorem withdrawStep_frame (slot : Nat) (s : State) :
    (withdrawStep slot s).rfi = s.rfi ∧ (withdrawStep slot s).dsv = s.dsv ∧ (withdrawStep slot s).lnk = s.lnk ∧
    (withdrawStep slot s).crs = s.crs ∧ (withdrawStep slot s).rng = s.rng ∧ (withdrawStep slot s).bcu = s.bcu ∧
    (withdrawStep slot s).pou = s.pou ∧ (withdrawStep slot s).evc = s.evc ∧ (withdrawStep slot s).xch = s.xch ∧
    (withdrawStep slot s).mem = s.mem ∧ (withdrawStep slot s).pending = s.pending := by
  simp [withdrawStep]

/-- A withdrawn order leaves the other blocks as they are. -/
theorem withdraw_frame (o : Order) (slot : Nat) (s t : State) (h : withdraw o slot s = some t) :
    t.rfi = s.rfi ∧ t.dsv = s.dsv ∧ t.lnk = s.lnk ∧ t.crs = s.crs ∧ t.rng = s.rng ∧ t.bcu = s.bcu ∧ t.evc = s.evc ∧
    t.mem = s.mem ∧ t.pending = s.pending ∧ t.xch = s.xch := by
  unfold withdraw at h; split at h <;> simp at h <;> subst h <;> simp

@[simp] theorem cancelEntry_frame (e : StoreEntry) (target slot : Nat) (s : State) :
    (cancelEntry e target slot s).rfi = s.rfi ∧ (cancelEntry e target slot s).dsv = s.dsv ∧
    (cancelEntry e target slot s).lnk = s.lnk ∧ (cancelEntry e target slot s).crs = s.crs ∧
    (cancelEntry e target slot s).rng = s.rng ∧ (cancelEntry e target slot s).bcu = s.bcu ∧
    (cancelEntry e target slot s).evc = s.evc ∧ (cancelEntry e target slot s).mem = s.mem ∧
    (cancelEntry e target slot s).pending = s.pending := by
  unfold cancelEntry
  split
  · simp
  · split
    · simp
    · rename_i h
      have h' := withdraw_frame _ _ _ _ h
      simp [h']

@[simp] theorem orderCancel_frame (target : Byte) (cookie : BitVec 16) (slot : Nat) (s : State) :
    (orderCancel target cookie slot s).rfi = s.rfi ∧ (orderCancel target cookie slot s).dsv = s.dsv ∧
    (orderCancel target cookie slot s).lnk = s.lnk ∧ (orderCancel target cookie slot s).crs = s.crs ∧
    (orderCancel target cookie slot s).rng = s.rng ∧ (orderCancel target cookie slot s).bcu = s.bcu ∧
    (orderCancel target cookie slot s).evc = s.evc ∧ (orderCancel target cookie slot s).mem = s.mem ∧
    (orderCancel target cookie slot s).pending = s.pending := by
  unfold orderCancel; (repeat' split) <;> simp

@[simp] theorem beginConfigRead_frame (slot : Nat) (s : State) :
    (beginConfigRead slot s).tbs = s.tbs ∧ (beginConfigRead slot s).rfi = s.rfi ∧
    (beginConfigRead slot s).dsv = s.dsv ∧ (beginConfigRead slot s).lnk = s.lnk ∧
    (beginConfigRead slot s).crs = s.crs ∧ (beginConfigRead slot s).rng = s.rng ∧
    (beginConfigRead slot s).bcu = s.bcu ∧ (beginConfigRead slot s).pou = s.pou ∧
    (beginConfigRead slot s).evc = s.evc ∧ (beginConfigRead slot s).mem = s.mem ∧
    (beginConfigRead slot s).pending = s.pending := by
  unfold beginConfigRead; (repeat' split) <;> simp

@[simp] theorem handOrder_frame (o : Order) (slot : Nat) (s : State) :
    (handOrder o slot s).mem = s.mem ∧ (handOrder o slot s).pending = s.pending := by
  unfold handOrder; (repeat' split) <;> simp

@[simp] theorem configRead_frame (slot : Nat) (s : State) :
    (configRead slot s).tbs = s.tbs ∧ (configRead slot s).rfi = s.rfi ∧ (configRead slot s).dsv = s.dsv ∧
    (configRead slot s).pou = s.pou ∧ (configRead slot s).evc = s.evc ∧ (configRead slot s).mem = s.mem ∧
    (configRead slot s).pending = s.pending := by
  unfold configRead; (repeat' split) <;> simp

@[simp] theorem beginAccess_frame (a : Access) (step : SweepStep) (s : State) :
    (beginAccess a step s).tbs = s.tbs ∧ (beginAccess a step s).rfi = s.rfi ∧ (beginAccess a step s).dsv = s.dsv ∧
    (beginAccess a step s).lnk = s.lnk ∧ (beginAccess a step s).crs = s.crs ∧ (beginAccess a step s).rng = s.rng ∧
    (beginAccess a step s).bcu = s.bcu ∧ (beginAccess a step s).pou = s.pou ∧ (beginAccess a step s).evc = s.evc ∧
    (beginAccess a step s).mem = s.mem ∧ (beginAccess a step s).pending = s.pending := by
  simp [beginAccess]

@[simp] theorem goHeader_frame (s : State) :
    (goHeader s).tbs = s.tbs ∧ (goHeader s).rfi = s.rfi ∧ (goHeader s).dsv = s.dsv ∧ (goHeader s).lnk = s.lnk ∧
    (goHeader s).crs = s.crs ∧ (goHeader s).rng = s.rng ∧ (goHeader s).bcu = s.bcu ∧ (goHeader s).pou = s.pou ∧
    (goHeader s).evc = s.evc ∧ (goHeader s).mem = s.mem ∧ (goHeader s).pending = s.pending := by
  unfold goHeader; (repeat' split) <;> simp

@[simp] theorem goJournal_frame (left : Nat) (s : State) :
    (goJournal left s).tbs = s.tbs ∧ (goJournal left s).rfi = s.rfi ∧ (goJournal left s).dsv = s.dsv ∧
    (goJournal left s).lnk = s.lnk ∧ (goJournal left s).crs = s.crs ∧ (goJournal left s).rng = s.rng ∧
    (goJournal left s).bcu = s.bcu ∧ (goJournal left s).pou = s.pou ∧ (goJournal left s).evc = s.evc ∧
    (goJournal left s).mem = s.mem ∧ (goJournal left s).pending = s.pending := by
  unfold goJournal; (repeat' split) <;> simp

@[simp] theorem beginPublish_frame (n left : Nat) (s : State) :
    (beginPublish n left s).tbs = s.tbs ∧ (beginPublish n left s).rfi = s.rfi ∧ (beginPublish n left s).dsv = s.dsv ∧
    (beginPublish n left s).lnk = s.lnk ∧ (beginPublish n left s).rng = s.rng ∧ (beginPublish n left s).bcu = s.bcu ∧
    (beginPublish n left s).pou = s.pou ∧ (beginPublish n left s).evc = s.evc ∧ (beginPublish n left s).mem = s.mem ∧
    (beginPublish n left s).pending = s.pending := by
  simp [beginPublish]

@[simp] theorem goClients_frame (left : Nat) (s : State) :
    (goClients left s).tbs = s.tbs ∧ (goClients left s).rfi = s.rfi ∧ (goClients left s).dsv = s.dsv ∧
    (goClients left s).lnk = s.lnk ∧ (goClients left s).rng = s.rng ∧ (goClients left s).bcu = s.bcu ∧
    (goClients left s).pou = s.pou ∧ (goClients left s).evc = s.evc ∧ (goClients left s).mem = s.mem ∧
    (goClients left s).pending = s.pending := by
  unfold goClients; (repeat' split) <;> simp

@[simp] theorem goCompletions_frame (k : Nat) (s : State) :
    (goCompletions k s).tbs = s.tbs ∧ (goCompletions k s).rfi = s.rfi ∧ (goCompletions k s).dsv = s.dsv ∧
    (goCompletions k s).lnk = s.lnk ∧ (goCompletions k s).rng = s.rng ∧ (goCompletions k s).bcu = s.bcu ∧
    (goCompletions k s).pou = s.pou ∧ (goCompletions k s).evc = s.evc ∧ (goCompletions k s).mem = s.mem ∧
    (goCompletions k s).pending = s.pending := by
  unfold goCompletions; (repeat' split) <;> simp

@[simp] theorem goOrders_frame (k : Nat) (s : State) :
    (goOrders k s).tbs = s.tbs ∧ (goOrders k s).rfi = s.rfi ∧ (goOrders k s).dsv = s.dsv ∧
    (goOrders k s).lnk = s.lnk ∧ (goOrders k s).rng = s.rng ∧ (goOrders k s).bcu = s.bcu ∧
    (goOrders k s).pou = s.pou ∧ (goOrders k s).evc = s.evc ∧ (goOrders k s).mem = s.mem ∧
    (goOrders k s).pending = s.pending := by
  unfold goOrders; (repeat' split) <;> simp

@[simp] theorem beginSweep_frame (s : State) :
    (beginSweep s).tbs = s.tbs ∧ (beginSweep s).rfi = s.rfi ∧ (beginSweep s).dsv = s.dsv ∧
    (beginSweep s).lnk = s.lnk ∧ (beginSweep s).rng = s.rng ∧ (beginSweep s).bcu = s.bcu ∧
    (beginSweep s).pou = s.pou ∧ (beginSweep s).evc = s.evc ∧ (beginSweep s).mem = s.mem ∧
    (beginSweep s).pending = s.pending := by
  simp [beginSweep]

@[simp] theorem endSweep_frame (s : State) :
    (endSweep s).tbs = s.tbs ∧ (endSweep s).rfi = s.rfi ∧ (endSweep s).dsv = s.dsv ∧ (endSweep s).lnk = s.lnk ∧
    (endSweep s).crs = s.crs ∧ (endSweep s).rng = s.rng ∧ (endSweep s).bcu = s.bcu ∧ (endSweep s).pou = s.pou ∧
    (endSweep s).evc = s.evc ∧ (endSweep s).mem = s.mem ∧ (endSweep s).pending = s.pending := by
  simp [endSweep]

@[simp] theorem goRetry_frame (fuel k : Nat) (s : State) :
    (goRetry fuel k s).mem = s.mem ∧ (goRetry fuel k s).pending = s.pending := by
  induction fuel generalizing k s with
  | zero => simp [goRetry]
  | succ n ih => simp only [goRetry]; (repeat' split) <;> simp [ih]

@[simp] theorem goOn_frame (s : State) :
    (goOn s).mem = s.mem ∧ (goOn s).pending = s.pending := by
  simp only [goOn]; (repeat' split) <;> simp_all

@[simp] theorem slotTakenEnd_frame (n : Nat) (s : State) :
    (slotTakenEnd n s).pending = s.pending := by
  simp [slotTakenEnd]

@[simp] theorem markWritten_frame (slot : Nat) (s : State) :
    (markWritten slot s).tbs = s.tbs ∧ (markWritten slot s).rfi = s.rfi ∧ (markWritten slot s).dsv = s.dsv ∧
    (markWritten slot s).lnk = s.lnk ∧ (markWritten slot s).crs = s.crs ∧ (markWritten slot s).rng = s.rng ∧
    (markWritten slot s).bcu = s.bcu ∧ (markWritten slot s).pou = s.pou ∧ (markWritten slot s).evc = s.evc ∧
    (markWritten slot s).mem = s.mem ∧ (markWritten slot s).pending = s.pending := by
  simp [markWritten]

@[simp] theorem endPublish_frame (n : Nat) (part : PublishPart) (fields : List Byte) (s : State) :
    (endPublish n part fields s).tbs = s.tbs ∧ (endPublish n part fields s).rfi = s.rfi ∧
    (endPublish n part fields s).dsv = s.dsv ∧ (endPublish n part fields s).lnk = s.lnk ∧
    (endPublish n part fields s).rng = s.rng ∧ (endPublish n part fields s).bcu = s.bcu ∧
    (endPublish n part fields s).pou = s.pou ∧ (endPublish n part fields s).evc = s.evc ∧
    (endPublish n part fields s).mem = s.mem ∧ (endPublish n part fields s).pending = s.pending := by
  cases part <;> simp [endPublish]

@[simp] theorem endAccess_frame (a : Access) (s : State) :
    (endAccess a s).pending = s.pending := by
  unfold endAccess; (repeat' split) <;> simp

@[simp] theorem clearAccess_frame (s : State) :
    (clearAccess s).tbs = s.tbs ∧ (clearAccess s).rfi = s.rfi ∧ (clearAccess s).dsv = s.dsv ∧
    (clearAccess s).lnk = s.lnk ∧ (clearAccess s).crs = s.crs ∧ (clearAccess s).rng = s.rng ∧
    (clearAccess s).bcu = s.bcu ∧ (clearAccess s).pou = s.pou ∧ (clearAccess s).evc = s.evc ∧
    (clearAccess s).mem = s.mem ∧ (clearAccess s).pending = s.pending := by
  simp [clearAccess]

@[simp] theorem afterAccess_frame (s : State) :
    (afterAccess s).mem = s.mem ∧ (afterAccess s).pending = s.pending := by
  unfold afterAccess; (repeat' split) <;> simp

@[simp] theorem accessEnd_frame (s : State) :
    (accessEnd s).pending = s.pending := by
  unfold accessEnd; (repeat' split) <;> simp

@[simp] theorem headerRead_frame (s : State) :
    (headerRead s).mem = s.mem ∧ (headerRead s).pending = s.pending := by
  simp only [headerRead]; (repeat' split) <;> simp_all

@[simp] theorem toHalted_frame (s : State) :
    (toHalted s).tbs = s.tbs ∧ (toHalted s).rfi = s.rfi ∧ (toHalted s).dsv = s.dsv ∧ (toHalted s).lnk = s.lnk ∧
    (toHalted s).crs = s.crs ∧ (toHalted s).rng = s.rng ∧ (toHalted s).bcu = s.bcu ∧ (toHalted s).pou = s.pou ∧
    (toHalted s).evc = s.evc ∧ (toHalted s).mem = s.mem ∧ (toHalted s).pending = s.pending := by
  simp [toHalted]

@[simp] theorem cutAccess_frame (a : Access) (s : State) :
    (cutAccess a s).tbs = s.tbs ∧ (cutAccess a s).rfi = s.rfi ∧ (cutAccess a s).dsv = s.dsv ∧
    (cutAccess a s).lnk = s.lnk ∧ (cutAccess a s).rng = s.rng ∧ (cutAccess a s).bcu = s.bcu ∧
    (cutAccess a s).pou = s.pou ∧ (cutAccess a s).evc = s.evc ∧ (cutAccess a s).xch = s.xch ∧
    (cutAccess a s).mem = s.mem ∧ (cutAccess a s).pending = s.pending := by
  unfold cutAccess; (repeat' split) <;> simp

@[simp] theorem toStalled_frame (s : State) :
    (toStalled s).tbs = s.tbs ∧ (toStalled s).rfi = s.rfi ∧ (toStalled s).dsv = s.dsv ∧ (toStalled s).lnk = s.lnk ∧
    (toStalled s).crs = s.crs ∧ (toStalled s).rng = s.rng ∧ (toStalled s).bcu = s.bcu ∧ (toStalled s).pou = s.pou ∧
    (toStalled s).evc = s.evc ∧ (toStalled s).mem = s.mem ∧ (toStalled s).pending = s.pending := by
  simp [toStalled]

@[simp] theorem busError_frame (landed : Nat) (s : State) :
    (busError landed s).tbs = s.tbs ∧ (busError landed s).rfi = s.rfi ∧ (busError landed s).dsv = s.dsv ∧
    (busError landed s).lnk = s.lnk ∧ (busError landed s).rng = s.rng ∧ (busError landed s).bcu = s.bcu ∧
    (busError landed s).pou = s.pou ∧ (busError landed s).evc = s.evc ∧ (busError landed s).pending = s.pending := by
  unfold busError; (repeat' split) <;> simp

@[simp] theorem askSweep_frame (s : State) :
    (askSweep s).tbs = s.tbs ∧ (askSweep s).rfi = s.rfi ∧ (askSweep s).dsv = s.dsv ∧ (askSweep s).lnk = s.lnk ∧
    (askSweep s).rng = s.rng ∧ (askSweep s).bcu = s.bcu ∧ (askSweep s).pou = s.pou ∧ (askSweep s).evc = s.evc ∧
    (askSweep s).mem = s.mem ∧ (askSweep s).pending = s.pending := by
  unfold askSweep; (repeat' split) <;> simp

@[simp] theorem writeControl_frame (v : BitVec 32) (s : State) :
    (writeControl v s).tbs = s.tbs ∧ (writeControl v s).rfi = s.rfi ∧ (writeControl v s).dsv = s.dsv ∧
    (writeControl v s).lnk = s.lnk ∧ (writeControl v s).crs = s.crs ∧ (writeControl v s).rng = s.rng ∧
    (writeControl v s).bcu = s.bcu ∧ (writeControl v s).pou = s.pou ∧ (writeControl v s).evc = s.evc ∧
    (writeControl v s).mem = s.mem ∧ (writeControl v s).pending = s.pending := by
  unfold writeControl; (repeat' split) <;> simp

@[simp] theorem nudge_frame (s : State) :
    (nudge s).tbs = s.tbs ∧ (nudge s).rfi = s.rfi ∧ (nudge s).dsv = s.dsv ∧ (nudge s).lnk = s.lnk ∧
    (nudge s).rng = s.rng ∧ (nudge s).bcu = s.bcu ∧ (nudge s).pou = s.pou ∧ (nudge s).evc = s.evc ∧
    (nudge s).mem = s.mem ∧ (nudge s).pending = s.pending := by
  unfold nudge; (repeat' split) <;> simp

@[simp] theorem writeRegister_frame (offset : Fin 32) (w : RegWrite) (s : State) :
    (writeRegister offset w s).tbs = s.tbs ∧ (writeRegister offset w s).rfi = s.rfi ∧
    (writeRegister offset w s).dsv = s.dsv ∧ (writeRegister offset w s).lnk = s.lnk ∧
    (writeRegister offset w s).rng = s.rng ∧ (writeRegister offset w s).bcu = s.bcu ∧
    (writeRegister offset w s).pou = s.pou ∧ (writeRegister offset w s).evc = s.evc ∧
    (writeRegister offset w s).mem = s.mem ∧ (writeRegister offset w s).pending = s.pending := by
  unfold writeRegister; (repeat' split) <;> simp

@[simp] theorem requeueClients_frame (s : State) :
    (requeueClients s).tbs = s.tbs ∧ (requeueClients s).rfi = s.rfi ∧ (requeueClients s).dsv = s.dsv ∧
    (requeueClients s).lnk = s.lnk ∧ (requeueClients s).rng = s.rng ∧ (requeueClients s).bcu = s.bcu ∧
    (requeueClients s).pou = s.pou ∧ (requeueClients s).evc = s.evc ∧ (requeueClients s).xch = s.xch ∧
    (requeueClients s).mem = s.mem ∧ (requeueClients s).pending = s.pending := by
  simp [requeueClients]

@[simp] theorem exchangeReset_frame (s : State) :
    (exchangeReset s).rfi = s.rfi ∧ (exchangeReset s).dsv = s.dsv ∧ (exchangeReset s).lnk = s.lnk ∧
    (exchangeReset s).rng = s.rng ∧ (exchangeReset s).bcu = s.bcu ∧ (exchangeReset s).evc = s.evc ∧
    (exchangeReset s).mem = s.mem ∧ (exchangeReset s).pending = s.pending := by
  simp [exchangeReset]

@[simp] theorem blockBoundary_frame (r : Report) (b : Block) (s : State) :
    (blockBoundary r b s).mem = s.mem ∧ (blockBoundary r b s).pending = s.pending := by
  unfold blockBoundary; (repeat' split) <;> simp

@[simp] theorem boundary_frame (named : List Block) (s : State) :
    (boundary named s).mem = s.mem ∧ (boundary named s).pending = s.pending := by
  simp [boundary]

end Sys2Proof.Machine
end

