-- ==== Sys2Proof/Laws/Memory.lean ====
section
/-! SUPPORT. System memory keeps its canonical form, and reads give back what was written. -/

namespace Sys2Proof.Machine

/-- Every address of a memory lies above `a`. -/
def Memory.above (a : Nat) (m : Memory) : Prop := ∀ c ∈ m, a < c.1

/-- The canonical form of a memory with a first entry. -/
theorem Memory.wf_cons (c : Host.Cell) (m : Memory) :
    Memory.wf (c :: m) = true ↔ c.2 ≠ Config.memoryFill ∧ Memory.above c.1 m ∧ Memory.wf m = true := by
  induction m generalizing c with
  | nil => simp [Memory.wf, Memory.above]
  | cons d m ih =>
    simp only [Memory.wf, Bool.and_eq_true, bne_iff_ne, decide_eq_true_eq, Memory.above, List.mem_cons,
      forall_eq_or_imp]
    constructor
    · rintro ⟨⟨h1, h2⟩, h3⟩
      exact ⟨h1, ⟨h2, fun e he => lt_trans h2 (((ih d).mp h3).2.1 e he)⟩, h3⟩
    · rintro ⟨h1, ⟨h2, -⟩, h3⟩
      exact ⟨⟨h1, h2⟩, h3⟩

/-- A write leaves what lies above a lower address above it. -/
theorem Memory.above_write {b a : Nat} {v : Byte} {m : Memory} (h : Memory.above b m) (hb : b < a) :
    Memory.above b (Memory.write a v m) := by
  induction m with
  | nil =>
    unfold Memory.write; split
    · exact fun c hc => absurd hc (by simp)
    · intro c hc; simp at hc; subst hc; exact hb
  | cons d m ih =>
    have hm : Memory.above b m := fun c hc => h c (List.mem_cons_of_mem _ hc)
    have hd := h d (by simp)
    unfold Memory.write
    split
    · intro c hc
      rcases List.mem_cons.mp hc with rfl | hc
      · exact hd
      · exact ih hm c hc
    · intro c hc
      have : c = (a, v) ∨ c = d ∨ c ∈ m := by
        split at hc <;> split at hc <;> simp at hc <;> tauto
      rcases this with rfl | rfl | hc
      · exact hb
      · exact hd
      · exact hm c hc

/-- A write keeps the canonical form. -/
theorem Memory.write_wf {m : Memory} (a : Nat) (v : Byte) (h : Memory.wf m = true) :
    Memory.wf (Memory.write a v m) = true := by
  induction m with
  | nil => unfold Memory.write; split <;> simp_all [Memory.wf]
  | cons d m ih =>
    obtain ⟨h1, h2, h3⟩ := (Memory.wf_cons d m).mp h
    unfold Memory.write
    split
    · rename_i hlt
      exact (Memory.wf_cons _ _).mpr ⟨h1, Memory.above_write h2 hlt, ih h3⟩
    · rename_i hge
      by_cases he : d.1 = a
      · by_cases hv : v = Config.memoryFill
        · simpa [he, hv] using h3
        · simp only [he, hv, if_true, if_false]
          exact (Memory.wf_cons _ _).mpr ⟨hv, fun c hc => he ▸ h2 c hc, h3⟩
      · by_cases hv : v = Config.memoryFill
        · simpa [he, hv] using h
        · simp only [he, hv, if_false]
          refine (Memory.wf_cons _ _).mpr ⟨hv, fun c hc => ?_, h⟩
          have hlt : a < d.1 := by omega
          rcases List.mem_cons.mp hc with rfl | hc
          · exact hlt
          · exact lt_trans hlt (h2 c hc)

/-- A run of stores keeps the canonical form. -/
theorem Memory.writeAll_wf {m : Memory} (ws : List Host.Cell) (h : Memory.wf m = true) :
    Memory.wf (Memory.writeAll ws m) = true := by
  induction ws generalizing m with
  | nil => exact h
  | cons w ws ih => exact ih (Memory.write_wf w.1 w.2 h)

/-- An address below every entry reads as nothing written. -/
theorem Memory.read_above {m : Memory} {a : Nat} (h : Memory.above a m) : m.read a = Config.memoryFill := by
  have : m.find? (fun c => c.1 == a) = none := by
    rw [List.find?_eq_none]
    intro c hc; have := h c hc; simp; omega
  simp [Memory.read, this]

/-- Reading a memory with a first entry. -/
theorem Memory.read_cons (d : Host.Cell) (m : Memory) (b : Nat) :
    Memory.read (d :: m) b = if d.1 = b then d.2 else m.read b := by
  by_cases h : d.1 = b <;> simp [Memory.read, h]

/-- What is read after a write: the value written at its address, what was there elsewhere. -/
theorem Memory.read_write {m : Memory} (a b : Nat) (v : Byte) (h : Memory.wf m = true) :
    (Memory.write a v m).read b = if a = b then v else m.read b := by
  induction m with
  | nil =>
    unfold Memory.write
    by_cases hv : v = Config.memoryFill
    · by_cases hab : a = b <;> simp [hv, hab, Memory.read]
    · by_cases hab : a = b <;> simp [hv, hab, Memory.read]
  | cons d m ih =>
    obtain ⟨h1, h2, h3⟩ := (Memory.wf_cons d m).mp h
    unfold Memory.write
    split
    · rename_i hlt
      rw [Memory.read_cons, Memory.read_cons, ih h3]
      by_cases hdb : d.1 = b
      · have : a ≠ b := by omega
        simp [hdb, this]
      · simp [hdb]
    · rename_i hge
      by_cases he : d.1 = a
      · by_cases hv : v = Config.memoryFill
        · simp only [he, hv, if_true]
          by_cases hab : a = b
          · simp [hab, Memory.read_above (hab ▸ he ▸ h2)]
          · simp [hab, Memory.read_cons, he]
        · simp only [he, hv, if_true, if_false, Memory.read_cons]
          by_cases hab : a = b <;> simp [hab]
      · have hlt : a < d.1 := by omega
        by_cases hv : v = Config.memoryFill
        · simp only [he, hv, if_true, if_false]
          by_cases hab : a = b
          · subst hab
            have : Memory.above a (d :: m) := by
              intro c hc
              rcases List.mem_cons.mp hc with rfl | hc
              · exact hlt
              · exact lt_trans hlt (h2 c hc)
            simp [Memory.read_above this]
          · simp [hab]
        · simp only [he, hv, if_false]
          rw [Memory.read_cons]

/-- Stores at other addresses leave a byte as it was. -/
theorem Memory.read_writeAll_ne {m : Memory} (ws : List Host.Cell) (b : Nat) (h : Memory.wf m = true)
    (hb : ∀ w ∈ ws, w.1 ≠ b) : (Memory.writeAll ws m).read b = m.read b := by
  induction ws generalizing m with
  | nil => rfl
  | cons w ws ih =>
    have h1 := ih (Memory.write_wf w.1 w.2 h) (fun x hx => hb x (List.mem_cons_of_mem _ hx))
    have h2 := Memory.read_write w.1 b w.2 h
    rw [if_neg (hb w (by simp))] at h2
    exact h1.trans h2

/-- The memory of the reset state has the canonical form. -/
theorem State.reset_mem_wf : Memory.wf State.reset.mem = true := rfl

end Sys2Proof.Machine
end

