-- ==== Sys2Proof/Laws/Ops.lean ====
section
/-! SUPPORT. What each shared operation does, said once: reading what an operation wrote, orders and their answers,
journal staging, queues, client state, class, gate, device time, pulse and Beacon schedules, the launch and the sweep. -/

namespace Sys2Proof.Machine

/-! ## Doing something for each element -/

@[simp] theorem forEach_nil {α : Type} (f : α → State → State) (s : State) : forEach [] f s = s := rfl

@[simp] theorem forEach_cons {α : Type} (x : α) (xs : List α) (f : α → State → State) (s : State) :
    forEach (x :: xs) f s = forEach xs f (f x s) := rfl

/-- What each step keeps, the whole run keeps. -/
theorem forEach_keeps {α : Type} (P : State → Prop) (f : α → State → State) (xs : List α)
    (h : ∀ x ∈ xs, ∀ s, P s → P (f x s)) (s : State) (hs : P s) : P (forEach xs f s) := by
  induction xs generalizing s with
  | nil => exact hs
  | cons y ys ih => exact ih (fun x hx => h x (List.mem_cons_of_mem y hx)) _ (h y List.mem_cons_self s hs)

/-! ## Reading what was written -/

@[simp] theorem otherInput_ne (i : RefInput) : otherInput i ≠ i := by cases i <;> decide

theorem modInput_congr {α : Type} {i : RefInput} {f g : α → α} {x : Pair α} (h : f (atInput x i) = g (atInput x i)) :
    modInput i f x = modInput i g x := by
  cases i <;> simp_all [modInput, atInput]

/-- Two changes of an input that agree on its present value are one. -/
theorem modRef_congr {i : RefInput} {f g : RefIn → RefIn} {s : State} (h : f (refIn s i) = g (refIn s i)) :
    modRef i f s = modRef i g s := by
  unfold modRef; rw [modInput_congr (f := f) (g := g) h]

@[simp] theorem modRef_modRef (i : RefInput) (f g : RefIn → RefIn) (s : State) :
    modRef i f (modRef i g s) = modRef i (fun r => f (g r)) s := by cases i <;> rfl

@[simp] theorem refIn_modRef (i : RefInput) (f : RefIn → RefIn) (s : State) :
    refIn (modRef i f s) i = f (refIn s i) := by cases i <;> rfl

@[simp] theorem refIn_modRef_other (i : RefInput) (f : RefIn → RefIn) (s : State) :
    refIn (modRef i f s) (otherInput i) = refIn s (otherInput i) := by cases i <;> rfl

theorem modRef_self {i : RefInput} {f : RefIn → RefIn} {s : State} (h : f (refIn s i) = refIn s i) :
    modRef i f s = s := by
  rw [modRef_congr (g := id) h]; cases i <;> rfl

@[simp] theorem link_modLink (p : Port) (f : LinkPort → LinkPort) (s : State) :
    link (modLink p f s) p = f (link s p) := atPort_modPort p f s.lnk

theorem link_modLink_ne {p q : Port} (h : q ≠ p) (f : LinkPort → LinkPort) (s : State) :
    link (modLink p f s) q = link s q := atPort_modPort_ne h f s.lnk

@[simp] theorem rangePort_modRange (p : Port) (f : RangePort → RangePort) (s : State) :
    rangePort (modRange p f s) p = f (rangePort s p) := atPort_modPort p f s.rng.ports

theorem rangePort_modRange_ne {p q : Port} (h : q ≠ p) (f : RangePort → RangePort) (s : State) :
    rangePort (modRange p f s) q = rangePort s q := atPort_modPort_ne h f s.rng.ports

@[simp] theorem beaconPort_modBeacon (p : Port) (f : BeaconPort → BeaconPort) (s : State) :
    beaconPort (modBeacon p f s) p = f (beaconPort s p) := atPort_modPort p f s.bcu.ports

theorem beaconPort_modBeacon_ne {p q : Port} (h : q ≠ p) (f : BeaconPort → BeaconPort) (s : State) :
    beaconPort (modBeacon p f s) q = beaconPort s q := atPort_modPort_ne h f s.bcu.ports

/-- Reading a list where it was changed. -/
theorem getD_modify_self {α : Type} {xs : List α} {n : Nat} (f : α → α) (d : α) (h : n < xs.length) :
    (xs.modify n f).getD n d = f (xs.getD n d) := by
  simp [List.getD_eq_getElem?_getD, h]

/-- Reading a list where it was not changed. -/
theorem getD_modify_ne {α : Type} {xs : List α} {n k : Nat} (f : α → α) (d : α) (h : k ≠ n) :
    (xs.modify n f).getD k d = xs.getD k d := by
  simp [List.getD_eq_getElem?_getD, Ne.symm h]

theorem client_modClient {n : Nat} {s : State} (f : Client → Client) (h : n < s.crs.clients.length) :
    client (modClient n f s) n = f (client s n) := getD_modify_self f Client.reset h

theorem client_modClient_ne {n k : Nat} (f : Client → Client) (s : State) (h : k ≠ n) :
    client (modClient n f s) k = client s k := getD_modify_ne f Client.reset h

theorem path_modPath {n : Nat} {s : State} (p : Port) (f : Path → Path) (h : n < s.crs.clients.length) :
    path (modPath n p f s) n p = f (path s n p) := by
  unfold path modPath
  rw [client_modClient _ h, atPort_modPort]

@[simp] theorem clients_length_modClient (n : Nat) (f : Client → Client) (s : State) :
    (modClient n f s).crs.clients.length = s.crs.clients.length := by simp [modClient]

theorem channel_modChannel {c : Nat} {s : State} (f : Channel → Channel) (h : c < s.pou.channels.length) :
    channel (modChannel c f s) c = f (channel s c) := getD_modify_self f Channel.reset h

theorem channel_modChannel_ne {c d : Nat} (f : Channel → Channel) (s : State) (h : d ≠ c) :
    channel (modChannel c f s) d = channel s d := getD_modify_ne f Channel.reset h

theorem captureIn_modCapture {i : Nat} {s : State} (f : CaptureIn → CaptureIn) (h : i < s.evc.length) :
    captureIn (modCapture i f s) i = f (captureIn s i) := getD_modify_self f CaptureIn.reset h

theorem captureIn_modCapture_ne {i j : Nat} (f : CaptureIn → CaptureIn) (s : State) (h : j ≠ i) :
    captureIn (modCapture i f s) j = captureIn s j := getD_modify_ne f CaptureIn.reset h

/-! ## Orders -/

@[simp] theorem set_modify {α : Type} (l : List α) (i : Nat) (a : α) (f : α → α) :
    (l.set i a).modify i f = l.set i (f a) := by
  induction l generalizing i with
  | nil => simp
  | cons x xs ih => cases i <;> simp [ih]

/-- R181: an order whose slot may be taken is copied and handed to its owner. -/
theorem handOver_run {src : OrderSrc} {s : State} (o : Order) (owner : Nat → State → State)
    (h : canTake s src.slot.val = true) :
    handOver src o owner s = owner src.slot.val (takeOrder src.slot.val src.cookie o s) := by
  simp [handOver, h]

/-- R181: an order whose slot may not be taken is passed over. -/
theorem handOver_passed {src : OrderSrc} {s : State} (o : Order) (owner : Nat → State → State)
    (h : canTake s src.slot.val = false) : handOver src o owner s = s := by
  simp [handOver, h]

/-- An order taken and completed is answered. -/
theorem complete_take (src : OrderSrc) (o : Order) (r : ResultCode) (data : List Byte) (s : State) :
    complete src.slot.val r data (takeOrder src.slot.val src.cookie o s) = answered src o r data s := by
  simp [complete, takeOrder, answered, modXch]

/-- An order taken and completed without result data is answered. -/
theorem finish_take (src : OrderSrc) (o : Order) (r : ResultCode) (s : State) :
    finish src.slot.val r (takeOrder src.slot.val src.cookie o s) = answered src o r [] s := complete_take src o r [] s

/-- An order taken and not completed is held. -/
theorem takeOrder_holding (src : OrderSrc) (o : Order) (s : State) :
    takeOrder src.slot.val src.cookie o s = holding src o s := rfl

theorem storeEntry_takeOrder {slot : Nat} {s : State} (cookie : BitVec 16) (o : Order) (h : slot < s.xch.store.length) :
    storeEntry (takeOrder slot cookie o s) slot = some { order := o, cookie := cookie, status := .held } := by
  simp [storeEntry, takeOrder, modXch, List.getD_eq_getElem?_getD, h]

theorem storeEntry_takeOrder_ne {slot k : Nat} (cookie : BitVec 16) (o : Order) (s : State) (h : k ≠ slot) :
    storeEntry (takeOrder slot cookie o s) k = storeEntry s k := by
  simp [storeEntry, takeOrder, modXch, List.getD_eq_getElem?_getD, Ne.symm h]

/-- R182: the entry of a slot after its completion. -/
theorem storeEntry_complete (slot : Nat) (r : ResultCode) (data : List Byte) (s : State) :
    storeEntry (complete slot r data s) slot =
      (storeEntry s slot).map (fun e => { e with status := .completed r data false }) := by
  by_cases h : slot < s.xch.store.length
  · exact getD_modify_self _ none h
  · have h' : s.xch.store.length ≤ slot := Nat.le_of_not_lt h
    simp [storeEntry, complete, modXch, List.getD_eq_getElem?_getD, h']

theorem storeEntry_complete_ne {slot k : Nat} (r : ResultCode) (data : List Byte) (s : State) (h : k ≠ slot) :
    storeEntry (complete slot r data s) k = storeEntry s k := getD_modify_ne _ none h

/-! ## Journal staging and causes -/

/-- R185: with room, the record joins the staging queue with the loss mark and device time. -/
theorem stage_room {s : State} (body : JournalBody) (h : s.xch.staging.length < 64) :
    stage body s = modXch (fun x => { x with
      staging := x.staging ++ [{ body := body, lossBefore := x.lossMark, sec := s.tbs.time.sec, ns := s.tbs.time.ns }]
      lossMark := false }) s := by
  simp [stage, h]

/-- R185: with 64 records held, the record is lost and counted. -/
theorem stage_full {s : State} (body : JournalBody) (h : 64 ≤ s.xch.staging.length) :
    stage body s = modXch (fun x => { x with lost := incWrap32 x.lost, lossMark := true }) s := by
  simp [stage, Nat.not_lt.mpr h]

/-- R185: after a handing the record is staged, or 64 others are. -/
theorem stage_staged (body : JournalBody) (s : State) :
    (∃ r ∈ (stage body s).xch.staging, r.body = body) ∨ 64 ≤ (stage body s).xch.staging.length := by
  by_cases h : s.xch.staging.length < 64
  · rw [stage_room body h]; exact .inl ⟨_, List.mem_append_right _ List.mem_cons_self, rfl⟩
  · rw [stage_full body (Nat.le_of_not_lt h)]; exact .inr (Nat.le_of_not_lt h)

/-- R185: a handing removes no staged record. -/
theorem stage_prefix (body : JournalBody) (s : State) : s.xch.staging <+: (stage body s).xch.staging := by
  by_cases h : s.xch.staging.length < 64
  · rw [stage_room body h]; exact List.prefix_append _ _
  · rw [stage_full body (Nat.le_of_not_lt h)]; exact List.prefix_refl _

/-- R185: a handing never stages past 64 records. -/
theorem stage_length_le {s : State} (body : JournalBody) (h : s.xch.staging.length ≤ 64) :
    (stage body s).xch.staging.length ≤ 64 := by
  by_cases hr : s.xch.staging.length < 64
  · rw [stage_room body hr]; simpa [modXch] using hr
  · rw [stage_full body (Nat.le_of_not_lt hr)]; exact h

/-- Of the controller a handing changes the staging queue, its loss mark and the lost count. -/
theorem stage_xch (body : JournalBody) (s : State) :
    (stage body s).xch = { s.xch with
      staging := (stage body s).xch.staging, lossMark := (stage body s).xch.lossMark, lost := (stage body s).xch.lost } := by
  unfold stage; split <;> rfl

@[simp] theorem stage_store (body : JournalBody) (s : State) : (stage body s).xch.store = s.xch.store := by
  rw [stage_xch]

@[simp] theorem stage_access (body : JournalBody) (s : State) : (stage body s).xch.access = s.xch.access := by
  rw [stage_xch]

@[simp] theorem stage_causes (body : JournalBody) (s : State) : (stage body s).xch.causes = s.xch.causes := by
  rw [stage_xch]

/-- R172: setting a cause leaves the other causes. -/
theorem raiseCause_causes (c : Cause) (s : State) : (raiseCause c s).xch.causes = setCause c s.xch.causes := rfl

/-- R172: clearing what is not set leaves the causes. -/
theorem clearCauses_none (c : Causes) : clearCauses Causes.none c = c := by
  cases c; simp [clearCauses, Causes.none]

/-! ## Queues -/

/-- R92: a slot is queued for publication once, at its place or at the end. -/
theorem queuePub_queue (n : Nat) (s : State) :
    (queuePub n s).crs.queue = if n ∈ s.crs.queue then s.crs.queue else s.crs.queue ++ [n] := rfl

theorem mem_queuePub_self (n : Nat) (s : State) : n ∈ (queuePub n s).crs.queue := by
  rw [queuePub_queue]; split
  · assumption
  · simp

theorem mem_queuePub_of_mem {k : Nat} {s : State} (n : Nat) (h : k ∈ s.crs.queue) : k ∈ (queuePub n s).crs.queue := by
  rw [queuePub_queue]; split <;> simp [h]

theorem queuePub_nodup {n : Nat} {s : State} (h : s.crs.queue.Nodup) : (queuePub n s).crs.queue.Nodup := by
  rw [queuePub_queue]; split
  · exact h
  · rename_i hn
    exact List.nodup_append.mpr ⟨h, List.nodup_singleton n, fun a ha b hb hab => hn (by simp_all)⟩

/-- Queuing for publication leaves the contexts and the newcomers. -/
theorem queuePub_crs (n : Nat) (s : State) : (queuePub n s).crs = { s.crs with queue := (queuePub n s).crs.queue } := rfl

/-- A slot is queued exactly where a published field changed. -/
theorem queueIfChanged_cases (n : Nat) (before : Client) (s : State) :
    (sameMeasure (client s n) before = true ∧ queueIfChanged n before s = s) ∨
    (sameMeasure (client s n) before = false ∧ queueIfChanged n before s = queuePub n s) := by
  unfold queueIfChanged; split <;> simp_all

/-- R130: who stands in a roll-call queue after one joined. -/
theorem joinRoll_slots (p : Port) (n : Nat) (s : State) :
    (beaconPort (joinRoll p n s) p).roll.map (·.slot) =
      if n ∈ (beaconPort s p).roll.map (·.slot) then (beaconPort s p).roll.map (·.slot)
      else (beaconPort s p).roll.map (·.slot) ++ [n] := by
  unfold joinRoll
  rw [beaconPort_modBeacon]
  by_cases h : n ∈ (beaconPort s p).roll.map (·.slot)
  · have : (beaconPort s p).roll.any (·.slot == n) = true := by simpa using h
    simp only [this, h, if_true, List.map_map]
    exact List.map_congr_left (fun e _ => by simp only [Function.comp]; split <;> rfl)
  · have : (beaconPort s p).roll.any (·.slot == n) = false := by simpa using h
    simp [this, h]

/-- R132: who stands in a roll-call queue after one left. -/
theorem leaveRoll_roll (p : Port) (n : Nat) (s : State) :
    (beaconPort (leaveRoll p n s) p).roll = (beaconPort s p).roll.filter (·.slot != n) := by
  simp [leaveRoll]

/-! ## Client state, verdicts and paths -/

/-- R84: the state that a change leaves in its slot. -/
theorem changeState_client (n : Nat) (st : ClientState) (cause : ClientCause) (s : State) :
    (changeState n st cause s).crs.clients = (modClient n (fun c => { c with state := st }) s).crs.clients := by
  unfold changeState
  simp only [joinRoll, queuePub, modCrs, modBeacon]
  split <;> [skip; (split <;> split)] <;> simp

/-- R84: a changed client is queued for publication. -/
theorem changeState_queue (n : Nat) (st : ClientState) (cause : ClientCause) (s : State) :
    (changeState n st cause s).crs.queue = (queuePub n s).crs.queue := by
  unfold changeState
  simp only [joinRoll, queuePub, modCrs, modBeacon]
  split <;> [skip; (split <;> split)] <;> simp [modClient]

/-- R83: an evaluation leaves everything, or changes the state to the derived one. -/
theorem evaluate_cases (n : Nat) (cause : ClientCause) (s : State) :
    evaluate n cause s = s ∨
    ((client s n).state ≠ .vacant ∧ derivedState (client s n) ≠ (client s n).state ∧
      evaluate n cause s = changeState n (derivedState (client s n)) cause s) := by
  unfold evaluate; simp only; split
  · exact .inl rfl
  · split
    · exact .inl rfl
    · exact .inr ⟨‹_›, ‹_›, rfl⟩

/-- R83: an evaluation never makes a slot VACANT. -/
theorem derivedState_ne_vacant (c : Client) : derivedState c ≠ .vacant := by
  unfold derivedState; repeat' split
  all_goals decide

/-- R86: the runs of a verdict stay within 2 and 3. -/
theorem judge_runs (within : Bool) (j : Judged) : (judge within j).within ≤ 2 ∧ (judge within j).beyond ≤ 3 := by
  unfold judge; cases within <;> simp

/-- R99: paying debt never adds to it, and leaves the path's state. -/
theorem payDebt_le (b : PathState) (q : Path) : (payDebt b q).debt ≤ q.debt ∧ (payDebt b q).state = q.state := by
  unfold payDebt; split <;> simp

/-! ## Class and gate -/

/-- R155: a gate is CLOSED after its closing. -/
theorem closeGate_closed (cause : GateCause) (s : State) : (closeGate cause s).pou.gateOpen = false := by
  unfold closeGate; split
  · simp [modPou]
  · simp_all

/-- R155: a closing leaves class, floor and inhibit input. -/
theorem closeGate_rest (cause : GateCause) (s : State) :
    (closeGate cause s).pou.cls = s.pou.cls ∧ (closeGate cause s).pou.floor = s.pou.floor ∧
      (closeGate cause s).pou.inhibit = s.pou.inhibit := by
  unfold closeGate; split
  · simp [modPou]
  · exact ⟨rfl, rfl, rfl⟩

/-- R57: every unit that holds the class has the new one after a change. -/
theorem changeClass_copies (new : Nat) (s : State) :
    (changeClass new s).dsv.cls = new ∧ (changeClass new s).bcu.cls = new ∧ (changeClass new s).pou.cls = new := by
  unfold changeClass pouClass
  simp only
  split
  · have := closeGate_rest .cls (modPou (fun u => { u with cls := new }) (modBcu (fun b => { b with cls := new })
      (raiseCause .cls (stage (.classChange s.dsv.cls new (modDsv (fun d => { d with cls := new }) s).dsv.state
        (modDsv (fun d => { d with cls := new }) s).dsv.eps) (modDsv (fun d => { d with cls := new }) s)))))
    refine ⟨?_, ?_, this.1⟩ <;> simp [modPou, modBcu, modDsv, raiseCause, modXch]
  · refine ⟨?_, ?_, rfl⟩ <;> simp [modPou, modBcu, modDsv, raiseCause, modXch]

/-- R56: a candidate lies in 1..6. -/
theorem candidateOf_range (eps : Nat) : 1 ≤ candidateOf eps ∧ candidateOf eps ≤ 6 := by
  unfold candidateOf; repeat' split
  all_goals omega

/-! ## Device time -/

/-- R5: a tick's increment lies within its limits. -/
theorem nextInc_range (tb : Timebase) : minInc ≤ tb.nextInc ∧ tb.nextInc ≤ maxInc := by
  unfold Timebase.nextInc minInc maxInc; omega

/-- R5: the increment that a tick begins with lies within the limits. -/
theorem beginTick_range (tb : Timebase) : minInc ≤ (tb.beginTick.tickInc : Int) ∧ (tb.beginTick.tickInc : Int) ≤ maxInc := by
  have h := nextInc_range tb
  have e : (tb.beginTick.tickInc : Int) = tb.nextInc :=
    Int.toNat_of_nonneg (le_trans (by norm_num [minInc]) h.1)
  rw [e]; exact h

/-- R1: a tick adds its increment to device time, less one return to 0 after 2^48 seconds. -/
theorem advance_units {t : DeviceTime} {inc : Nat} (hs : t.sec < secSpan) :
    (t.advance inc).units = t.units + inc ∨ (t.advance inc).units + secSpan * unitsPerSec = t.units + inc := by
  have hc : t.crosses inc = true ↔ nsPerSec ≤ t.nsAfter inc := by simp [DeviceTime.crosses]
  unfold DeviceTime.advance
  by_cases h : t.crosses inc = true
  · have h' := hc.mp h
    rw [if_pos h]
    by_cases h2 : t.sec + 1 < secSpan
    · left
      rw [if_pos h2]
      simp only [DeviceTime.units, DeviceTime.nsAfter, unitsPerSec, unitsPerNs, nsPerSec] at *
      omega
    · right
      rw [if_neg h2]
      simp only [DeviceTime.units, DeviceTime.nsAfter, secSpan, unitsPerSec, unitsPerNs, nsPerSec] at *
      omega
  · left
    rw [if_neg h]
    simp only [DeviceTime.units, DeviceTime.nsAfter, unitsPerSec, unitsPerNs]
    omega

/-- R30: a moved instant lies within the range of device time. -/
theorem moveBy_le (d : Int) (v : Nat) : moveBy d v ≤ maxSix := by
  unfold moveBy; omega

/-- R30: an instant that stays in range is moved by Δ. -/
theorem moveBy_exact {d : Int} {v : Nat} (h0 : 0 ≤ (v : Int) + d) (h1 : (v : Int) + d ≤ maxSix) :
    (moveBy d v : Int) = v + d := by
  unfold moveBy; omega

/-- R3, R4: a value held within ± a limit. -/
theorem clampSym_range {limit : Int} (x : Int) (h : 0 ≤ limit) : -limit ≤ clampSym limit x ∧ clampSym limit x ≤ limit := by
  unfold clampSym; omega

/-! ## Pulse schedules -/

/-- R147: the ranges of a schedule's fields, mode by mode. -/
theorem scheduleOk_iff (p : PulseProgramP) (sc : Schedule) : scheduleOk p sc = true ↔
    match sc.mode with
    | .off => True
    | .second => sc.phase ≤ 999999999 ∧ 1 ≤ sc.width ∧ sc.width ≤ 999999999
    | .train => sc.phase ≤ 999999999 ∧ 1000 ≤ sc.period ∧ sc.period ≤ 1000000000 ∧ 1000000000 % sc.period = 0 ∧
        1 ≤ sc.width ∧ sc.width < sc.period
    | .mark => sc.phase ≤ 999999999 ∧ 1 ≤ sc.width ∧ sc.width ≤ 999999999 ∧ 1 ≤ sc.longWidth ∧
        sc.longWidth ≤ 999999999 ∧ 1 ≤ sc.markClass ∧ sc.markClass ≤ 6
    | .single => 1 ≤ sc.width ∧ sc.width ≤ 999999999 ∧ p.at8.toNat ≤ 999999999 := by
  unfold scheduleOk inRange
  cases sc.mode <;> simp <;> omega

/-- R30: the held device times of an input after a step, each moved by Δ; the rest of it stands. -/
theorem RefIn.move_eq (d : Int) (r : RefIn) : RefIn.move d r = { r with
    pulse := r.pulse.map (fun p => ⟨moveBy d p.rise, moveBy d p.stuckAt⟩)
    fifo := r.fifo.map (fun m => { m with completed := moveBy d m.completed })
    assembly := r.assembly.map (fun a => { a with last := moveBy d a.last })
    interval := r.interval.map (moveBy d)
    lossAt := r.lossAt.map (moveBy d) } := rfl

/-! ## Beacon schedule -/

/-- R124: the first point at or after an instant. -/
theorem firstPoint_spec {rate : Nat} (t : Nat) (h : 0 < spacing rate) :
    firstPoint rate t % spacing rate = 0 ∧ t ≤ firstPoint rate t ∧ firstPoint rate t < t + spacing rate := by
  unfold firstPoint
  generalize spacing rate = k at *
  have hd := Nat.div_add_mod (t + k - 1) k
  have hm := Nat.mod_lt (t + k - 1) h
  rw [Nat.mul_comm] at hd
  refine ⟨Nat.mul_mod_left _ _, ?_, ?_⟩ <;> omega

/-- R124: the point after one. -/
theorem pointAfter_point {rate t : Nat} (h : t % spacing rate = 0) : pointAfter rate t = t + spacing rate := by
  unfold pointAfter
  rw [Nat.add_mul, one_mul, Nat.div_mul_cancel (Nat.dvd_of_mod_eq_zero h)]

/-- R126, R127: the point set anew lies at the boundary's device time or up to a spacing after it, and past it where the
boundary's own point was taken before. -/
theorem reschedule_spec {rate : Nat} (r : Report) (next : Nat) (h : 0 < spacing rate) :
    reschedule r rate next % spacing rate = 0 ∧ r.instant ≤ reschedule r rate next ∧
      reschedule r rate next ≤ r.instant + spacing rate ∧
      (if r.epoch * sixPerSec < next then r.instant < reschedule r rate next
        else reschedule r rate next < r.instant + spacing rate) := by
  have hf := firstPoint_spec r.instant h
  unfold reschedule
  split
  · rename_i hc
    rw [if_pos hc.1, pointAfter_point (hc.2 ▸ hf.1)]
    exact ⟨by rw [Nat.add_mod_right, ← hc.2]; exact hf.1, by omega, by omega, by omega⟩
  · rename_i hc
    refine ⟨hf.1, hf.2.1, by omega, ?_⟩
    split
    · exact lt_of_le_of_ne hf.2.1 (fun e => hc ⟨‹_›, e.symm⟩)
    · exact hf.2.2

/-! ## The launch -/

/-- R101: the ranks, from 1 on. -/
theorem launchRank_eq (q : Path) : launchRank q + 1 =
    if q.state = .lost then (if q.urgent then 2 else 11) else if q.debt = 8 then 1 else 1 + (9 - q.debt) := by
  unfold launchRank; repeat' split
  all_goals omega

/-! ## Registers and the sweep -/

/-- R171: what a write of XCTL changes lies in the controller. -/
theorem writeControl_xch (v : BitVec 32) (s : State) : writeControl v s = { s with xch := (writeControl v s).xch } := by
  unfold writeControl
  repeat' split
  all_goals rfl

/-- R180: each part of a sweep begins an access. -/
theorem goHeader_access (s : State) : (goHeader s).xch.access = some .headerPart := rfl

theorem goJournal_access (left : Nat) (s : State) : (goJournal left s).xch.access.isSome = true := by
  unfold goJournal; split <;> rfl

theorem goClients_access (left : Nat) (s : State) : (goClients left s).xch.access.isSome = true := by
  unfold goClients; split <;> rfl

theorem goCompletions_access (k : Nat) (s : State) : (goCompletions k s).xch.access.isSome = true := by
  unfold goCompletions; split
  · rfl
  · exact goClients_access _ _

theorem goOrders_access (k : Nat) (s : State) : (goOrders k s).xch.access.isSome = true := by
  unfold goOrders; split
  · rfl
  · exact goCompletions_access _ _

/-- R177: what may have landed where a bus error ends an access is a beginning of its stores. -/
theorem cutStores_prefix (s : State) : cutStores s <+: pendingStores s := by
  unfold cutStores pendingStores
  split
  · exact List.nil_prefix
  · exact List.nil_prefix
  · simp_all [List.dropLast_prefix]

/-- R7: an expiry is passed where one is held at or before the device time of the last completed tick. -/
theorem Timebase.passed_iff (tb : Timebase) (d : Option Nat) : tb.passed d = true ↔ ∃ t, d = some t ∧ t ≤ tb.now := by
  cases d <;> simp [Timebase.passed]

/-- R179: a sweep begins with an access in progress. -/
theorem beginSweep_access (s : State) : (beginSweep s).xch.access.isSome = true := goOrders_access _ _

end Sys2Proof.Machine
end

