-- ==== Sys2Proof/Laws/Terms.lean ====
section
/-! SUPPORT. That the shared operations answer the terms of the statements: what a handing hands on, what a selection and its
notice do, what a port that leaves UP leaves, and how a sweep goes on. -/

namespace Sys2Proof.Machine

/-! ## Records handed on -/

/-- R185: what a handing stages it has handed on. -/
theorem handedOn_stage (body : JournalBody) (s : State) : handedOn s (stage body s) body := by
  unfold handedOn
  by_cases h : s.xch.staging.length < 64
  · rw [stage_room body h]; left; simp [modXch]
  · rw [stage_full body (Nat.le_of_not_lt h)]; right; simpa [modXch] using h

/-- What is handed on stays so where the queue only grows, and so does what a state before it handed on. -/
theorem handedOn_mono {s s' t t' : State} {body : JournalBody} (h : handedOn s t body)
    (hs : s'.xch.staging.length ≤ s.xch.staging.length) (ht : t.xch.staging <+: t'.xch.staging) : handedOn s' t' body := by
  obtain ⟨ys, e⟩ := ht
  unfold handedOn at h ⊢
  rw [← e]
  rcases h with ⟨r, hr, hb⟩ | h
  · refine .inl ⟨r, ?_, hb⟩
    have h1 : r ∈ t.xch.staging.drop s'.xch.staging.length := by
      have : t.xch.staging.drop s.xch.staging.length =
          (t.xch.staging.drop s'.xch.staging.length).drop (s.xch.staging.length - s'.xch.staging.length) := by
        rw [List.drop_drop]; congr 1; omega
      rw [this] at hr
      exact List.mem_of_mem_drop hr
    have h2 : s'.xch.staging.length ≤ t.xch.staging.length := by
      by_contra hlt
      rw [List.drop_eq_nil_of_le (by omega)] at h1
      cases h1
    rw [List.drop_append_of_le_length h2]
    exact List.mem_append_left _ h1
  · right; simp; omega

/-! ## The selection and its notice -/

/-- R155: a closing of the gate takes no record from staging. -/
theorem closeGate_staging (cause : GateCause) (s : State) : s.xch.staging <+: (closeGate cause s).xch.staging := by
  unfold closeGate; split
  · exact stage_prefix _ (modPou _ s)
  · exact List.prefix_refl _

/-- R57: a change of class takes no record from staging. -/
theorem changeClass_staging (new : Nat) (s : State) : s.xch.staging <+: (changeClass new s).xch.staging := by
  have h1 := stage_prefix (.classChange s.dsv.cls new s.dsv.state s.dsv.eps) (modDsv (fun d => { d with cls := new }) s)
  unfold changeClass pouClass
  dsimp only
  split
  · exact h1.trans (closeGate_staging .cls (modPou _ (modBcu _ (raiseCause .cls (stage _ _)))))
  · exact h1

/-- R57: the servo after a change of class. -/
theorem changeClass_dsv (new : Nat) (s : State) : (changeClass new s).dsv = { s.dsv with cls := new } ∧
    (changeClass new s).tbs = s.tbs := by
  unfold changeClass pouClass closeGate
  dsimp only
  repeat' split
  all_goals simp [raiseCause, modPou, modBcu, modXch, modDsv]

/-- R56, R57: a class evaluation of the servo's fields. -/
theorem evaluateClass_spec (s : State) : (evaluateClass s).dsv = classEvaluated s.dsv ∧ (evaluateClass s).tbs = s.tbs ∧
    s.xch.staging <+: (evaluateClass s).xch.staging := by
  have apply : ∀ (cand : Nat) (s : State),
      (applyCandidate cand s).dsv = { s.dsv with
        cls := if s.dsv.cls < cand ∨ cand < s.dsv.cls ∧ s.dsv.settings.improveDwell ≤ s.dsv.dwell + 1 then cand else s.dsv.cls
        dwell := if cand < s.dsv.cls ∧ s.dsv.dwell + 1 < s.dsv.settings.improveDwell then s.dsv.dwell + 1 else 0 } ∧
      (applyCandidate cand s).tbs = s.tbs ∧ s.xch.staging <+: (applyCandidate cand s).xch.staging := by
    intro cand s
    unfold applyCandidate
    split
    · rename_i h
      have := changeClass_dsv cand (modDsv (fun d => { d with dwell := 0 }) s)
      refine ⟨?_, this.2, changeClass_staging cand (modDsv (fun d => { d with dwell := 0 }) s)⟩
      rw [this.1]; simp [modDsv, h, Nat.not_lt.2 h.le]
    · split
      · rename_i h
        refine ⟨?_, rfl, List.prefix_refl _⟩
        simp [modDsv, h]
      · split
        · have := changeClass_dsv cand (modDsv (fun d => { d with dwell := 0 }) s)
          refine ⟨?_, this.2, changeClass_staging cand (modDsv (fun d => { d with dwell := 0 }) s)⟩
          rw [this.1]
          have h : cand < s.dsv.cls := by omega
          simp [modDsv, *]
        · have h : cand < s.dsv.cls := by omega
          refine ⟨?_, rfl, List.prefix_refl _⟩
          simp [modDsv, *]
  unfold evaluateClass
  split <;> rename_i h
  · have := apply 7 s
    refine ⟨?_, this.2⟩
    rw [this.1]; simp [classEvaluated, h]
  · have := apply (candidateOf s.dsv.eps) s
    refine ⟨?_, this.2⟩
    rw [this.1]; unfold classEvaluated; simp only [h]; rfl
  · have := apply (candidateOf (estimate s.dsv)) (modDsv (fun d => { d with eps := estimate d }) s)
    refine ⟨?_, this.2⟩
    refine this.1.trans ?_
    unfold classEvaluated; simp only [modDsv, h]; rfl
  · have := apply (max 3 (candidateOf (estimate s.dsv))) (modDsv (fun d => { d with eps := estimate d }) s)
    refine ⟨?_, this.2⟩
    refine this.1.trans ?_
    unfold classEvaluated; simp only [modDsv, h]; rfl

/-- R52, R53: an entry of a servo state. -/
theorem enterServo_spec (new : ServoState) (cause : ServoCause) (s : State) :
    let phi := if new = .holdover then holdoverPhi s.dsv s.tbs.phi else s.tbs.phi
    let e := entryEffects new s.dsv
    (enterServo new cause s).dsv = classEvaluated e ∧ (enterServo new cause s).tbs = { s.tbs with phi := phi } ∧
      handedOn s (enterServo new cause s) (.servoState s.dsv.state new cause phi e.eps e.labelCount e.gatedCount) ∧
      s.xch.staging <+: (enterServo new cause s).xch.staging := by
  intro phi e
  have ⟨h1, h2, h3⟩ := evaluateClass_spec (stage (.servoState s.dsv.state new cause phi e.eps e.labelCount e.gatedCount)
    (modTbs (fun t => { t with phi := phi }) (modDsv (entryEffects new) s)))
  have : enterServo new cause s = evaluateClass (stage (.servoState s.dsv.state new cause phi e.eps e.labelCount e.gatedCount)
      (modTbs (fun t => { t with phi := phi }) (modDsv (entryEffects new) s))) := by
    by_cases hn : new = .holdover
    · subst hn; rfl
    · simp [enterServo, hn, phi, e, modTbs, modDsv]
  rw [this]
  refine ⟨by rw [h1]; simp [modTbs, modDsv, e], by rw [h2]; simp [modTbs, modDsv], ?_⟩
  exact ⟨handedOn_mono (handedOn_stage _ (modTbs _ (modDsv _ s))) (le_refl _) h3,
    (stage_prefix _ (modTbs _ (modDsv _ s))).trans h3⟩

/-- R45, R52: a selection notice. -/
theorem selectionNotice_taken (prev new : Option RefInput) (s : State) :
    noticeTaken prev new s (selectionNotice prev new s) := by
  unfold selectionNotice takeNotice noticeTaken
  have entry := fun new cause => enterServo_spec new cause (modDsv (fun d => { d with lockRun := 0 }) s)
  cases hs : s.dsv.state <;> cases prev <;> cases new <;> simp only [modDsv, hs] <;>
    first
      | exact ⟨rfl, rfl⟩
      | exact ⟨trivial, trivial⟩
      | (have := entry .acquire .refActive
         simp only [modDsv, entryEffects, hs, handedOn, reduceCtorEq, if_false] at this ⊢
         exact ⟨this.1, this.2.1, this.2.2.1⟩)
      | (have := entry .freerun .refLost
         simp only [modDsv, entryEffects, hs, handedOn, reduceCtorEq, if_false] at this ⊢
         exact ⟨this.1, this.2.1, this.2.2.1⟩)
      | (have := entry .holdover .refLost
         simp only [modDsv, entryEffects, hs, handedOn, if_true, holdoverPhi, clampSym, phiLimit, estimate, errMean, max32] at this ⊢
         exact ⟨this.1, this.2.1, this.2.2.1⟩)

/-- What a notice does it does of a state with the same servo and Timebase that had staged no more. -/
theorem noticeTaken_from {prev new : Option RefInput} {s s' t : State} (h : noticeTaken prev new s t) (hd : s.dsv = s'.dsv)
    (ht : s.tbs = s'.tbs) (hs : s'.xch.staging.length ≤ s.xch.staging.length) : noticeTaken prev new s' t := by
  unfold noticeTaken at h ⊢
  rw [hd, ht] at h
  revert h
  dsimp only
  split <;> first | exact id | exact fun h => ⟨h.1, h.2.1, handedOn_mono h.2.2 hs (List.prefix_refl _)⟩

/-- R31: the choice of AUTO. -/
theorem autoChoice_eq (s : State) : autoChoice s = autoInput s := by
  unfold autoChoice autoInput qualified
  dsimp only
  by_cases h1 : s.rfi.active = some (otherInput s.rfi.preference) <;>
    by_cases h2 : (refIn s (otherInput s.rfi.preference)).qual = .qualified <;>
    by_cases h3 : (refIn s s.rfi.preference).qual = .qualified <;> simp [h1, h2, h3]

/-- R52: a selection notice takes no record from staging. -/
theorem selectionNotice_staging (prev new : Option RefInput) (s : State) :
    s.xch.staging <+: (selectionNotice prev new s).xch.staging := by
  have entry := fun new cause => (enterServo_spec new cause (modDsv (fun d => { d with lockRun := 0 }) s)).2.2.2
  unfold selectionNotice takeNotice
  split
  · exact entry .acquire .refActive
  · exact entry .acquire .refActive
  · exact entry .freerun .refLost
  · exact entry .holdover .refLost
  all_goals exact List.prefix_refl _

/-- R31, R36, R52: the outcome of a re-evaluation. -/
theorem applySelection_selected (mode : SelMode) (active : Option RefInput) (cause : RefChangeCause) (s : State) :
    selected mode active cause s (applySelection mode active cause s) := by
  have frame : ∀ t : State, t.lnk = s.lnk → t.crs = s.crs → t.rng = s.rng → t.evc = s.evc → t.mem = s.mem →
      t.pending = s.pending →
      t = { s with rfi := t.rfi, tbs := t.tbs, dsv := t.dsv, bcu := t.bcu, pou := t.pou, xch := t.xch } := by
    intro t h1 h2 h3 h4 h5 h6
    rw [← h1, ← h2, ← h3, ← h4, ← h5, ← h6]
  have hf := applySelection_frame mode active cause s
  obtain ⟨f1, f2, f3, f4, f5, f6⟩ := hf
  refine ⟨frame _ f1 f2 f3 f4 f5 f6, ?_⟩
  obtain ⟨s1, hs1⟩ : ∃ s1, updateRevert (modRfi (fun r => { r with mode := mode, active := active }) s) = s1 := ⟨_, rfl⟩
  have d1 : s1.dsv = s.dsv ∧ s1.tbs = s.tbs ∧ s1.xch = s.xch := by rw [← hs1]; exact ⟨rfl, rfl, rfl⟩
  have r1 : s1.rfi = { s.rfi with
      mode := mode, active := active
      revertAt := if mode = .auto ∧ active = some (otherInput s.rfi.preference) ∧
        (refIn s s.rfi.preference).qual = .qualified then some (s.rfi.revertAt.getD (now s + 960000000000)) else none } := by
    simp only [← hs1, updateRevert, revertArrangement, modRfi, qualified, Bool.and_eq_true, beq_iff_eq, revertSpan]
    congr 2
    simp only [and_assoc, refIn]
  by_cases hc : active = s.rfi.active
  · by_cases hm : mode = s.rfi.mode
    · have : applySelection mode active cause s = s1 := by simp [applySelection, hm, ← hs1, hc]
      rw [this, r1]
      simp [hc, hm, d1]
    · have : applySelection mode active cause s = stage (.refChange s.rfi.active active mode cause) s1 := by
        simp [applySelection, hm, ← hs1, hc]
      rw [this]
      refine ⟨by simp [r1, hc], fun _ => ?_, fun _ => by simp [d1], fun h => absurd hc h⟩
      exact handedOn_mono (handedOn_stage _ s1) (by rw [d1.2.2]) (List.prefix_refl _)
  · have : applySelection mode active cause s = selectionNotice s.rfi.active active
        (modRfi (fun r => { r with disagreeRun := 0, disagreeFlag := false }) (stage (.refChange s.rfi.active active mode cause) s1)) := by
      simp [applySelection, ← hs1, hc]
    rw [this]
    refine ⟨?_, fun _ => ?_, fun h => absurd hc h, fun _ => ?_⟩
    · simp [modRfi, r1, hc]
    · exact handedOn_mono (handedOn_stage _ s1) (by rw [d1.2.2]) (selectionNotice_staging _ _ (modRfi _ (stage _ s1)))
    · have hn := selectionNotice_taken s.rfi.active active
        (modRfi (fun r => { r with disagreeRun := 0, disagreeFlag := false }) (stage (.refChange s.rfi.active active mode cause) s1))
      refine noticeTaken_from hn ?_ ?_ ?_
      · simp [modRfi, d1]
      · simp [modRfi, d1]
      · have := (stage_prefix (.refChange s.rfi.active active mode cause) s1).length_le
        rw [d1.2.2] at this
        exact this

/-- R28, R31, R34: a re-evaluation of the selection. -/
theorem reselect_reselected (cause : RefChangeCause) (s : State) : reselected cause s (reselect cause s) := by
  unfold reselected reselect
  rw [autoChoice_eq]
  cases h : s.rfi.mode with
  | auto => exact applySelection_selected _ _ _ s
  | force i =>
    unfold qualified
    by_cases hq : (refIn s i).qual = .qualified <;> simp [hq, applySelection_selected]

/-! ## The state of a client -/

/-- R83: the state that the evaluation derives is the one of the table. -/
theorem derivedState_eq (c : Client) : derivedState c = tableState c := by
  unfold derivedState tableState allowedPaths
  cases c.config.allowed <;> by_cases ha : c.paths.a.state = .lost <;> by_cases hb : c.paths.b.state = .lost <;>
    simp [ha, hb]

/-- R83: the table does not look at the state. -/
theorem tableState_state (c : Client) (st : ClientState) : tableState { c with state := st } = tableState c := rfl

/-- R130: who joins a roll-call queue stands in it, uncarried. -/
theorem joinRoll_mem (p : Port) (n : Nat) (s : State) :
    ∃ e ∈ (beaconPort (joinRoll p n s) p).roll, e.slot = n ∧ e.carried = false := by
  unfold joinRoll
  rw [beaconPort_modBeacon]
  by_cases h : (beaconPort s p).roll.any (·.slot == n) = true
  · obtain ⟨e, he, hn⟩ := List.any_eq_true.1 h
    simp only [h, if_true]
    exact ⟨{ e with carried := false }, List.mem_map.2 ⟨e, he, by simp_all⟩, by simpa using hn, rfl⟩
  · simp only [h]
    exact ⟨⟨n, false⟩, by simp, rfl, rfl⟩

/-- R130: a join of one port leaves the other port's queue. -/
theorem joinRoll_other {p q : Port} (h : q ≠ p) (n : Nat) (s : State) : beaconPort (joinRoll p n s) q = beaconPort s q := by
  cases p <;> cases q <;> first | rfl | exact absurd rfl h

/-- R185: what a handing does to the controller rests on the controller and on device time. -/
theorem stage_xch_congr (body : JournalBody) {s t : State} (hx : s.xch = t.xch) (ht : s.tbs = t.tbs) :
    (stage body s).xch = (stage body t).xch := by
  unfold stage
  rw [hx, ht]
  split <;> simp [modXch, hx]

/-- R84: what a change of client state leaves, in its slot and in the queues. -/
theorem changeState_spec (n : Nat) (st : ClientState) (cause : ClientCause) (s : State) :
    let c := client s n
    let t := changeState n st cause s
    (n < s.crs.clients.length → client t n = { c with state := st }) ∧
    t.xch = (stage (.clientState n c.config.addr c.state st cause c.offsetV.verdict c.pulseV.verdict c.paths.a.state
      c.paths.b.state) s).xch ∧
    n ∈ t.crs.queue ∧
    (((c.state = .following) ≠ (st = .following)) → ∀ port, (atPort c.paths port).state = .valid →
      ∃ e ∈ (beaconPort t port).roll, e.slot = n ∧ e.carried = false) := by
  intro c t
  refine ⟨fun hn => ?_, ?_, ?_, fun hf port hv => ?_⟩
  · have h1 : client t n = client (modClient n (fun c => { c with state := st }) s) n := by
      simp only [t, client, changeState_client]
    exact h1.trans (client_modClient _ hn)
  · simp only [t, changeState]
    (repeat' split) <;> simp <;> exact stage_xch_congr _ rfl rfl
  · simp only [t, changeState_queue]; exact mem_queuePub_self n s
  · have h : ((c.state == .following) == (st == .following)) = false := by
      by_cases h1 : c.state = .following <;> by_cases h2 : st = .following <;> simp_all
    simp only [t, changeState]
    rw [if_neg (by simpa [c] using h)]
    cases port with
    | a =>
      have ha : c.paths.a.state = .valid := hv
      simp only [c] at ha
      simp only [ha, if_true]
      split
      · rw [joinRoll_other (by decide)]; exact joinRoll_mem _ _ _
      · exact joinRoll_mem _ _ _
    | b =>
      have hb : c.paths.b.state = .valid := hv
      simp only [c] at hb
      simp only [hb, if_true]
      exact joinRoll_mem _ _ _

/-- R83, R84: what an evaluation of a slot that holds a client does. -/
theorem evaluate_follows (n : Nat) (cause : ClientCause) (s : State) (h : (client s n).state ≠ .vacant) :
    stateFollows n cause s (evaluate n cause s) := by
  have hn : n < s.crs.clients.length := by
    by_contra hl
    exact h (by simp [client, List.getD, List.getElem?_eq_none (Nat.le_of_not_lt hl), Client.reset])
  unfold stateFollows evaluatedFrom evaluate
  simp only [h, if_false, derivedState_eq]
  by_cases hd : tableState (client s n) = (client s n).state
  · simp [hd]
  · obtain ⟨c1, c2, c3, c4⟩ := changeState_spec n (tableState (client s n)) cause s
    simp only [if_neg hd, c1 hn, tableState_state, true_and]
    refine fun _ => ⟨?_, c3, fun hf => c4 ?_⟩
    · exact handedOn_mono (handedOn_stage _ s) (le_refl _) (by rw [c2])
    · rcases hf with hf | hf
      · simp [hf, show ¬ tableState (client s n) = .following from fun h => hd (h.trans hf.symm)]
      · simp [hf, show ¬ (client s n).state = .following from fun h => hd (hf.trans h.symm)]

/-! ## A port out of UP -/

/-- R136: what a port that leaves UP does with one ONCE block it owes. -/
theorem noticeLeaveUp_owed {p : Port} {i : Nat} {s : State} {n : Notice} (h : noticeAt s i = some n) (hm : n.mode = .once)
    (ho : atPort n.owed p = true) :
    let left : Notice := { n with owed := modPort p (fun _ => false) n.owed }
    let s1 := modNotice i (fun n => { n with owed := modPort p (fun _ => false) n.owed }) s
    noticeAt s1 i = some left ∧ i < s1.bcu.notices.length ∧
      noticeLeaveUp p i s = if nobodyOwes left then freeNotice i left (onceCause left) s1 else s1 := by
  intro left s1
  have hi : i < s.bcu.notices.length := by
    by_contra hn
    simp [noticeAt, List.getD, List.getElem?_eq_none (Nat.le_of_not_lt hn)] at h
  have hs1 : noticeAt s1 i = some left := by
    simp only [noticeAt] at h
    exact (getD_modify_self _ _ hi).trans (by rw [h]; rfl)
  refine ⟨hs1, by simpa [s1, modNotice, modBcu] using hi, ?_⟩
  have hl : left.mode = .once := hm
  unfold noticeLeaveUp
  simp only [h, hm, ho, and_self, if_true]
  show settleOnce i s1 = _
  unfold settleOnce
  simp only [hs1, hl, true_and]

/-- R136: a port that leaves UP leaves one ONCE block. -/
theorem noticeLeaveUp_spec (p : Port) (i : Nat) (s : State) :
    let t := noticeLeaveUp p i s
    (∀ j, j ≠ i → noticeAt t j = noticeAt s j) ∧ s.xch.staging <+: t.xch.staging ∧
    ((∀ n, noticeAt s i = some n → ¬ (n.mode = .once ∧ atPort n.owed p = true)) → noticeAt t i = noticeAt s i) ∧
    (∀ n, noticeAt s i = some n → n.mode = .once → atPort n.owed p = true → onceSettled p i n s t) := by
  intro t
  by_cases hx : ∃ n, noticeAt s i = some n ∧ n.mode = .once ∧ atPort n.owed p = true
  · obtain ⟨n, h, hm, ho⟩ := hx
    obtain ⟨hs1, hi, ht⟩ := noticeLeaveUp_owed h hm ho
    have hne : ∀ j, j ≠ i → noticeAt (modNotice i (fun n => { n with owed := modPort p (fun _ => false) n.owed }) s) j =
        noticeAt s j := fun j hj => getD_modify_ne _ _ hj
    have howed : nobodyOwes { n with owed := modPort p (fun _ => false) n.owed } = true ↔
        modPort p (fun _ => false) n.owed = ⟨false, false⟩ := by
      unfold nobodyOwes
      generalize modPort p (fun _ => false) n.owed = x
      obtain ⟨a, b⟩ := x
      cases a <;> cases b <;> simp
    by_cases hb : nobodyOwes { n with owed := modPort p (fun _ => false) n.owed } = true
    · rw [if_pos hb] at ht
      refine ⟨fun j hj => ?_, ?_, fun h' => absurd ⟨hm, ho⟩ (h' n h), ?_⟩
      · rw [← hne j hj]
        simp only [t, ht]
        simp [noticeAt, freeNotice, putNotice, modBcu, List.getD, List.getElem?_set_ne (Ne.symm hj)]
      · simp only [t, ht]
        exact stage_prefix _ (putNotice i none (modNotice i _ s))
      · intro n' h' _ _
        rw [h] at h'; cases h'
        refine ⟨fun h' => absurd (howed.1 hb) h', fun _ => ⟨?_, ?_⟩⟩
        · simp only [t, ht]
          simp only [noticeAt, freeNotice, putNotice, modBcu, stage_frame]
          simp [List.getD, hi]
        · have := handedOn_stage (.noticeDone i n.mode n.carried (onceCause { n with owed := modPort p (fun _ => false) n.owed }))
            (putNotice i none (modNotice i (fun n => { n with owed := modPort p (fun _ => false) n.owed }) s))
          have e : onceCause { n with owed := modPort p (fun _ => false) n.owed } =
              (if n.owedAtPost = ⟨false, false⟩ then .noneUp
                else if (n.owedAtPost.a = true → n.carried.a = true) ∧ (n.owedAtPost.b = true → n.carried.b = true) then .sent
                else .portDown) := by
            simp only [onceCause, allCarried]
            rcases n.owedAtPost with ⟨a, b⟩
            rcases n.carried with ⟨c, d⟩
            cases a <;> cases b <;> cases c <;> cases d <;> rfl
          rw [← e, ← hm]
          simp only [t, ht]
          exact this
    · rw [if_neg hb] at ht
      simp only [t, ht]
      refine ⟨hne, List.prefix_refl _, fun h' => absurd ⟨hm, ho⟩ (h' n h), ?_⟩
      intro n' h' _ _
      rw [h] at h'; cases h'
      exact ⟨fun _ => hs1, fun h' => absurd (howed.2 h') hb⟩
  · have ht : t = s := by
      simp only [t, noticeLeaveUp]
      split
      · rfl
      · rename_i n h
        rw [if_neg fun h' => hx ⟨n, h, h'.1, h'.2⟩]
    rw [ht]
    exact ⟨fun _ _ => rfl, List.prefix_refl _, fun _ => rfl, fun n h1 h2 h3 => absurd ⟨n, h1, h2, h3⟩ hx⟩

/-- R136: what a port leaves of the ONCE blocks at these indexes. -/
theorem noticesLeaveUp (p : Port) (is : List Nat) (s : State) (hd : is.Nodup) :
    let t := forEach is (noticeLeaveUp p) s
    (∀ j, j ∉ is → noticeAt t j = noticeAt s j) ∧ s.xch.staging <+: t.xch.staging ∧
    ∀ i ∈ is,
      ((∀ n, noticeAt s i = some n → ¬ (n.mode = .once ∧ atPort n.owed p = true)) → noticeAt t i = noticeAt s i) ∧
      (∀ n, noticeAt s i = some n → n.mode = .once → atPort n.owed p = true → onceSettled p i n s t) := by
  induction is generalizing s with
  | nil => exact ⟨fun _ _ => rfl, List.prefix_refl _, fun i h => by cases h⟩
  | cons k ks ih =>
    obtain ⟨hk, hd⟩ := List.nodup_cons.1 hd
    obtain ⟨a1, a2, a3, a4⟩ := noticeLeaveUp_spec p k s
    obtain ⟨b1, b2, b3⟩ := ih (noticeLeaveUp p k s) hd
    rw [forEach_cons]
    refine ⟨fun j hj => ?_, a2.trans b2, fun i hi => ?_⟩
    · rw [List.mem_cons, not_or] at hj
      rw [b1 j hj.2, a1 j hj.1]
    · rcases List.mem_cons.1 hi with rfl | hi
      · refine ⟨fun h => by rw [b1 i hk, a3 h], fun n h1 h2 h3 => ?_⟩
        obtain ⟨c1, c2⟩ := a4 n h1 h2 h3
        refine ⟨fun h => by rw [b1 i hk, c1 h], fun h => ?_⟩
        obtain ⟨d1, d2⟩ := c2 h
        exact ⟨by rw [b1 i hk, d1], handedOn_mono d2 (le_refl _) b2⟩
      · have hne : i ≠ k := fun h => hk (h ▸ hi)
        obtain ⟨c1, c2⟩ := b3 i hi
        rw [a1 i hne] at c1 c2
        refine ⟨c1, fun n h1 h2 h3 => ?_⟩
        obtain ⟨d1, d2⟩ := c2 n h1 h2 h3
        exact ⟨d1, fun h => ⟨(d2 h).1, handedOn_mono (d2 h).2 a2.length_le (List.prefix_refl _)⟩⟩

/-- R136: settling the ONCE blocks leaves links, contexts and range ports, and a port with no Beacon in build. -/
theorem noticesLeaveUp_rest (p : Port) (is : List Nat) (s : State) (hb : (beaconPort s p).built = none) :
    let t := forEach is (noticeLeaveUp p) s
    t.lnk = s.lnk ∧ t.crs = s.crs ∧ t.rng = s.rng ∧ beaconPort t p = beaconPort s p := by
  refine forEach_keeps (fun u => u.lnk = s.lnk ∧ u.crs = s.crs ∧ u.rng = s.rng ∧ beaconPort u p = beaconPort s p)
    (noticeLeaveUp p) is ?_ s ⟨rfl, rfl, rfl, rfl⟩
  rintro i _ u ⟨h1, h2, h3, h4⟩
  have hf := noticeLeaveUp_frame p i u
  refine ⟨by rw [hf.2.2.2.1, h1], by rw [hf.2.2.2.2.1, h2], by rw [hf.2.2.2.2.2.1, h3], ?_⟩
  rw [← h4] at hb ⊢
  by_cases hx : ∃ n, noticeAt u i = some n ∧ n.mode = .once ∧ atPort n.owed p = true
  · obtain ⟨n, h, hm, ho⟩ := hx
    rw [(noticeLeaveUp_owed h hm ho).2.2]
    split
    · have : beaconPort (freeNotice i { n with owed := modPort p (fun _ => false) n.owed }
          (onceCause { n with owed := modPort p (fun _ => false) n.owed })
          (modNotice i (fun n => { n with owed := modPort p (fun _ => false) n.owed }) u)) p = unbindNotice i (beaconPort u p) := by
        simp only [freeNotice, beaconPort, stage_frame, putNotice, modBcu, modNotice]
        cases p <;> rfl
      rw [this, unbindNotice, hb]
      simp only [Option.map_none]
      rw [← hb]
    · rfl
  · have ht : noticeLeaveUp p i u = u := by
      simp only [noticeLeaveUp]
      split
      · rfl
      · rename_i n h
        rw [if_neg fun h' => hx ⟨n, h, h'.1, h'.2⟩]
    rw [ht]

/-- R108: what a port holds after its exchanges are voided. -/
theorem voidPort_spec (p : Port) (s : State) :
    (voidPort p s).rng = (modRange p (fun r => { r with table := [] }) s).rng ∧
    ∀ x ∈ (rangePort s p).table, (path (voidPort p s) x.slot p).lastExpired = none := by
  have go : ∀ (es : List Exchange) (u : State),
      (forEach es (fun e s => clearExpired e.slot p s) u).rng = u.rng ∧
      ∀ n, ((path u n p).lastExpired = none ∨ ∃ x ∈ es, x.slot = n) →
        (path (forEach es (fun e s => clearExpired e.slot p s) u) n p).lastExpired = none := by
    intro es
    induction es with
    | nil => intro u; exact ⟨rfl, fun n h => by simpa using h⟩
    | cons e es ih =>
      intro u
      obtain ⟨h1, h2⟩ := ih (clearExpired e.slot p u)
      rw [forEach_cons]
      refine ⟨h1.trans rfl, fun n h => h2 n ?_⟩
      by_cases hn : e.slot = n
      · subst hn
        left
        by_cases hl : e.slot < u.crs.clients.length
        · simp [clearExpired, path_modPath p _ hl]
        · have : client (clearExpired e.slot p u) e.slot = Client.reset := by
            simp [client, clearExpired, modPath, modClient, List.getD,
              List.getElem?_eq_none (Nat.le_of_not_lt hl)]
          rw [path, this]; cases p <;> rfl
      · rcases h with h | ⟨x, hx, rfl⟩
        · left
          have : path (clearExpired e.slot p u) n p = path u n p := by
            have := client_modClient_ne (k := n) (n := e.slot)
              (fun c => { c with paths := modPort p (fun q => { q with lastExpired := none }) c.paths }) u (Ne.symm hn)
            unfold path
            rw [show client (clearExpired e.slot p u) n = client u n from this]
          rw [this]; exact h
        · rcases List.mem_cons.1 hx with rfl | hx
          · exact absurd rfl hn
          · exact .inr ⟨x, hx, rfl⟩
  obtain ⟨h1, h2⟩ := go (rangePort s p).table s
  refine ⟨?_, fun x hx => h2 x.slot (.inr ⟨x, hx, rfl⟩)⟩
  simp only [voidPort, modRange] at h1 ⊢
  rw [h1]

/-- R62, R108, R125, R129, R136: a port leaves UP. -/
theorem leaveUp_spec {p : Port} {new : PortState} (hn : new ≠ .up) (s : State) :
    upLeft p s (leaveUp p new s) ∧
      (beaconPort (leaveUp p new s) p).rate = (beaconPort s p).pendingRate.getD (beaconPort s p).rate := by
  obtain ⟨v1, v2⟩ := voidPort_spec p (modLink p (dropFrames new) s)
  obtain ⟨s2, hs2⟩ : ∃ s2, voidPort p (modLink p (dropFrames new) s) = s2 := ⟨_, rfl⟩
  have hf := voidPort_frame p (modLink p (dropFrames new) s)
  rw [hs2] at v1 v2 hf
  obtain ⟨s3, hs3⟩ : ∃ s3, modBeacon p (fun b => { b with
    next := none, rate := b.pendingRate.getD b.rate, pendingRate := none, built := none
    roll := b.roll.map (fun e => { e with carried := false }) }) s2 = s3 := ⟨_, rfl⟩
  have h3 : s3.lnk = s2.lnk ∧ s3.rng = s2.rng ∧ s3.crs = s2.crs ∧ s3.xch = s2.xch ∧ s3.bcu.notices = s2.bcu.notices := by
    rw [← hs3]; exact ⟨rfl, rfl, rfl, rfl, rfl⟩
  obtain ⟨n1, n2, n3⟩ := noticesLeaveUp p (List.range 8) s3 List.nodup_range
  obtain ⟨s4, hs4⟩ : ∃ s4, forEach (List.range 8) (noticeLeaveUp p) s3 = s4 := ⟨_, rfl⟩
  rw [hs4] at n1 n2 n3
  have hl : leaveUp p new s = refreshRange p s4 := by
    rw [← hs4, ← hs3, ← hs2]; rfl
  have f4 := noticesLeaveUp_rest p (List.range 8) s3 (by rw [← hs3]; simp)
  rw [hs4] at f4
  have hlnk : link s4 p = dropFrames new (link s p) := by
    unfold link
    rw [f4.1, h3.1, hf.2.2.2.1]
    exact link_modLink p _ s
  have hup : (link s4 p).state ≠ .up := by rw [hlnk]; exact hn
  have hb : beaconPort s4 p = { beaconPort s p with
      next := none, rate := (beaconPort s p).pendingRate.getD (beaconPort s p).rate, pendingRate := none, built := none
      roll := (beaconPort s p).roll.map (fun e => { e with carried := false }) } := by
    rw [f4.2.2.2, ← hs3, beaconPort_modBeacon]
    have : beaconPort s2 p = beaconPort s p := by unfold beaconPort; rw [hf.2.2.2.2.1]; rfl
    rw [this]
  have hr : rangePort s4 p = { rangePort s p with table := [] } := by
    unfold rangePort
    rw [f4.2.2.1, h3.2.1, v1]
    exact rangePort_modRange p _ _
  have hno : launchPermitted s4 p = false := by
    have : eligibleSlots s4 p = [] := by
      refine List.filter_eq_nil_iff.2 fun n _ => ?_
      simp [eligible, hup]
    simp [launchPermitted, this]
  have hnote : ∀ i, noticeAt s3 i = noticeAt s i := by
    intro i; unfold noticeAt; rw [h3.2.2.2.2, hf.2.2.2.2.1]; rfl
  have hst : s3.xch.staging = s.xch.staging := by rw [h3.2.2.2.1, hf.2.2.2.2.2.2.2.1]; rfl
  have e1 : link (refreshRange p s4) p = { link s4 p with rangeReq := launchPermitted s4 p } := by
    simp only [refreshRange, link, modRange, modLink]
    exact link_modLink p _ s4
  have e2 : rangePort (refreshRange p s4) p = { rangePort s4 p with windowAt := (rangePort (refreshRange p s4) p).windowAt } := by
    simp only [refreshRange, rangePort_modRange]; rfl
  have e3 : beaconPort (refreshRange p s4) p = beaconPort s4 p := rfl
  have e4 : ∀ i, noticeAt (refreshRange p s4) i = noticeAt s4 i := fun i => rfl
  rw [hl]
  refine ⟨⟨?_, ?_, ?_, ?_, ?_, ?_, ?_, ?_, ?_⟩, ?_⟩
  · rw [e1, hlnk]; rfl
  · rw [e1, hno]
  · rw [e1, hlnk]; rfl
  · rw [e1, hlnk]; rfl
  · rw [e1, hlnk]; rfl
  · rw [e2, hr]
  · intro x hx
    have : path (refreshRange p s4) x.slot p = path s2 x.slot p := by
      unfold path client
      rw [(refreshRange_frame p s4).2.2.2.1, f4.2.1, h3.2.2.1]
    rw [this]
    exact v2 x hx
  · rw [e3, hb]
  · intro i hi
    obtain ⟨c1, c2⟩ := n3 i (List.mem_range.2 hi)
    rw [hnote i] at c1 c2
    rw [e4 i]
    refine ⟨c1, fun n h1 h2 h3 => ?_⟩
    obtain ⟨d1, d2⟩ := c2 n h1 h2 h3
    refine ⟨d1, fun h => ⟨(d2 h).1, ?_⟩⟩
    exact handedOn_mono (d2 h).2 (by rw [hst]) (List.prefix_refl _)
  · rw [e3, hb]

/-! ## Sweeps -/

/-- What a search through the slots from `k` on finds. -/
theorem find_slotsFrom {k n : Nat} {q : Nat → Bool} (h : (slotsFrom k).find? q = some n) :
    firstFrom k (fun n => q n = true) n := by
  obtain ⟨hq, as, bs, e, hb⟩ := List.find?_eq_some_iff_append.1 h
  have hlen : (slotsFrom k).length = 32 - k := by simp [slotsFrom]
  have hget : ∀ i (hi : i < (slotsFrom k).length), (slotsFrom k)[i] = k + i := by
    intro i hi; simp [slotsFrom]
  have hl : as.length < (slotsFrom k).length := by rw [e]; simp
  have hn : n = k + as.length := by
    rw [← hget as.length hl]; simp [e]
  refine ⟨by omega, by omega, hq, fun j h1 h2 => ?_⟩
  have hj : j - k < as.length := by omega
  have : as[j - k] = j := by
    have h3 := hget (j - k) (by omega)
    simp only [e] at h3
    rw [List.getElem_append_left hj] at h3
    omega
  have := hb as[j - k] (List.getElem_mem hj)
  simp_all

/-- What a search through the slots from `k` on that finds nothing says. -/
theorem find_slotsFrom_none {k : Nat} {q : Nat → Bool} (h : (slotsFrom k).find? q = none) :
    ∀ n, k ≤ n → n < 32 → ¬ q n = true := by
  intro n h1 h2
  refine List.find?_eq_none.1 h n ?_
  simp only [slotsFrom, List.mem_drop_iff_getElem, List.getElem_range, List.length_range]
  exact ⟨n - k, by omega, by omega⟩

/-- R181. -/
theorem canTake_iff (s : State) (n : Nat) :
    canTake s n = true ↔ ∀ en, storeEntry s n = some en → ∃ r data, en.status = .completed r data true := by
  unfold canTake
  cases h : storeEntry s n with
  | none => simp
  | some e => cases h2 : e.status <;> simp [h2]

/-- R181: a slot that may be taken is one that waits. -/
theorem slotReady_iff (s : State) (n : Nat) : slotReady s n = true ↔ slotWaits s n := by
  simp [slotReady, slotWaits, canTake_iff, busAddr, baseAddr, slotOffset, slotPosted]

/-- R182. -/
theorem awaitsWriting_iff (s : State) (n : Nat) : awaitsWriting s n = true ↔ completionWaits s n := by
  unfold awaitsWriting completionWaits
  cases h : storeEntry s n with
  | none => simp
  | some e => obtain ⟨o, c, st⟩ := e; cases st <;> simp

/-- R77. -/
theorem heldConfigOrder_iff (s : State) (n : Nat) (o : Order) : heldConfigOrder s n = some o ↔ configWaits s n o := by
  unfold heldConfigOrder configWaits
  split <;> rename_i h
  · constructor
    · rintro ⟨⟩; exact ⟨⟨_, .inl rfl⟩, _, h⟩
    · rintro ⟨_, c, h2⟩; rw [h] at h2; cases h2; rfl
  · constructor
    · rintro ⟨⟩; exact ⟨⟨_, .inr rfl⟩, _, h⟩
    · rintro ⟨_, c, h2⟩; rw [h] at h2; cases h2; rfl
  · simp only [reduceCtorEq, false_iff]
    rintro ⟨⟨c, rfl | rfl⟩, k, h2⟩ <;> simp_all

/-- A member changed is a member set. -/
theorem modify_eq_set {α : Type} (xs : List α) (n : Nat) (f : α → α) (d : α) : xs.modify n f = xs.set n (f (xs.getD n d)) := by
  refine List.ext_getElem (by simp) fun i h1 h2 => ?_
  have hi : i < xs.length := by simpa using h1
  rw [List.getElem_modify, List.getElem_set]
  split
  · rename_i e; subst e; simp [List.getD, hi]
  · rfl

/-- An entry of the store changed is an entry set. -/
theorem modify_map_eq_set {α : Type} {xs : List (Option α)} {n : Nat} {e : α} (f : α → α) (h : xs.getD n none = some e) :
    xs.modify n (Option.map f) = xs.set n (some (f e)) := by
  rw [modify_eq_set xs n _ none, h]; rfl

/-- The measurement group does not depend on the version it is published with. -/
theorem measureFields_version (c : Client) (v : Nat) : measureFields { c with version := v } = measureFields c := rfl

/-- The sweep goes on in step 4 (R186, R187). -/
theorem goJournal_goes {left : Nat} {s : State} (h : s.xch.sweep = some (.journal left)) :
    SweepGoesOn s (goJournal left s) := by
  unfold goJournal
  split
  · rename_i hc
    obtain ⟨k, rfl⟩ : ∃ k, left = k + 1 := ⟨left - 1, by omega⟩
    exact .journal s k h hc.2.1 (of_decide_eq_true hc.2.2)
  · rename_i hc
    have hc' : left = 0 ∨ s.xch.staging = [] ∨ s.xch.capacity.getD 0 ≤ fillOf s.xch := by
      by_contra hn
      simp only [not_or, not_le] at hn
      exact hc ⟨by omega, hn.2.1, decide_eq_true hn.2.2⟩
    have := SweepGoesOn.header s left h hc'
    convert this using 1
    unfold goHeader beginAccess reaching raiseCause modXch setCause
    by_cases ht : s.xch.threshold.getD 0 ≤ journalFill s.xch
    · have ht' : s.xch.threshold.getD 0 ≤ fillOf s.xch := ht
      simp [ht, ht']
    · have ht' : ¬ s.xch.threshold.getD 0 ≤ fillOf s.xch := ht
      simp [ht, ht']

/-- The sweep goes on in step 3 (R92, R93). -/
theorem goClients_goes {left : Nat} {s : State} (h : s.xch.sweep = some (.clients left)) :
    SweepGoesOn s (goClients left s) := by
  cases left with
  | zero => exact .published s 0 h (.inl rfl)
  | succ k =>
    cases hq : s.crs.queue with
    | nil =>
      have := SweepGoesOn.published s (k + 1) h (.inr hq)
      simpa [goClients, hq, beginAccess, reaching, modXch] using this
    | cons n rest =>
      have := SweepGoesOn.publish s k n rest _ h hq rfl
      convert this using 1
      simp only [goClients, hq, beginPublish, beginAccess, reaching, modClient, modCrs, modXch, List.drop_succ_cons,
        List.drop_zero, client, modify_eq_set s.crs.clients n _ Client.reset]
      congr 3
      by_cases hn : n < s.crs.clients.length
      · simp [List.getD, hn, measureFields_version]
      · simp [List.getD, hn, measureFields]

/-- The sweep goes on in step 2 (R182). -/
theorem goCompletions_goes {k : Nat} {s : State} (h : s.xch.sweep = some (.completions k)) :
    SweepGoesOn s (goCompletions k s) := by
  unfold goCompletions
  split
  · rename_i n hf
    refine .complete s k n h ?_
    simpa only [awaitsWriting_iff] using find_slotsFrom hf
  · rename_i hf
    exact .completed s _ k h (by simpa only [awaitsWriting_iff] using find_slotsFrom_none hf) (goClients_goes rfl)

/-- The sweep goes on in step 1 (R181). -/
theorem goOrders_goes {k : Nat} {s : State} (h : s.xch.sweep = some (.orders k)) : SweepGoesOn s (goOrders k s) := by
  unfold goOrders
  split
  · rename_i n hf
    refine .take s k n h ?_
    simpa only [slotReady_iff] using find_slotsFrom hf
  · rename_i hf
    exact .taken s _ k h (by simpa only [slotReady_iff] using find_slotsFrom_none hf) (goCompletions_goes rfl)

/-- R179: a sweep begins. -/
theorem beginSweep_goes (s : State) : SweepGoesOn (sweepStarted s) (beginSweep s) := goOrders_goes rfl

/-- A held order that is refused is an entry set, the sweep standing elsewhere. -/
theorem finish_held {s : State} {k n : Nat} {o : Order} {cookie : BitVec 16} {r : ResultCode}
    (h : storeEntry s k = some { order := o, cookie := cookie, status := .held }) :
    finish k r (modXch (fun x => { x with sweep := some (.retry n) }) s) =
      standing (.retry n) { s with xch := { s.xch with
        store := s.xch.store.set k (some { order := o, cookie := cookie, status := .completed r [] false }) } } := by
  have := modify_map_eq_set (fun e : StoreEntry => { e with status := .completed r [] false }) h
  simp only [finish, complete, modXch, standing, this]

/-- R77, R175, R178: the orders from slot `k0` on are handed again, of which those from `k` on may still be held. -/
theorem goRetry_goes (fuel : Nat) : ∀ (k : Nat) (s : State) (k0 : Nat), fuel = 32 - k → k0 ≤ k → s.xch.access = none →
    stopping s.xch = false → s.xch.sweep = some (.retry k0) → (∀ n o, k0 ≤ n → n < k → ¬ configWaits s n o) →
    SweepGoesOn s (goRetry fuel k s) := by
  induction fuel with
  | zero =>
    intro k s k0 hk _ _ _ hs hn
    exact .first s _ k0 hs (fun n o h1 h2 => hn n o h1 (by omega)) (beginSweep_goes s)
  | succ fuel ih =>
    intro k s k0 hk hle ha hg hs hn
    unfold goRetry
    cases ho : heldConfigOrder s k with
    | none =>
      refine ih (k + 1) s k0 (by omega) (by omega) ha hg hs fun n o h1 h2 => ?_
      rcases Nat.lt_succ_iff_lt_or_eq.1 h2 with h | rfl
      · exact hn n o h1 h
      · rw [← heldConfigOrder_iff, ho]; simp
    | some o =>
      have hw := (heldConfigOrder_iff s k o).1 ho
      have hf : firstFrom k0 (fun n => ∃ o, configWaits s n o) k :=
        ⟨hle, by omega, ⟨o, hw⟩, fun j h1 h2 ⟨o', h3⟩ => hn j o' h1 h2 h3⟩
      obtain ⟨cookie, he⟩ := hw.2
      have hg' : stopping { s.xch with sweep := some (.retry (k + 1)) } = false := hg
      have hread : firstRefusal s o = none →
          handOrder o k (modXch (fun x => { x with sweep := some (.retry (k + 1)) }) s) =
            reaching (.readConfig k) (.retry (k + 1)) s := by
        obtain ⟨c, rfl | rfl⟩ := hw.1 <;> intro hr <;>
          simp only [firstRefusal] at hr <;> (split at hr; · cases hr) <;> (split at hr; · cases hr) <;>
          simp_all [handOrder, admitCheck, reconfigCheck, clientSlot, beginConfigRead, reaching, modXch, client, stopping]
      have href : ∀ r, firstRefusal s o = some r →
          handOrder o k (modXch (fun x => { x with sweep := some (.retry (k + 1)) }) s) =
            standing (.retry (k + 1)) { s with xch := { s.xch with
              store := s.xch.store.set k (some { order := o, cookie := cookie, status := .completed r [] false }) } } := by
        intro r hr
        have hset : finish k r (modXch (fun x => { x with sweep := some (.retry (k + 1)) }) s) = _ := finish_held he
        obtain ⟨c, rfl | rfl⟩ := hw.1 <;> simp only [firstRefusal] at hr <;> split at hr <;>
          (try split at hr) <;> cases hr <;> rw [← hset] <;>
          simp only [handOrder, admitCheck, reconfigCheck, clientSlot] <;> rename_i h1 <;>
          simp_all [client, modXch, Nat.not_lt.2]
      dsimp only
      cases hr : firstRefusal s o with
      | none =>
        rw [hread hr]
        exact .readAgain s k0 k o hs hf hw hr
      | some r =>
        rw [href r hr]
        refine .refuse s _ k0 k o _ r hs hf hw he hr ?_
        have : (standing (.retry (k + 1)) { s with xch := { s.xch with
          store := s.xch.store.set k (some { order := o, cookie := cookie, status := .completed r [] false }) } }).xch.access =
            none := ha
        simp only [this, Option.isSome_none, Bool.false_eq_true, if_false]
        exact ih (k + 1) _ (k + 1) (by omega) le_rfl this hg rfl fun n o h1 h2 => by omega

/-- R180: a sweep that stands somewhere goes on, no access being in progress. -/
theorem goOn_goes {s : State} {step : SweepStep} (h : s.xch.sweep = some step) (ha : s.xch.access = none)
    (hg : stopping s.xch = false) : SweepGoesOn s (goOn s) := by
  unfold goOn
  rw [h]
  cases step with
  | retry k => exact goRetry_goes (32 - k) k s k rfl le_rfl ha hg h fun n o h1 h2 => by omega
  | orders k => exact goOrders_goes h
  | completions k => exact goCompletions_goes h
  | clients left => exact goClients_goes h
  | journal left => exact goJournal_goes h
  | header => exact .ended s h

/-- R176, R180: what follows the end of an access in a sweep. -/
theorem afterAccess_continues {s : State} {step : SweepStep} (h : s.xch.sweep = some step) (ha : s.xch.access = none) :
    sweepContinues s (afterAccess s) := by
  unfold sweepContinues afterAccess
  by_cases hg : s.xch.haltAsked = true ∨ s.xch.resetAsked = true
  · have : stopping s.xch = true := by simpa [stopping] using hg
    simp [hg, this]
  · have : stopping s.xch = false := by simpa [stopping] using hg
    simpa [hg, this, ha] using goOn_goes h ha this

end Sys2Proof.Machine
end

