-- ==== Sys2Proof/WellFormed.lean ====
section
/-! DEFINITION. Which commands the surroundings of the part can give: an instant lies inside its tick, an address inside
the 64-bit bus, a field of an order has the length of its slot's field. -/

namespace Sys2Proof

/-- An instant inside a tick (R7). -/
def Fraction.wf (f : Fraction) : Bool := decide (f.num < f.den)

/-- Stores of the host lie on the 64-bit bus (ch. 10.2). -/
def hostWf (ws : HostWrites) : Bool := ws.all (fun w => decide (w.1 < 18446744073709551616))

/-- A command the surroundings can give. -/
def Instr.wf : Instr → Bool
  | .fullReset _ => true
  | .secondBoundary blocks => decide blocks.Nodup
  | .refPulseRise _ t => t.frac.wf
  | .refPulseFall _ t => t.frac.wf
  | .stuckDeadline _ => true
  | .refMessage _ cs => cs.all (fun c => c.stop.frac.wf)
  | .msgGapExpiry _ => true
  | .lossDeadline _ => true
  | .revertDeadline => true
  | .linkStatusChange _ _ => true
  | .beaconPoint _ => true
  | .arbiterFree _ => true
  | .txTimestampPoint _ t => t.frac.wf
  | .windowOpening _ => true
  | .frameReceived _ _ => true
  | .holdoffExpiry _ => true
  | .exchangeExpiry _ _ => true
  | .pulseRisingEdge _ ns => decide (ns < 281474976710656 * 1000000000)
  | .pulseFallingEdge _ => true
  | .inhibitAssert => true
  | .captureLineChange _ _ t => t.frac.wf
  | .captureConfirmation _ => true
  | .portSetup _ _ => true
  | .refSetup _ _ => true
  | .setRef _ _ => true
  | .servoSetup _ _ => true
  | .postStep _ _ => true
  | .utcSetup _ _ => true
  | .admitClient _ _ host => hostWf host
  | .reconfig _ _ host => hostWf host
  | .retire _ _ => true
  | .rangingSetup _ _ => true
  | .noticePost _ p => p.payload.length == 16
  | .noticeWithdraw _ _ => true
  | .pulseProgram _ _ => true
  | .pulseArm _ p => p.channels.length == 8
  | .gateSetup _ _ => true
  | .gateOpen _ => true
  | .captureSetup _ _ => true
  | .snapshot _ _ => true
  | .cancel _ _ _ => true
  | .sweepPeriodExpiry host => hostWf host
  | .pendingSweepStart host => hostWf host
  | .busError _ => true
  | .headerRead host => hostWf host
  | .xbaseWrite _ _ => true
  | .runSet _ => true
  | .runClear _ => true
  | .halt => true
  | .resume _ => true
  | .xrst _ => true
  | .exchangeReset => true
  | .xnudge _ host => hostWf host
  | .xstatClear _ => true
  | .xmaskWrite _ => true
  | .registerWrite _ _ => true
  | .oscillatorTick => true
  | .inhibitDeassert => true
  | .receiveTimestampPoint _ t => t.frac.wf
  | .messageCharacter _ c => c.stop.frac.wf
  | .accessEnd host => hostWf host

end Sys2Proof
end

