-- ==== Sys2Proof/Tests/Slice0.lean ====
section
/-! SUPPORT. Our own tests: the checks of well-formedness, worked cases of the spec, and, for the statements with
premises, states and operands that meet them. -/

namespace Sys2Proof.Tests

open Sys2Proof Sys2Proof.Machine

/-! The theorems here are elaborated one after another: the kernel evaluations of many at once would take a thread each. -/
set_option Elab.async false

/-! ## Helpers -/

/-- The state after a command; the state itself where it answers none. -/
def after (c : Instr) (s : State) : State :=
  match exec c s with
  | .next t => t
  | .fault _ => s
  | .refused _ => s

/-- The state after commands in turn. -/
def run (cs : List Instr) (s : State) : State := cs.foldl (fun s c => after c s) s

/-- The start of the tick in progress. -/
def start : Instant := ⟨⟨0, 1⟩, false⟩

/-- An order from slot 0. -/
def src : OrderSrc := ⟨0, 7⟩

/-- Full reset, at another device time. -/
def at_ (sec ns : Nat) : State := modTbs (fun t => { t with time := ⟨sec, ns, 0⟩ }) State.reset

/-- The tick in progress crosses the boundary of epoch second 1. -/
def edge : State := at_ 0 999999992

/-- A posted host step of Δ 5 s due at that boundary. -/
def stepping : State :=
  modTbs (fun t => { t with posted := some ⟨80000000000, some 1, .host 0⟩ }) (holding src (.postStep ⟨0, 80000000000, 1⟩) edge)

/-- Port A's settings in the tests. -/
def portA : PortSettings := ⟨true, 0x020000000001, 0x88B5, 3, 1, true⟩

/-- Port A in UP, one minute after reset. -/
def linked : State := modLink .a (fun l => { l with state := .up, link := true, settings := portA }) (at_ 60 0)

/-- The client of the tests: allowed on A, its path VALID with D 191,900 sixteenths and debt 1. -/
def relay : Client :=
  { Client.reset with
    config := { ClientConfig.reset with addr := 0x02000000000A, offsetTol := 100, pulseTol := 500, capture := some 1,
                                        path := ⟨⟨32, 200, 3⟩, ⟨0, 200, 3⟩⟩ }
    state := .following
    paths := ⟨{ Path.idle with state := .valid, debt := 1, delay := some 191900, seeds := 4 }, Path.idle⟩ }

/-- That client in slot 3. -/
def peopled : State := modClient 3 (fun _ => relay) linked

/-- A frame to port A with its check sequence. -/
def frameTo (source : MacAddr) (kind : Nat) (body : List Byte) : List Byte :=
  let bs := frameBytes portA.station { portA with station := source } kind body
  bs ++ fcsOf bs

/-! ## Well-formedness: one ill-formed command for each check -/

theorem test_wf_accepts : (Instr.refPulseRise .a start).wf = true := by decide
theorem test_wf_blocks : (Instr.secondBoundary [.tbs, .rfi, .tbs]).wf = false := by decide
theorem test_wf_fraction : (Instr.refPulseRise .a ⟨⟨1, 1⟩, false⟩).wf = false := by decide
theorem test_wf_fraction_tx : (Instr.txTimestampPoint .a ⟨⟨0, 0⟩, true⟩).wf = false := by decide
theorem test_wf_stop : (Instr.messageCharacter .a ⟨0xA7, true, ⟨⟨1, 1⟩, false⟩⟩).wf = false ∧
    (Instr.refMessage .a [⟨0xA7, true, start⟩, ⟨14, true, ⟨⟨2, 1⟩, false⟩⟩]).wf = false := by decide
theorem test_wf_edge : (Instr.pulseRisingEdge 0 281474976710656000000000).wf = false := by decide
theorem test_wf_host : (Instr.accessEnd [(18446744073709551616, 1)]).wf = false := by decide
theorem test_wf_payload : (Instr.noticePost src ⟨0, 0, 1, 0, [1]⟩).wf = false := by decide
theorem test_wf_channels : (Instr.pulseArm src ⟨1, [0], 5⟩).wf = false := by decide

/-! ## Worked cases of the spec -/

/-- The table under R2. -/
theorem test_freqTerm : freqTerm 640 = 86 ∧ freqTerm (-640) = -86 ∧ freqTerm 1280 = 172 ∧ freqTerm 25600000 = 3435974 ∧
    freqTerm (-25600000) = -3435974 := by decide

/-- Ch. 1.3, the worked slew: its share, and its last ticks with the part withheld (R4, R5). -/
theorem test_slew_start : Slew.start (-320) = ⟨-85899345920, -687, 125000000⟩ := by decide
def slewEnd : Timebase := { Timebase.reset with phi := 640, slew := ⟨-24346607, -687, 1⟩ }
theorem test_slew_last_tick : slewEnd.beginTick.tickInc = 34352866421 ∧ slewEnd.beginTick.slew.remaining = -17474574 ∧
    slewEnd.beginTick.beginTick.beginTick.slew.remaining = -3730508 ∧
    slewEnd.beginTick.beginTick.beginTick.beginTick.tickInc = 34356007946 ∧
    slewEnd.beginTick.beginTick.beginTick.beginTick.slew.remaining = 0 := by decide

/-- R1: device seconds after 2^48 − 1 are 0. -/
theorem test_seconds_wrap : (after (.secondBoundary []) (at_ 281474976710655 999999992)).tbs.time = ⟨0, 0, 0⟩ := by
  decide +kernel

/-- R8: a step back past 0 leaves device time at 0. -/
theorem test_step_saturates : DeviceTime.stepBy ⟨1, 0, 5⟩ (-16000000001) = ⟨0, 0, 0⟩ ∧
    DeviceTime.stepBy ⟨1, 0, 5⟩ (-16) = ⟨0, 999999999, 5⟩ := by decide

/-- R7: a stamp half way through a nominal tick. -/
theorem test_stamp_interpolates : (at_ 1 0).tbs.stamp ⟨⟨1, 2⟩, false⟩ = 16000000064 := by decide +kernel

/-- Ch. 3.11: the mark at 7 s 437,250,000 ns with a cable delay of 32,000 sixteenths, and the step it posts. -/
def mark4 : Mark := ⟨118996000000, some 1500000000, .good, some 25, 32000⟩
theorem test_first_mark : phaseError mark4 = 6995968000 ∧ nearestSecond mark4.stamp = 7 ∧
    (handleMark mark4 (modDsv (fun d => { d with state := .acquire }) (at_ 7 500000000))).tbs.posted =
      some ⟨23999999881004032000, none, .servo⟩ := by decide +kernel

/-- Ch. 3.11: marks 5 and 6 write Φ and σ. -/
theorem test_marks_correct :
    (correct 48 0 2 State.reset).tbs.phi = -192 ∧ (correct 48 0 2 State.reset).tbs.slew = Slew.start (-48) ∧
    (correct 36 0 2 (correct 48 0 2 State.reset)).tbs.phi = -336 := by decide +kernel

/-- Ch. 3.7, the worked holdover: ε at entry, Φ at entry, and ε over the seconds. -/
def trackEnd : Servo :=
  { Servo.reset with state := .track, cls := 1, errHist := [40, 35, 38, 42, 36, 39, 41, 37], rcvEstimate := 21
                     freqHist := List.replicate 15 (-768) ++ [-770] }
theorem test_holdover_entry : (entryEffects .holdover trackEnd).eps = 60 ∧ holdoverPhi trackEnd 0 = -768 := by decide
def held (n eps : Nat) : Servo := { Servo.reset with state := .holdover, holdSeconds := n, eps := eps }
theorem test_holdover_seconds : (holdSecond (held 0 60)).eps = 70 ∧ (holdSecond (held 510 5160)).eps = 5170 ∧
    (holdSecond (held 511 5170)).eps = 5181 ∧ (holdSecond (held 950 9999)).eps = 10010 := by decide
theorem test_candidates : candidateOf 100 = 1 ∧ candidateOf 101 = 2 ∧ candidateOf 1000 = 2 ∧ candidateOf 10010 = 4 ∧
    candidateOf 1000001 = 6 := by decide

/-- Ch. 6.5, the worked exchange: D after the Echo and the offset. -/
def echo1000 : Echo := ⟨0x02000000000A, 1, .following, 8, 0, 250012010, 960000, 16004000000000 + 1344008⟩
theorem test_worked_echo :
    (judgeEcho ⟨32, 200, 3⟩ 500000 16004000000000 echo1000 relay.paths.a).path.delay = some 191915 ∧
    echoOffset 16004000000000 191915 echo1000 = 245 := by decide

/-- Ch. 6.5: the seeding of slot 30 and the reseed at Echo 8. -/
def seeded (xs : List Nat) : Path := xs.foldl (fun q x => (filterSample ⟨0, 200, 3⟩ x q).path) Path.seeding
theorem test_seeding : (seeded [192000, 192080, 191960]).delay = some 192000 ∧
    (seeded [192000, 192080, 191960, 192040]).delay = some 192020 ∧
    (seeded [192000, 192080, 191960, 192040]).state = .valid ∧
    (seeded [192000, 192080, 191960, 192040, 240000, 240010, 239990]).outlierRun = 3 ∧
    (seeded [192000, 192080, 191960, 192040, 240000, 240010, 239990, 240004, 240010]).delay = some 240004 := by decide

/-- Ch. 6.3: the order of grants among slots 7, 12, 3, 25 and 20. -/
theorem test_launch_ranks :
    launchRank { Path.idle with state := .valid, debt := 8 } < launchRank { Path.idle with state := .lost, debt := 9, urgent := true } ∧
    launchRank { Path.idle with state := .lost, debt := 9, urgent := true } < launchRank { Path.idle with state := .seeding, debt := 2 } ∧
    launchRank { Path.idle with state := .seeding, debt := 1 } < launchRank { Path.idle with state := .lost, debt := 9 } := by decide

/-- Ch. 6.3: the worked window, in sixteenths. -/
theorem test_window :
    windowPermits ⟨4, 1000, 2000, 500000⟩ [0, 1600000, 3200000, 4800000] 15999999 = false ∧
    windowPermits ⟨4, 1000, 2000, 500000⟩ [0, 1600000, 3200000, 4800000] 16000000 = true ∧
    windowOpens ⟨4, 1000, 2000, 500000⟩ [0, 1600000, 3200000, 4800000, 16000000] 16000000 = some 17600000 := by decide

/-- R103: the counter passes over tags in use and wraps from 255 to 0. -/
theorem test_next_tag : nextTag [1, 2] (some 3) 17 0 = 4 ∧ nextTag [] none 17 255 = 0 := by decide

/-- Ch. 7.4: which blocks Port A's first Beacons carry. -/
def noticeOf (mode : NoticeMode) (owed : Bool) (wait : Nat) : Option Notice :=
  some ⟨mode, [1], ⟨owed, owed⟩, ⟨owed, owed⟩, ⟨wait, wait⟩, ⟨false, false⟩⟩
def board (last : Option Nat) (wait : Nat) (owed : Bool) : State :=
  modBeacon .a (fun b => { b with lastNotice := last }) (modBcu (fun b => { b with
    notices := [none, noticeOf .every false 0, noticeOf (.nth 3) false wait, none, noticeOf .once owed 0, none,
                noticeOf .every false 0, none] }) linked)
theorem test_round_robin :
    (noticesFor (board none 0 true) .a).map (·.1) = [1, 2] ∧ (noticesFor (board (some 2) 2 true) .a).map (·.1) = [4, 6] ∧
    (noticesFor (board (some 6) 1 false) .a).map (·.1) = [1, 6] ∧ (noticesFor (board (some 1) 1 false) .a).map (·.1) = [6, 1] := by
  decide +kernel

/-- Ch. 7.1: the points of rate 16 and the first of rate 4 after a boundary's instant. -/
theorem test_beacon_points : spacing 16 = 1000000000 ∧ firstPoint 4 16000000001 = 20000000000 ∧ firstPoint 1 16000000000 = 16000000000 := by
  decide

/-- Ch. 9.7: P of captures 2, 3 and 4. -/
theorem test_pulse_error : pulseErrorOf (7002 * 16000000000 + 20000) 19200 = 800 ∧
    pulseErrorOf (7003 * 16000000000 + 19040) 19200 = -160 ∧ pulseErrorOf (7004 * 16000000000 + 32000) 19200 = 12800 ∧
    pulseErrorOf 8000000000 0 = -8000000000 := by decide
theorem test_pulse_verdict : (judge true (judge true Judged.reset)) = ⟨.pass, 2, 0⟩ ∧
    judge false (judge true (judge true Judged.reset)) = ⟨.pass, 0, 1⟩ := by decide

/-- The check value of the IEEE 802.3 cyclic redundancy check of the characters 1 to 9 (log 15; not from the spec). -/
theorem test_crc : crc32 [0x31, 0x32, 0x33, 0x34, 0x35, 0x36, 0x37, 0x38, 0x39] = 0xCBF43926 := by decide +kernel

/-- R190, ch. 11.4: little-endian fields of a slot, and the station address in transmission order. -/
theorem test_decode_order :
    decodeOrder 0x05 ([1, 0, 0, 0, 0, 0, 0, 0] ++ [0xF0, 0xFF, 0xFF, 0xFF, 0xFF, 0xFF, 0xFF, 0xFF] ++ [2, 1, 0, 0, 0, 0, 0, 0]) =
      .postStep ⟨1, -16, 0x102⟩ ∧
    decodeOrder 0x01 ([0, 1, 1, 4, 9, 0, 0xB5, 0x88] ++ [2, 0, 0, 0, 0, 1] ++ zeros 10) =
      .portSetup ⟨0, 1, 1, 4, 9, 0x88B5, 0x020000000001⟩ ∧
    decodeOrder 0x14 [] = .unknown 0x14 := by decide

/-- Ch. 11.2: XID, and XSTAT with the state field above the causes. -/
theorem test_registers : registerRead 24 15 Controller.reset = 0x0C412001 ∧ registerRead 25 2 Controller.reset = 0x2000 ∧
    registerRead 16 15 { Controller.reset with state := .running, causes := { Causes.none with cls := true } } = 0x204 := by decide

/-- R65: a Range frame is padded to 60 bytes before its check sequence. -/
theorem test_range_frame : (frameBytes 0x02000000000A portA kindRange [1, 0]).length = 60 := by decide

/-! ## States that meet the premises of the statements -/

/-- StepTakesFrontCommand: a queue with a command, and one without. -/
theorem test_queue : ({ edge with pending := [.halt] } : State).pending = .halt :: [] ∧ edge.pending = [] := by
  decide +kernel

/-- A state with something in every block: a client, a queue entry, a launch, an order and an open gate. -/
def busy : State :=
  run [.gateSetup src 6, .refSetup ⟨1, 0⟩ ⟨0, 1, 0, 0, 1000, 50, 0⟩, .pulseProgram ⟨2, 0⟩ ⟨0, 1, 0, 1, 0, 0, 1000, 0⟩]
    (modRange .a (fun r => { r with table := [⟨1, 3, some 0, some 32000000⟩], history := [0] })
      { modCrs (fun r => { r with queue := [3], newcomers := [⟨0x02000000000B, 5⟩] }) peopled with
        mem := [(0x1000, 1), (0x1002, 2)]
        dsv := { Servo.reset with state := .track, cls := 2, errHist := [4], freqHist := [7] }
        bcu := { BeaconUnit.reset with cls := 2, ports := ⟨{ BeaconPort.reset with roll := [⟨3, false⟩] }, BeaconPort.reset⟩ }
        pou := { PulseUnit.reset with cls := 2, gateOpen := true } })

/-- StepKeepsMemoryForm to StepKeepsSlotsAndAddressesOnce: a state of which each law holds, and which steps. -/
theorem test_memory_law : MemoryOk { busy with pending := [.inhibitAssert] } := by unfold MemoryOk; decide +kernel
theorem test_time_law : TimeOk { busy with pending := [.inhibitAssert] } := by unfold TimeOk; decide +kernel
theorem test_class_law : ClassOk { busy with pending := [.inhibitAssert] } := by unfold ClassOk; decide +kernel
theorem test_gate_law : GateOk { busy with pending := [.inhibitAssert] } := by unfold GateOk; decide +kernel
theorem test_debt_law : DebtOk { busy with pending := [.inhibitAssert] } := by unfold DebtOk PathDebtOk; decide +kernel
theorem test_tables_law : TablesOk { busy with pending := [.inhibitAssert] } := by unfold TablesOk TableOk; decide +kernel
theorem test_bounds_law : BoundsOk { busy with pending := [.inhibitAssert] } := by unfold BoundsOk; decide +kernel
theorem test_queues_law : QueuesOk { busy with pending := [.inhibitAssert] } := by unfold QueuesOk; decide +kernel
theorem test_addresses_law : AddressesOk { busy with pending := [.inhibitAssert] } := by unfold AddressesOk; decide +kernel
theorem test_law_state_steps : ∃ t, step { busy with pending := [.inhibitAssert] } = .next t := ⟨_, rfl⟩

/-- MemoryChangesByStoresOnly: memory in its form, and an address beside the stores. -/
theorem test_other_address : MemoryOk busy ∧
    ∀ w ∈ hostStores (.accessEnd [(0x1000, 9)]) ++ partStores (.accessEnd [(0x1000, 9)]) busy, w.1 ≠ 0x1001 := by
  unfold MemoryOk; decide +kernel

/-- OrderPassedOverWhileSlotHeld: a slot with a held order. -/
theorem test_slot_held : orderHanded (.gateOpen src) = some (src, .gateOpen) ∧ canTake stepping src.slot.val = false := by
  decide +kernel

/-- A slot that may be taken, for every statement about an order. -/
theorem test_slot_free : canTake State.reset src.slot.val = true ∧ canTake linked src.slot.val = true ∧
    canTake peopled src.slot.val = true := by decide +kernel

/-- ClassChangeSetsCause: a boundary that worsens the class of a servo in HOLDOVER. -/
def drifting : State := modDsv (fun d => { d with state := .holdover, cls := 1, eps := 100 }) edge
theorem test_class_changes : (∀ landed, Instr.secondBoundary [] ≠ .fullReset landed) ∧
    (after (.secondBoundary []) drifting).dsv.cls = 2 ∧ drifting.dsv.cls = 1 := by
  refine ⟨(by intro _ h; cases h), ?_⟩; decide +kernel

/-- TickAddsIncrementOrIsBoundary: the last tick before a boundary; Φ 0 for the rounding. -/
theorem test_last_tick_before : (at_ 0 999999991).tbs.time.ns +
    ((at_ 0 999999991).tbs.time.frac + (at_ 0 999999991).tbs.tickInc) / 2 ^ 32 = 999999999 := by decide +kernel

/-- BoundaryMovesDeviceTime, TickAddsIncrementOrIsBoundary, BoundaryAppliesLeap, StepReachesBlocks, BoundaryEvaluatesClass: a
tick that just reaches a boundary, without and with a step due, and one that does not. -/
theorem test_first_tick_across : TimeOk edge ∧ edge.tbs.time.ns + (edge.tbs.time.frac + edge.tbs.tickInc) / 2 ^ 32 = 1000000000 ∧
    edge.tbs.stepDue = false ∧ edge.tbs.atBoundary = true ∧ edge.dsv.cls = 7 ∧ (at_ 0 999999991).tbs.atBoundary = false := by
  unfold TimeOk; decide +kernel
theorem test_step_due : TimeOk stepping ∧ stepping.tbs.posted = some ⟨80000000000, some 1, .host 0⟩ ∧
    stepping.tbs.stepDue = true ∧ stepping.tbs.atBoundary = true ∧
    storeEntry stepping 0 = some ⟨.postStep ⟨0, 80000000000, 1⟩, 7, .held⟩ ∧
    (∀ ch ∈ stepping.pou.channels, ch.pending = none) := by
  unfold TimeOk; decide +kernel

/-- BoundaryAppliesLeap: a leap whose epoch the boundary just reaches, and one a second later. -/
theorem test_leap_epochs : (after (.secondBoundary []) (modTbs (fun t => { t with leap := some ⟨1, true⟩ }) edge)).tbs.time.sec = 1 ∧
    (after (.secondBoundary []) (modTbs (fun t => { t with leap := some ⟨2, true⟩ }) edge)).tbs.time.sec < 2 := by
  decide +kernel

/-- No block posts a step at a boundary. -/
theorem blockBoundary_posted (r : Report) (b : Block) (s : State) (h : s.tbs.posted = none) :
    (blockBoundary r b s).tbs.posted = none := by
  have hs : (stepApplied r s).tbs.posted = none := by unfold stepApplied; split <;> simp_all
  cases b <;> simp only [blockBoundary]
  case tbs => unfold tbsBoundary applyLeap; repeat' split
              all_goals simp [hs]
  case dsv => unfold dsvBoundary; simp only; repeat' split
              all_goals simp [enterServo, h]
  all_goals (try split) <;> simp [h]

/-- AdvanceBetweenStepsBounded: with no step posted, ticks run on as many as are asked for. -/
theorem tick_posted_none {s : State} (h : s.tbs.posted = none) :
    ∃ t, exec .oscillatorTick s = .next t ∧ t.tbs.posted = none := by
  refine ⟨_, rfl, ?_⟩
  split
  · refine forEach_keeps (fun s => s.tbs.posted = none) _ _ (fun b _ s h => blockBoundary_posted _ b s h) _ ?_
    simp [Timebase.boundaryTick, Timebase.plainTick, Timebase.beginTick, Timebase.dueDelta, Timebase.stepDue, h]
  · simp [Timebase.plainTick, Timebase.beginTick, h]
theorem run_ticks (n : Nat) (s : State) (h : s.tbs.posted = none) :
    ∃ t, runUnstepped (List.replicate n .oscillatorTick) s = some (t, n) := by
  induction n generalizing s with
  | zero => exact ⟨s, rfl⟩
  | succ n ih =>
    obtain ⟨t, ht, hp⟩ := tick_posted_none h
    obtain ⟨u, hu⟩ := ih t hp
    refine ⟨u, ?_⟩
    have hd : s.tbs.stepDue = false := by unfold Timebase.stepDue; rw [h]
    rw [List.replicate_succ]
    simp [runUnstepped, hd, ht, hu, ticksBy]
theorem test_second_of_ticks : TimeOk edge ∧
    ∃ t, runUnstepped (List.replicate 125000000 .oscillatorTick) edge = some (t, 125000000) :=
  ⟨test_first_tick_across.1, run_ticks 125000000 edge rfl⟩

/-- Input A changed, at 100 s. -/
def refAt (f : RefIn → RefIn) : State := modRef .a f (at_ 100 0)

/-- PulseStartsAndGlitchLeavesNoTrace: no pulse, and the widest glitch. -/
theorem test_glitch : (refIn State.reset .a).pulse = none ∧
    (let s := refAt (fun r => { r with pulse := some ⟨1600000000000 - 15999, 1603200000000⟩ })
     ∃ p, (refIn s .a).pulse = some p ∧ s.tbs.stamp start - p.rise < (refIn s .a).settings.minWidth * 16 ∧
       s.tbs.stamp start - p.rise ≤ 3200000000) := by
  refine ⟨by decide +kernel, _, rfl, ?_⟩; decide +kernel

/-- MisplacedMarkOnlyMovesReference and AcceptedMarkQualifies: just early, just late, and both ends of the interval. -/
def pulseAfter (width gap : Nat) : State :=
  refAt (fun r => { r with qual := .qualifying, interval := some (1600000000000 - width - gap)
                           pulse := some ⟨1600000000000 - width, 1603200000000⟩ })
theorem test_marks_misplaced :
    1600000000000 - 16000 < 1600000000000 - 16000 - 15983999999 + 15984000000 ∧
    1600000000000 - 3200000000 - 16016000001 + 16016000000 < 1600000000000 - 3200000000 ∧
    (pulseAfter 16000 15983999999).tbs.stamp start = 1600000000000 ∧
    (refIn (pulseAfter 16000 15983999999) .a).settings.minWidth * 16 = 16000 ∧
    (refIn (pulseAfter 16000 15983999999) .a).pulse = some ⟨1599999984000, 1603200000000⟩ ∧
    (refIn (pulseAfter 16000 15983999999) .a).interval = some 1584015984001 := by decide +kernel
theorem test_marks_accepted :
    (refIn (pulseAfter 16000 15984000000) .a).interval = some (1599999984000 - 15984000000) ∧
    (refIn (pulseAfter 3200000000 16016000000) .a).interval = some (1596800000000 - 16016000000) ∧
    (refIn (pulseAfter 3200000000 16016000000) .a).pulse = some ⟨1596800000000, 1603200000000⟩ ∧
    (pulseAfter 3200000000 16016000000).tbs.stamp start - 1596800000000 = 3200000000 ∧
    (refIn (pulseAfter 3200000000 16016000000) .a).qual ≠ .disabled := by decide +kernel

/-- MessagesAssembleAndComplete: disabled, hunting, 1, 12 and 13 characters in, the last with a wrong sum. -/
def chars (n : Nat) : State := refAt (fun r => { r with qual := .absent, assembly := some ⟨0xA7 :: List.replicate (n - 1) 0, 0⟩ })
theorem test_message_stages : (refIn State.reset .a).qual = .disabled ∧
    (refIn (refAt (fun r => { r with qual := .absent })) .a).assembly = none ∧
    (refIn (chars 12) .a).assembly = some ⟨0xA7 :: List.replicate 11 0, 0⟩ ∧ (0xA7 :: List.replicate 11 0).length < 13 ∧
    (0xA7 :: List.replicate 12 0).length = 13 ∧
    (((0xA7 :: List.replicate 12 0 ++ [0]) : List Byte).map BitVec.toNat).sum % 256 ≠ 0 := by decide +kernel

/-- MessagesAssembleAndComplete: a message of zeros with its sum. -/
theorem test_whole_message : (0xA7 : Byte) + 14 + 0 + 0 + 0 + 0 + 0 + 0 + 0 + 0 + 0 + 0 + 0 + 0x4B = 0 ∧
    fixStatusOf 0 = some .locked ∧ leapFlagsOf 0 = some .none ∧
    (refIn (refAt (fun r => { r with qual := .absent })) .a).qual ≠ .disabled := by decide +kernel

/-- R30: a message completion in the tick of a step is the same whether it is stamped before the step or after it. -/
theorem test_stop_bit_across_step : moveBy 80000000000 (stepping.tbs.stamp ⟨⟨1, 4⟩, false⟩) =
    (after (.secondBoundary []) stepping).tbs.stamp ⟨⟨1, 4⟩, true⟩ := by decide +kernel
/-- StepReachesBlocks: the late stamp is held at the top of device time and at 0 as the moved early stamp is, and is short of the
top where that is. The early one is 4 ns before 1 s. -/
def steppingBy (sec : Nat) (delta : Int) : State :=
  modTbs (fun t => { t with posted := some ⟨delta, none, .servo⟩ }) (at_ sec 999999992)
def lateStamp (s : State) : Nat := (after (.secondBoundary []) s).tbs.stamp ⟨⟨1, 2⟩, true⟩
theorem test_stamp_across_held_step :
    (let top := steppingBy 281474976710653 32000000000
     top.tbs.stepDue = true ∧ top.tbs.stamp ⟨⟨1, 2⟩, false⟩ = 281474976710653 * 16000000000 + 999999996 * 16 ∧
     lateStamp top = 281474976710655 * 16000000000 + 999999996 * 16) ∧
    lateStamp (steppingBy 281474976710653 32000000064) = 281474976710655 * 16000000000 + 999999999 * 16 ∧
    lateStamp (steppingBy 0 (-15999999936)) = 0 ∧ lateStamp (steppingBy 0 (-15999999935)) = 1 ∧
    lateStamp (steppingBy 0 (-32000000000)) = 0 := by decide +kernel
/-- R7, R23: the start code's stop bit is stamped where it lies in its tick. -/
theorem test_stop_bit_stamped :
    ((refIn (after (.messageCharacter .a ⟨0xA7, true, ⟨⟨1, 2⟩, false⟩⟩) (refAt (fun r => { r with qual := .absent }))) .a).assembly.map
      (·.last)) = some 1600000000064 := by decide +kernel

/-- ReferenceDeadlinesAct: the loss deadline is the last instant of the tick, and one later. -/
theorem test_loss_deadline :
    (let s := refAt (fun r => { r with qual := .qualifying, lossAt := some 1600000000128 })
     s.tbs.reachesOpt (refIn s .a).lossAt = true ∧ (refIn s .a).qual ≠ .qualified) ∧
    (let s := refAt (fun r => { r with qual := .qualifying, lossAt := some 1600000000129 })
     s.tbs.reachesOpt (refIn s .a).lossAt = false) := by decide +kernel

/-- ReferenceDeadlinesAct, SetRefSelects: the preferred input QUALIFIED, the other active. -/
def reverting (at_ : Nat) : State :=
  modRfi (fun r => { r with active := some .b, revertAt := some at_ }) (refAt (fun r => { r with qual := .qualified }))
theorem test_revert : (reverting 1600000000128).tbs.reachesOpt (reverting 1600000000128).rfi.revertAt = true ∧
    (reverting 1600000000128).rfi.mode = .auto ∧
    (reverting 1600000000128).rfi.active = some (otherInput (reverting 1600000000128).rfi.preference) ∧
    (refIn (reverting 1600000000128) (reverting 1600000000128).rfi.preference).qual = .qualified ∧
    (reverting 1600000000129).tbs.reachesOpt (reverting 1600000000129).rfi.revertAt = false ∧
    revertArrangement State.reset = false := by decide +kernel
theorem test_set_ref : canTake (reverting 0) src.slot.val = true ∧ (refIn (reverting 0) .a).qual = .qualified ∧
    (refIn (reverting 0) .b).qual ≠ .qualified ∧ 2 < (3 : Byte).toNat ∧ ¬ 2 < (2 : Byte).toNat := by decide +kernel

/-- RefSetupWritesSettings, SetupOrders…, PortSetup…: fields in their lists, and the first code past each. -/
theorem test_setup_fields : inputOf 1 = some .b ∧ baudOf 3 = some .b115200 ∧ 1 < (2 : Byte).toNat ∧ 3 < (4 : Byte).toNat ∧
    portOf 1 = some .b ∧ (0x88B5 : BitVec 16) ≠ 0 ∧ portA.station.getLsbD 40 = false ∧
    (0x010000000000 : MacAddr).getLsbD 40 = true ∧ (16 : Byte).toNat ∈ [1, 2, 4, 8, 16] ∧
    (3 : Byte).toNat ∉ [1, 2, 4, 8, 16] := by decide

/-- MarkSteersTimebase: a mark 100 ns late, at the phase gate, and a label that disagrees, in each state. -/
def lateMark (ns : Nat) (label : Option Nat) : Mark := ⟨1600000000000 + ns * 16, label, .good, some 25, 0⟩
def servoIn (st : ServoState) (out : Bool) : State := modDsv (fun d => { d with state := st, stepOutstanding := out }) (at_ 100 0)
theorem test_mark_premises : (((lateMark 5000 none).stamp % 16000000000 : Nat) : Int) = 80000 ∧
    (lateMark 5000 none).stamp / 16000000000 = 100 ∧
    (80000 : Int).natAbs ≤ (servoIn .track false).dsv.settings.phaseGate * 16 ∧
    (servoIn .track false).dsv.state = .track ∧ (servoIn .holdover false).dsv.state = .holdover ∧
    (servoIn .acquire true).dsv.stepOutstanding = true ∧ (servoIn .acquire false).dsv.stepOutstanding = false ∧
    (lateMark 5000 (some 101)).label = some 101 ∧ (101 : Nat) ≠ 100 ∧
    (servoIn .acquire false).dsv.settings.stepThreshold * 16 < ((lateMark 50001 (some 100)).stamp % 16000000000 : Nat) := by
  decide +kernel
/-- MarkSteersTimebase: a mark used in ACQUIRE at the lock threshold, in the seventh and the eighth place of a run; a second
and a third disagreement and gated mark in TRACK; and what the eighth, the third and the third come to. -/
def servoRun (st : ServoState) (run : Nat) : State :=
  modDsv (fun d => { d with state := st, lockRun := run, labelRun := run, gateRun := run, freqHist := [3] }) (at_ 100 0)
theorem test_used_premises : (lateMark 1000 (some 100)).label = some 100 ∧ (lateMark 1000 (some 100)).width = .good ∧
    (16000 : Int).natAbs ≤ (servoRun .acquire 7).dsv.settings.lockThreshold * 16 ∧ 7 ≤ (servoRun .acquire 7).dsv.lockRun ∧
    ¬ 7 ≤ (servoRun .acquire 6).dsv.lockRun ∧ (servoRun .acquire 7).dsv.stepOutstanding = false ∧
    (servoRun .track 1).dsv.labelRun < 2 ∧ 2 ≤ (servoRun .track 2).dsv.labelRun ∧ 2 ≤ (servoRun .track 2).dsv.gateRun ∧
    (servoRun .track 2).dsv.settings.phaseGate * 16 < (80016 : Int).natAbs ∧ (servoRun .track 2).dsv.state = .track := by
  decide +kernel
theorem test_third_returns : (handleMark (lateMark 1000 (some 100)) (servoRun .acquire 7)).dsv.state = .track ∧
    (handleMark (lateMark 1000 (some 100)) (servoRun .acquire 6)).dsv.lockRun = 7 ∧
    (handleMark (lateMark 1000 (some 101)) (servoRun .track 2)).dsv.state = .acquire ∧
    (handleMark (lateMark 5001 (some 100)) (servoRun .track 2)).dsv.state = .acquire ∧
    (handleMark (lateMark 5001 (some 100)) (servoRun .track 1)).dsv.gateRun = 2 := by decide +kernel
/-- MarkSteersTimebase: a fall that accepts a mark of a QUALIFIED input, active or not. -/
def markFall (active : Option RefInput) : State :=
  modRfi (fun r => { r with active := active })
    (refAt (fun r => { r with qual := .qualified, nonGoodRun := 1, pulse := some ⟨1600000000000 - 16000, 1603200000000⟩ }))
theorem test_mark_handed : (refIn (markFall (some .a)) .a).qual = .qualified ∧ (refIn (markFall (some .a)) .a).nonGoodRun < 2 ∧
    (refIn (markFall (some .a)) .a).interval = none ∧ (markFall (some .a)).tbs.stamp start = 1600000000000 ∧
    (refIn (markFall (some .a)) .a).settings.minWidth * 16 = 16000 ∧ (markFall (some .a)).rfi.active = some .a ∧
    (markFall (some .b)).rfi.active ≠ some .a := by decide +kernel
theorem test_mark_supersedes : stepping.tbs.posted = some ⟨80000000000, some 1, .host 0⟩ ∧
    storeEntry stepping 0 = some ⟨.postStep ⟨0, 80000000000, 1⟩, 7, .held⟩ := by decide +kernel

/-! ### Links -/

/-- LinkLevelMovesPortState, PortSetupWritesSettings: a port DISABLED, DOWN and UP. -/
theorem test_port_states : (link State.reset .a).state = .disabled ∧ (link linked .a).state = .up ∧
    (link (modLink .a (fun l => { l with state := .down }) linked) .a).state = .down ∧
    (beaconPort linked .a).rate ∈ [1, 2, 4, 8, 16] := by decide +kernel

/-- ArbiterGrantsBeaconThenRange, TimestampPoints: frames being sent, before and after their timestamp point. -/
def sending (kind : TxKind) (stamped : Bool) : State :=
  modBeacon .a (fun b => { b with built := some ⟨[], []⟩ })
    (modLink .a (fun l => { l with tx := some ⟨kind, [], stamped⟩ }) peopled)
theorem test_arbiter_busy : (∃ f, (link (sending .beacon false) .a).tx = some f ∧ f.stamped = false) ∧
    (∀ f, (link (sending .beacon true) .a).tx = some f → f.stamped = true) ∧
    (beaconPort (sending .beacon false) .a).built = some ⟨[], []⟩ ∧
    (link (sending (.range 3 1) false) .a).tx = some { kind := .range 3 1, bytes := [], stamped := false } := by
  refine ⟨⟨_, rfl, rfl⟩, ?_, by decide +kernel, rfl⟩
  intro f h; cases h; rfl
theorem test_beacon_wanted : (link (modLink .a (fun l => { l with beaconReq := true }) linked) .a).beaconReq = true ∧
    (link linked .a).beaconReq = false := by decide +kernel
/-- BeaconBodyCarries: a port whose Beacon is granted, with entries, notices and a pending leap. -/
def building : State :=
  modLink .a (fun l => { l with beaconReq := true }) (modBeacon .a (fun b => { b with roll := [⟨3, false⟩], seq := 77 })
    (modTbs (fun t => { t with leap := some ⟨99, false⟩ }) (modClient 3 (fun _ => relay) (board (some 2) 2 true))))
theorem test_beacon_premises : (link building .a).state = .up ∧ (link building .a).tx = none ∧
    (link building .a).beaconReq = true ∧
    ((link (after (.arbiterFree .a) building) .a).tx.map (fun f => f.bytes.drop 42)) =
      some ([0, 0, 0, 0, 0, 99, 0, 77, 1, 2, 0, 0] ++ [2, 0, 0, 0, 0, 0x0A, 0, 2, 0xED, 0x9C, 3, 0] ++ [4, 1, 1, 6, 1, 1]) := by
  decide +kernel
theorem test_launch_holds : launchHolds peopled .a :=
  ⟨⟨3, by unfold wantsLaunch; decide +kernel⟩, by decide +kernel, by unfold windowHasRoom; decide +kernel⟩
theorem test_no_launch : ¬ launchHolds linked .a ∧ (link linked .a).state = .up ∧ (link linked .a).tx = none := by
  refine ⟨fun ⟨⟨n, hn, hv, _⟩, _⟩ => ?_, by decide +kernel, by decide +kernel⟩
  have : ∀ k < 256, (client linked k).state = .vacant := by decide +kernel
  have len : linked.crs.clients.length = 256 := by decide +kernel
  exact hv (this n (len ▸ hn))

/-- FramesDiscardedOrDropped, HailsAndForeignBeacons: frames that the filter takes, and one with a wrong check sequence. -/
def arriving (s : State) : State := modLink .a (fun l => { l with rx := some 960000000000 }) s
def hailFrame : List Byte := frameTo 0x02000000000A kindHail [0, 3]
theorem test_frames : (link linked .a).rx = none ∧ (link (arriving peopled) .a).rx = some 960000000000 ∧
    filterPasses portA hailFrame = true ∧ btxOk portA (parseFrame hailFrame) = true ∧
    (parseFrame hailFrame).kind = 4 ∧ (parseFrame hailFrame).bodyLen = 2 ∧ 64 ≤ hailFrame.length ∧
    clientKindOf (byteAt (parseFrame hailFrame).body 0) = some .relay ∧
    filterPasses portA (hailFrame.dropLast ++ [0]) = false ∧
    (parseFrame (frameTo 0x02000000000A 2 [1, 0])).kind.toNat ∉ [1, 3, 4] := by decide +kernel
/-- FramesDiscardedOrDropped: fields one past their range, in a frame that the filter takes. -/
def badFrames : List (List Byte) :=
  [frameTo 0x02000000000A 1 (zeros 33), frameTo 0x02000000000A 3 (zeros 12),
   frameTo 0x02000000000A 3 ([1, 1, 0, 16] ++ zeros 8), frameTo 0x02000000000A 3 ([1, 1, 0, 0] ++ be 4 1000000000 ++ zeros 4),
   frameTo 0x02000000000A 3 ([1, 4] ++ zeros 10), frameTo 0x02000000000A 4 [4, 0], frameTo 0x02000000000A 4 [0, 8],
   frameTo 0x02000000000A 4 [0, 0, 0]]
theorem test_bad_fields : ∀ bs ∈ badFrames, filterPasses portA bs = true ∧ btxOk portA (parseFrame bs) = true ∧
    (link (after (.frameReceived .a bs) (arriving peopled)) .a).counters.dropped = 1 := by decide +kernel
theorem test_hail_known : clientByAddr 0x02000000000A (arriving peopled) = some 3 ∧
    clientByAddr 0x02000000000A (arriving linked) = none := by decide +kernel
def foreignFrame : List Byte := frameTo 0x020000000099 kindBeacon (zeros 34)
theorem test_foreign : filterPasses portA foreignFrame = true ∧ btxOk portA (parseFrame foreignFrame) = true ∧
    (parseFrame foreignFrame).kind = 1 ∧ 34 ≤ (parseFrame foreignFrame).bodyLen ∧
    (link (arriving linked) .a).settings.reporting = true ∧ (link (arriving linked) .a).holdoff = none := by decide +kernel

/-- MatchedEchoOutcomes: the worked exchange of ch. 6.5, and what comes of it. -/
def echoBody : List Byte := [1, 1, 8, 0] ++ be 4 250012010 ++ be 4 960000
def echoFrame : List Byte := frameTo 0x02000000000A kindEcho echoBody
def echoState : State :=
  modRange .a (fun r => { r with table := [⟨1, 3, some 16004000000000, some 16004032000000⟩] })
    (modLink .a (fun l => { l with rx := some (16004000000000 + 1344008) }) peopled)
theorem test_echo_premises : filterPasses (link echoState .a).settings echoFrame = true ∧
    btxOk (link echoState .a).settings (parseFrame echoFrame) = true ∧ (parseFrame echoFrame).kind = 3 ∧
    echoOf (parseFrame echoFrame) 16004001344008 = some echo1000 ∧
    (⟨1, 3, some 16004000000000, some 16004032000000⟩ : Exchange) ∈ (rangePort echoState .a).table ∧
    (client echoState 3).state ≠ .vacant ∧ (client echoState 3).config.addr = echo1000.src ∧
    (path echoState 3 .a).state = .valid ∧ (path echoState 3 .a).delay = some 191900 := by decide +kernel
theorem test_echo_table : TableOk (rangePort echoState .a) := by unfold TableOk; decide +kernel
theorem test_echo_handled : (client (after (.frameReceived .a echoFrame) echoState) 3).offset = some 245 ∧
    (path (after (.frameReceived .a echoFrame) echoState) 3 .a).debt = 0 := by decide +kernel

/-- MatchedEchoOutcomes: the exchange on a SEEDING path in its last place, a LOST path, and a VALID path with D away from the
sample by the gate and by one more, after two and three outliers. -/
def echoOn (f : Path → Path) : State := modPath 3 .a f echoState
theorem test_echo_paths :
    (path (after (.frameReceived .a echoFrame) (echoOn (fun q => { q with state := .seeding, seeds := 3 }))) 3 .a).state = .valid ∧
    (path (after (.frameReceived .a echoFrame) (echoOn (fun q => { q with state := .lost, debt := 9, delay := none }))) 3 .a).delay =
      some 192020 ∧
    (path (after (.frameReceived .a echoFrame) (echoOn (fun q => { q with delay := some 188820 }))) 3 .a).accepted = 1 ∧
    (path (after (.frameReceived .a echoFrame) (echoOn (fun q => { q with delay := some 188819, outlierRun := 2 }))) 3 .a).outlierRun = 3 ∧
    (path (after (.frameReceived .a echoFrame) (echoOn (fun q => { q with delay := some 188819, outlierRun := 3 }))) 3 .a).delay =
      some 192020 := by decide +kernel
theorem test_echo_rejected : (path (after (.frameReceived .a echoFrame)
    (modRng (fun r => { r with settings := ⟨4, 1000, 2000, 1000⟩ }) echoState)) 3 .a).rejects = 1 := by decide +kernel

/-- UnmatchedEchoLateOrStray: no exchange with the tag, one only reserved; the tag expired last, and none. -/
def unmatched (table : List Exchange) (last : Option Byte) : State :=
  modRange .a (fun r => { r with table := table }) (echoOn (fun q => { q with lastExpired := last }))
theorem test_unmatched : filterPasses (link (unmatched [] none) .a).settings echoFrame = true ∧
    (link (unmatched [] none) .a).rx = some 16004001344008 ∧
    (∀ x ∈ (rangePort (unmatched [⟨1, 3, none, none⟩] none) .a).table, x.t1 = none) ∧
    (∀ k < 256, (client (unmatched [] none) k).state ≠ .vacant → k = 3) ∧
    (path (after (.frameReceived .a echoFrame) (unmatched [] (some 1))) 3 .a).late = 1 ∧
    (link (after (.frameReceived .a echoFrame) (unmatched [] none)) .a).counters.stray = 1 := by decide +kernel

/-- DeadlinesActWhenReached: a point at the last instant of the tick, a window and an expiry at device time. -/
def waiting : State :=
  modRange .a (fun r => { r with windowAt := some 960000000000, table := [⟨1, 3, some 0, some 960000000000⟩, ⟨2, 4, some 0, some 960000000001⟩] })
    (modBeacon .a (fun b => { b with next := some 960000000128 }) peopled)
theorem test_deadlines : waiting.tbs.reaches 960000000128 = true ∧ waiting.tbs.reaches 960000000129 = false ∧
    (beaconPort waiting .a).next = some 960000000128 ∧ (link waiting .a).state = .up ∧
    (rangePort waiting .a).windowAt = some 960000000000 ∧ 960000000000 ≤ now waiting ∧ now waiting < 960000000001 ∧
    (∀ w, (rangePort linked .a).windowAt = some w → now linked < w) ∧
    (3 : Nat) < waiting.crs.clients.length ∧ (path waiting 3 .a).timeouts < 65535 := by
  refine ⟨by decide +kernel, by decide +kernel, by decide +kernel, by decide +kernel, by decide +kernel,
    by decide +kernel, by decide +kernel, ?_, by decide +kernel⟩
  intro w h; cases h
theorem test_deadline_table : TableOk (rangePort waiting .a) ∧ windowHasRoom waiting .a := by
  unfold TableOk windowHasRoom; decide +kernel

/-! ### Clients and notices -/

/-- AdmitMakesClient, ReconfigActsFieldByField, RetireClearsContext: a configuration group in memory, a slot that is
vacant and one that is not, the last slot and one past it, and another client with the address. -/
def groupStores (n : Nat) : HostWrites := storesAt 0 (clientOffset n) ([0x02, 0, 0, 0, 0, 0x0C, 0, 3, 2, 4, 8] ++ zeros 5 ++ [100, 0, 0, 0, 100])
theorem test_admit_premises : canTake peopled src.slot.val = true ∧ peopled.crs.clients.length = 256 ∧
    (255 : BitVec 16).toNat < 256 ∧ 256 ≤ (256 : BitVec 16).toNat ∧ (client peopled 255).state = .vacant ∧
    (client peopled 3).state ≠ .vacant ∧
    (parseConfig (configGroup 255 (modMem (Memory.writeAll (groupStores 255)) peopled))).map (·.1.addr) = some 0x02000000000C ∧
    (parseConfig (configGroup 3 (modMem (Memory.writeAll (groupStores 3)) peopled))).map (·.1.addr) = some 0x02000000000C ∧
    parseConfig (configGroup 255 peopled) = none := by decide +kernel
theorem test_addresses_apart : ∀ k < 256, (client peopled k).state ≠ .vacant → (client peopled k).config.addr ≠ 0x02000000000C := by
  decide +kernel
/-- The same group with the address of the client in slot 3, and one that keeps that client's address. -/
def sameStores (n : Nat) : HostWrites := groupStores n ++ storesAt 0 (clientOffset n + 5) [0x0A]
theorem test_duplicate : (parseConfig (configGroup 255 (modMem (Memory.writeAll (sameStores 255)) peopled))).map (·.1.addr) =
    some (client peopled 3).config.addr ∧ (3 : Nat) ≠ 255 := by decide +kernel
theorem test_same_address : (parseConfig (configGroup 3 (modMem (Memory.writeAll (sameStores 3)) peopled))).map (·.1.addr) =
    some (client peopled 3).config.addr ∧
    allows ((client peopled 3).config.allowed) .a = true ∧ (path peopled 3 .b).state = .idle := by decide +kernel
theorem test_admitted : (client (after (.admitClient src 255 (groupStores 255)) peopled) 255).state = .admitted ∧
    (path (after (.admitClient src 255 (groupStores 255)) peopled) 255 .a).debt = 1 := by decide +kernel

/-- NoticesPostedAndWithdrawn: the greatest index and length, N 16 and 17, an epoch reached and one not, held blocks. -/
def post (mode : BitVec 4) (param : BitVec 48) : NoticePostP := ⟨7, mode, 16, param, zeros 16⟩
theorem test_notice_premises : linked.bcu.notices.length = 8 ∧ (post 2 16).param.toNat % 256 = 16 ∧
    16 < (post 2 17).param.toNat % 256 ∧ (post 3 60).param.toNat ≤ linked.tbs.time.sec ∧
    linked.tbs.time.sec < (post 3 61).param.toNat ∧ noticeModeOf (post 3 61) = some (.until_ 61) ∧
    noticeAt (board none 0 true) 1 ≠ none ∧ noticeAt (board none 0 true) 7 = none ∧ (7 : Byte).toNat ≤ 7 ∧
    7 < (8 : Byte).toNat := by decide +kernel

/-! ### A second boundary in the other blocks -/

/-- A state at the edge of second 1 with the client in slot 3, its debt `debt`, announced at `said`, two newcomers, and notices. -/
def eve (debt : Nat) (said : Option Nat) : State :=
  modBcu (fun b => { b with notices := [noticeOf (.until_ 1) false 0, noticeOf (.until_ 2) false 0] ++ List.replicate 6 none })
    (modCrs (fun r => { r with newcomers := [⟨1, 0⟩, ⟨2, 1⟩] })
      (modClient 3 (fun _ => { relay with config := { relay.config with announceAge := 0 }
                                          paths := ⟨{ relay.paths.a with debt := debt, announcedAt := said }, Path.idle⟩ })
        (modLink .a (fun l => { l with state := .up }) edge)))

/-- BoundaryGrowsDebt: a due path with debt 7 and with debt 8. -/
theorem test_debt_grows : TimeOk (eve 7 none) ∧ (eve 7 none).tbs.atBoundary = true ∧
    (path (after (.secondBoundary []) (eve 7 none)) 3 .a).debt = 8 ∧
    (path (after (.secondBoundary []) (eve 8 none)) 3 .a).state = .lost ∧
    (path (after (.secondBoundary []) (eve 8 none)) 3 .b).state = .idle := by unfold TimeOk; decide +kernel

/-- BoundaryAgesNewcomersAnnouncementsNotices: an announcement never made, one that is aged and one that is just not; an
UNTIL epoch reached and one not; and, at second 60, a newcomer heard 60 s ago and one that was not. -/
theorem test_ages : ((beaconPort (after (.secondBoundary []) (eve 0 none)) .a).roll.map (·.slot)) = [3] ∧
    ((beaconPort (after (.secondBoundary []) (eve 0 (some 15999999999))) .a).roll.map (·.slot)) = [3] ∧
    (beaconPort (after (.secondBoundary []) (eve 0 (some 16000000000))) .a).roll = [] ∧
    noticeAt (after (.secondBoundary []) (eve 0 none)) 0 = none ∧
    noticeAt (after (.secondBoundary []) (eve 0 none)) 1 = noticeOf (.until_ 2) false 0 ∧
    (after (.secondBoundary []) (modTbs (fun t => { t with time := ⟨59, 999999992, 0⟩ }) (eve 0 none))).crs.newcomers = [⟨2, 1⟩] := by
  decide +kernel

/-- BoundaryStartsArmsAndReschedulesBeacons: an arm due and one a second later; a rate that comes in with the boundary's own
point still to come and with it taken; the return of device time to 0. -/
def armedAt (epoch : BitVec 48) : State :=
  modChannel 0 (fun ch => { ch with state := .waiting, arm := some 0, active := ⟨.second, false, false, 0, 0, 1000, 0, 0, 0⟩ })
    (holding src (.pulseArm ⟨1, zeros 8, epoch⟩) edge)
theorem test_arms : storeEntry (armedAt 1) 0 = some ⟨.pulseArm ⟨1, zeros 8, 1⟩, 7, .held⟩ ∧ (armedAt 1).tbs.posted = none ∧
    (∀ ch ∈ (armedAt 1).pou.channels, ch.pending = none) ∧ (channel (armedAt 1) 0).active.mode ≠ .single ∧
    (channel (after (.secondBoundary []) (armedAt 1)) 0).runStart = some 16000000000 ∧
    (channel (after (.secondBoundary []) (armedAt 2)) 0).state = .waiting := by decide +kernel
/-- A SINGLE channel whose start lies before the boundary, and one at it. -/
def armedSingle (startAt : Nat) : State :=
  modChannel 0 (fun ch => { ch with active := { ch.active with mode := .single, start := startAt } }) (armedAt 1)
theorem test_singles :
    (channel (after (.secondBoundary []) (armedSingle 999999999)) 0).state = .ready ∧
    (channel (after (.secondBoundary []) (armedSingle 1000000000)) 0).state = .running ∧
    (storeEntry (after (.secondBoundary []) (armedSingle 999999999)) 0).map (·.status) =
      some (.completed .ok [1, 0, 0, 0, 0, 0, 0, 0, 1, 1] false) := by decide +kernel
def newRate (sec next : Nat) (rate : Option Nat) : State :=
  modBeacon .a (fun b => { b with next := some next, pendingRate := rate })
    (modTbs (fun t => { t with time := ⟨sec, 999999992, 0⟩ }) (eve 0 none))
theorem test_rates :
    (beaconPort (after (.secondBoundary []) (newRate 0 16000000000 (some 2))) .a).next = some 16000000000 ∧
    (beaconPort (after (.secondBoundary []) (newRate 0 32000000000 (some 2))) .a).next = some 24000000000 ∧
    (beaconPort (after (.secondBoundary []) (newRate 281474976710655 (281474976710656 * 16000000000) none)) .a).next = some 0 ∧
    (link (newRate 0 16000000000 none) .a).state = .up ∧ (link (newRate 0 16000000000 none) .b).state ≠ .up := by decide +kernel

/-! ### Pulses and captures -/

/-- PulseEdgesDrivenOnce: channels RUNNING with an edge that the tick in progress just reaches. -/
def pulsing (mode : PulseMode) (startAt : Nat) (fall : Option Nat) : State :=
  modChannel 7 (fun ch => { ch with
    state := .running, active := ⟨mode, false, false, 8, 1000, 100, 0, 0, startAt⟩, runStart := some 0, fall := fall })
    (modTbs (fun t => { t with reachedFrom := t.time.units + 1 }) (at_ 60 0))
theorem test_pulse_rise : (channel (pulsing .second 0 none) 7).state = .running ∧
    isRising (channel (pulsing .second 0 none) 7).active 60000000008 = true ∧
    risingReached (pulsing .second 0 none).tbs (channel (pulsing .second 0 none) 7) 60000000008 = true ∧
    risingReached (pulsing .second 0 none).tbs (channel (pulsing .second 0 none) 7) 60000000000 = false ∧
    risingReached (pulsing .second 0 none).tbs (channel (pulsing .second 0 none) 7) 60000000009 = false := by decide +kernel
theorem test_pulse_fall : (channel (pulsing .single 59999999908 (some 60000000008)) 7).fall = some 60000000008 ∧
    edgeReached (pulsing .single 59999999908 (some 60000000008)).tbs (60000000008 * 16) = true ∧
    edgeReached (pulsing .single 59999999908 (some 60000000009)).tbs (60000000009 * 16) = false ∧
    60000000008 = (channel (pulsing .single 59999999908 (some 60000000008)) 7).active.start +
      (channel (pulsing .single 59999999908 (some 60000000008)) 7).active.width ∧
    (pulsing .second 0 (some 60000000008)).pou.channels.length = 8 := by decide +kernel

/-- R144: in the tick of a step an edge at the time after it takes a position past the boundary (tick of 8 ns from 0.7 ns before
it, edge 3.3 ns in). -/
theorem test_step_side :
    placedAt { Timebase.reset with time := ⟨10, 3, 0⟩, lastInc := 34359738368
                                   stepTick := some ⟨DeviceTime.units ⟨9, 999999995, 0⟩, 0⟩
                                   reachedFrom := DeviceTime.units ⟨9, 999999998, 3006477107⟩ } 9999999999 = 4 := by decide +kernel

/-- PulseOrdersHeldUntilBoundary: schedules at the ends of their ranges, a pending one, and channels to arm. -/
def program (mode channel : Byte) : PulseProgramP := ⟨channel, mode, 1, 0, 0, 999999999, 999999999, 1⟩
def scheduled : State :=
  run [.pulseProgram ⟨1, 0⟩ ⟨7, 1, 0, 0, 0, 0, 1000, 0⟩] (modChannel 0 (fun ch => { ch with state := .ready }) edge)
theorem test_program_premises : pulseModeOf (program 1 7).mode = some .second ∧
    (program 1 7).at8.toNat = 999999999 ∧ (program 1 7).at12.toNat = 999999999 ∧ 7 < (program 1 8).channel.toNat ∧
    scheduleOk (program 4 7) (scheduleOf (program 4 7) .mark) = false ∧ (program 4 7).markClass.toNat < 1 ∧
    ¬ 7 < (program 1 7).channel.toNat ∧ pulseModeOf 5 = none ∧
    ((program 3 7).at16.toNat * 1000000000 + (program 3 7).at8.toNat) * 16 ≤ now (at_ 1 999999999) ∧
    now (at_ 1 999999998) < ((program 3 7).at16.toNat * 1000000000 + (program 3 7).at8.toNat) * 16 := by decide +kernel
theorem test_program_pending : scheduled.tbs.atBoundary = true ∧
    (channel scheduled 7).pending = some ⟨⟨.second, false, false, 0, 0, 1000, 0, 0, 0⟩, 1⟩ ∧
    (storeEntry scheduled 1).isSome = true ∧ canTake scheduled 0 = true ∧ (1 : Nat) ≠ src.slot.val := by decide +kernel
/-- R148: the transfer of that schedule, of one that a RUNNING channel can no longer drive, and of one of another polarity. -/
def taking (f : Channel → Channel) : State :=
  modChannel 7 (fun ch => f { ch with state := .running, fall := some 1000000500 }) scheduled
theorem test_transfers :
    (storeEntry (after (.secondBoundary []) scheduled) 1).map (·.status) =
      some (.completed .ok [1, 0, 0, 0, 0, 0, 0, 0, 1] false) ∧
    (channel (after (.secondBoundary []) (taking id)) 7).fall = some 1000000500 ∧
    (channel (after (.secondBoundary []) (taking (fun ch => { ch with active := { ch.active with idleHigh := true } }))) 7).fall = none ∧
    (channel (after (.secondBoundary []) (taking (fun ch => { ch with
      lastRise := some 5, pending := ch.pending.map (fun q => { q with sched := { q.sched with mode := .single, start := 5 } }) }))) 7).state =
      .ready ∧
    scheduled.pou.gateOpen = (after (.secondBoundary []) scheduled).pou.gateOpen ∧ scheduled.tbs.posted = none ∧
    (channel scheduled 7).arm = none := by decide +kernel
def arm (count : Byte) (epoch : BitVec 48) : PulseArmP := ⟨count, [0, 7, 0, 0, 0, 0, 0, 0], epoch⟩
theorem test_arm_premises : (channel scheduled 0).state = .ready ∧ (channel scheduled 7).state = .off ∧
    (arm 1 1).epoch.toNat > scheduled.tbs.time.sec ∧ (arm 1 0).epoch.toNat ≤ scheduled.tbs.time.sec ∧
    ((arm 1 1).channels.take 1).map BitVec.toNat = [0] ∧ ¬ (((arm 3 1).channels.take 3).map BitVec.toNat).Nodup ∧
    (channel (run [.pulseArm src (arm 1 1)] scheduled) 0).state = .waiting := by decide +kernel

/-- BoundaryEvaluatesClass, PulseEdgesDrivenOnce: a class that worsens past the floor at a boundary, with a gated pulse. -/
def worsening : State :=
  modChannel 7 (fun ch => { ch with state := .running, fall := some 1000000500, active := { ch.active with mode := .second, gated := true } })
    { edge with
      dsv := { edge.dsv with state := .track, cls := 2, errHist := [5000] }
      pou := { edge.pou with gateOpen := true, cls := 2 } }
theorem test_class_closes : worsening.tbs.atBoundary = true ∧ worsening.dsv.cls ≤ 7 ∧ worsening.tbs.stepDue = false ∧
    (∀ ch ∈ worsening.pou.channels, ch.pending = none ∧ ch.arm = none) ∧ outputLevel worsening 7 = true ∧
    (after (.secondBoundary []) worsening).dsv.cls = 3 ∧ outputLevel (after (.secondBoundary []) worsening) 7 = false ∧
    ((after (.secondBoundary []) worsening).xch.staging.map (·.body)) =
      [.classChange 2 3 .track 5000, .gateClosed .cls 3 2 false [7]] := by decide +kernel

/-- GateOpensAndCloses: a held order at another slot, for CANCEL. -/
theorem test_cancel_gate :
    (let s := holding ⟨5, 9⟩ .gateOpen State.reset
     canTake s src.slot.val = true ∧ (5 : Byte).toNat ≤ 31 ∧ (5 : Byte).toNat ≠ src.slot.val ∧
       storeEntry s 5 = some ⟨.gateOpen, 9, .held⟩) := by decide +kernel

/-- CapturesJudged: a candidate whose confirmation the tick just reaches, with and without a client to judge it for. -/
def capturing (confirmAt : Nat) (slot : Option Nat) : State :=
  modCapture 1 (fun c => { c with edge := .rising, slot := slot, candidate := some ⟨959999990000, true, confirmAt⟩ }) peopled
theorem test_capture_premises : (capturing 960000000128 (some 3)).tbs.reaches 960000000128 = true ∧
    (capturing 960000000129 (some 3)).tbs.reaches 960000000129 = false ∧
    (captureIn (capturing 960000000128 (some 3)) 1).candidate = some ⟨959999990000, true, 960000000128⟩ ∧
    (captureIn (capturing 960000000128 (some 3)) 1).edge = .rising ∧
    (captureIn (capturing 960000000128 (some 3)) 1).unjudged = none ∧
    (captureIn (capturing 960000000128 (some 3)) 1).slot = some 3 ∧
    (captureIn (capturing 960000000128 none) 1).slot = none ∧
    (client (capturing 960000000128 (some 3)) 3).state ≠ .vacant ∧
    (client (capturing 960000000128 (some 3)) 3).config.capture = some 1 ∧
    (captureIn (modCapture 1 (fun c => { c with edge := .falling }) (capturing 960000000128 none)) 1).edge = .falling := by
  decide +kernel

/-- R163, R166: the record of that capture with its interval and P, and none from a quiet input. -/
theorem test_capture_record :
    ((after (.captureConfirmation 1) (modCapture 1 (fun c => { c with latest := some ⟨959999990000 - 16, true⟩ })
      (capturing 960000000128 (some 3)))).xch.staging.map (·.body)) =
      [.capture 1 true 959999990000 (some 16) 1 .beyond (some (-10000))] ∧
    (after (.captureConfirmation 1) (modCapture 1 (fun c => { c with quiet := true })
      (capturing 960000000128 (some 3)))).xch.staging = [] := by decide +kernel

/-- CaptureSetupWritesSettings: the last input, edge and slot, and one past each. -/
theorem test_capture_fields : State.reset.evc.length = 4 ∧ ¬ 3 < (3 : Byte).toNat ∧ 3 < (4 : Byte).toNat ∧
    edgeOf 2 = some .falling ∧ ¬ 256 ≤ (255 : BitVec 16).toNat ∧ 256 ≤ (256 : BitVec 16).toNat ∧
    (captureIn State.reset 3).edge = .off := by decide +kernel

/-! ### The exchange -/

/-- SnapshotAndCancel: views of both ports, held and completed targets. -/
def ordered (o : Order) (st : OrderStatus) : State :=
  modXch (fun x => { x with store := x.store.set 31 (some ⟨o, 9, st⟩) }) State.reset
theorem test_cancel_premises : portOf ((1 : Byte) - 1) = some .a ∧ portOf ((2 : Byte) - 1) = some .b ∧ 2 < (3 : Byte).toNat ∧
    (31 : Byte).toNat ≤ 31 ∧ 31 < (32 : Byte).toNat ∧ storeEntry State.reset 31 = none ∧
    storeEntry (ordered (.postStep ⟨1, 0, 0⟩) .held) 31 = some ⟨.postStep ⟨1, 0, 0⟩, 9, .held⟩ ∧
    storeEntry (ordered (.pulseProgram (program 0 0)) .held) 31 = some ⟨.pulseProgram (program 0 0), 9, .held⟩ ∧
    storeEntry (ordered (.pulseArm (arm 1 1)) .held) 31 = some ⟨.pulseArm (arm 1 1), 9, .held⟩ ∧
    storeEntry (ordered (.admitClient 0) .held) 31 = some ⟨.admitClient 0, 9, .held⟩ ∧
    storeEntry (ordered .gateOpen (.completed .ok [] false)) 31 = some ⟨.gateOpen, 9, .completed .ok [] false⟩ ∧
    canTake (ordered (.postStep ⟨1, 0, 0⟩) .held) src.slot.val = true := by decide +kernel

/-- SweepsBegin: RUNNING with the timer run out or a sweep pending, a slot POSTED, a completion, a client queued, none. -/
def sweepingState (f : Controller → Controller) : State :=
  modXch (fun x => f { x with state := .running, run := true, period := some 1000, timer := some 0 }) peopled
theorem test_expiry_and_nudge :
    (run [.sweepPeriodExpiry [], .xnudge ⟨1, 15⟩ []] (sweepingState id)).xch.sweepPending = false ∧
    (run [.xnudge ⟨1, 15⟩ []] (sweepingState (fun x => { x with sweep := some .header }))).xch.sweepPending = true ∧
    (sweepingState id).xch.timeUp = false := by decide +kernel
theorem test_sweep_premises : (sweepingState id).xch.state = .running ∧ (sweepingState id).xch.haltAsked = false ∧
    (sweepingState id).xch.resetAsked = false ∧ (sweepingState id).xch.sweep = none ∧ (sweepingState id).xch.timer = some 0 ∧
    (sweepingState (fun x => { x with sweepPending := true })).xch.sweepPending = true ∧
    (sweepingState (fun x => { x with sweep := some .header })).xch.sweep ≠ none ∧ State.reset.xch.state ≠ .running ∧
    (∀ n < 32, slotReady (sweepingState id) n = false) ∧ (∀ n < 32, awaitsWriting (sweepingState id) n = false) ∧
    slotReady (modMem (Memory.writeAll [(0x800, 1)]) (sweepingState id)) 31 = true ∧
    awaitsWriting (answered src .gateOpen .ok [] (sweepingState id)) 0 = true ∧ (sweepingState id).crs.queue = [] ∧
    (modCrs (fun r => { r with queue := [255] }) (sweepingState id)).crs.queue = [255] := by decide +kernel

/-- ControlMovesExchange: usable and unusable headers, and an access that a stop waits for. -/
def header : HostWrites := storesAt 0 0 ([0x45, 0x58, 0x57, 0x4B, 1, 0, 0, 0, 0, 16] ++ zeros 6 ++ [1])
def starting : State := modXch (fun x => { x with state := .starting, run := true, access := some .headerStart }) State.reset
theorem test_header_premises :
    fieldLe (hostWords (modMem (Memory.writeAll header) starting)) 0 4 = 0x4B575845 ∧
    fieldLe (hostWords (modMem (Memory.writeAll header) starting)) 4 2 = 1 ∧
    fieldLe (hostWords (modMem (Memory.writeAll header) starting)) 8 4 ∈ [64, 128, 256, 512, 1024, 2048, 4096] ∧
    fieldLe (hostWords starting) 0 4 ≠ 0x4B575845 ∧ starting.xch.access = some .headerStart ∧
    starting.xch.haltAsked = false ∧ starting.xch.resetAsked = false ∧
    (after (.headerRead header) starting).xch.state = .running := by decide +kernel
theorem test_control_bits : (writeWhole ⟨4, 1⟩).getLsbD 2 = true ∧ (writeWhole ⟨4, 14⟩).getLsbD 2 = false ∧
    (writeWhole ⟨3, 1⟩).getLsbD 1 = true ∧ (writeWhole ⟨3, 1⟩).getLsbD 0 = true := by decide
theorem test_reset_premises :
    (after (.xrst ⟨0, 15⟩) starting).xch.resetAsked = true ∧ (after (.xrst ⟨0, 15⟩) starting).xch.access = some .headerStart ∧
    (after .exchangeReset (after (.xrst ⟨0, 15⟩) starting)).xch.state = .halted := by decide +kernel

/-- RegistersReadAndWritten: HALTED and not, and offsets on both sides of each word. -/
theorem test_register_premises : State.reset.xch.state = .halted ∧ (sweepingState id).xch.state ≠ .halted ∧
    (23 : Fin 32).val / 4 = 5 ∧ 24 ≤ (24 : Fin 32).val ∧ (3 : Fin 32).val / 4 = 0 ∧ (4 : Fin 32).val / 4 = 1 := by decide +kernel
theorem test_base_lanes : (after (.xbaseWrite false ⟨0xFFFFFFFF, 2⟩) State.reset).xch.baseLo = 0xF000 := by decide +kernel

/-- AccessesEnd: each access of a sweep in progress. -/
def accessing (a : Access) (step : SweepStep) : State :=
  modXch (fun x => { x with access := some a, sweep := some step }) (answered src .gateOpen .ok [] (sweepingState id))
theorem test_access_premises :
    storeEntry (accessing (.complete 0) (.completions 1)) 0 = some ⟨.gateOpen, 7, .completed .ok [] false⟩ ∧
    (accessing (.complete 0) (.completions 1)).xch.sweep = some (.completions 1) ∧
    (accessing (.publish 255 .even []) (.clients 0)).xch.access = some (.publish 255 .even []) ∧
    255 ∉ (accessing (.publish 255 .even []) (.clients 0)).crs.queue ∧
    255 < (accessing (.publish 255 .even []) (.clients 0)).crs.clients.length ∧
    (accessing .journal (.journal 0)).xch.access = some .journal ∧
    (accessing .headerPart .header).xch.sweep = some .header ∧ State.reset.xch.access = none := by decide +kernel
/-- R182, R186, R180: the bytes of a completion, of a journal record at index produced mod capacity, and of the header. -/
def recording : State :=
  modXch (fun x => { x with capacity := some 64, produced := 65 }) (stage (.gateOpened 5 6) (accessing .journal (.journal 1)))
theorem test_access_bytes :
    Memory.block (after (.accessEnd []) (accessing (.complete 0) (.completions 1))).mem 0 0x40 4 = [3, 0, 7, 0] ∧
    recording.xch.staging.length = 1 ∧ recording.xch.sweep = some (.journal 1) ∧
    Memory.block (after (.accessEnd []) recording).mem 0 0x9020 18 = [18, 0, 0, 0, 0, 0, 0, 0, 60, 0, 0, 0, 0, 0, 0, 0, 5, 6] ∧
    Memory.block (after (.accessEnd []) (accessing .headerPart .header)).mem 0 0x30 16 =
      [60, 0, 0, 0, 0, 0, 0, 0, 0, 0, 0, 0, 0, 7, 0, 0] := by decide +kernel
/-- AccessesEnd: a POSTED GATE-OPEN, ADMIT and unknown code being taken, the read of a held ADMIT, and the host words. -/
def posted (code : Byte) : HostWrites := storesAt 0 0x40 [1, code, 7, 0, 255]
def takingSlot : State :=
  modXch (fun x => { x with access := some (.takeSlot 0), sweep := some (.orders 1) }) (sweepingState id)
def readingGroup : State :=
  modXch (fun x => { x with access := some (.readConfig 0), sweep := some (.orders 1) })
    (holding src (.admitClient 255) (sweepingState id))
theorem test_taking_premises : takingSlot.xch.access = some (.takeSlot src.slot.val) ∧ takingSlot.xch.sweep = some (.orders 1) ∧
    canTake takingSlot src.slot.val = true ∧
    (let bytes := Memory.block (modMem (Memory.writeAll (posted 0x10)) takingSlot).mem (baseAddr takingSlot.xch) 0x40 64
     src.cookie = BitVec.ofNat 16 (fieldLe bytes 2 2) ∧ decodeOrder (byteAt bytes 1) (field bytes 4 24) = .gateOpen) ∧
    (255 : BitVec 16).toNat < 256 ∧ (client takingSlot 255).state = .vacant ∧
    storeEntry readingGroup src.slot.val = some { order := .admitClient 255, cookie := src.cookie, status := .held } := by
  decide +kernel
theorem test_taken : (storeEntry (after (.accessEnd (posted 0x10)) takingSlot) 0).map (·.status) = some (.completed .qualityLow [] false) ∧
    (after (.accessEnd (posted 0x07)) takingSlot).xch.access = some (.readConfig 0) ∧
    (storeEntry (after (.accessEnd (posted 0x14)) takingSlot) 0).map (·.status) = some (.completed .unknown [] false) ∧
    Memory.read (after (.accessEnd (posted 0x10)) takingSlot).mem 0x40 = slotTaken ∧
    (client (after (.accessEnd (groupStores 255)) readingGroup) 255).state = .admitted := by decide +kernel
/-- R93, R177: the odd version lands first, and a bus error in the last part leaves it. -/
theorem test_publication :
    (after (.accessEnd []) (accessing (.publish 3 .odd []) (.clients 0))).xch.access = some (.publish 3 .fields []) ∧
    (accessing .headerHost (.journal 0)).xch.access = some .headerHost ∧
    partStores (.busError 4) (accessing (.publish 3 .even []) (.clients 0)) = [] := by decide +kernel
theorem test_bus_error_stalls : (after (.busError 0) (accessing .headerPart .header)).xch.state = .stalled ∧
    (after (.busError 0) (accessing .headerPart .header)).xch.causes.stall = true := by decide +kernel

/-! ### Witnesses of single clauses -/

/-- OrderPassedOverWhileSlotHeld: a held order, a completion not yet written, and one written. -/
theorem test_slot_conditions : canTake (ordered .gateOpen .held) 31 = false ∧
    canTake (ordered .gateOpen (.completed .ok [] false)) 31 = false ∧
    canTake (ordered .gateOpen (.completed .ok [] true)) 31 = true ∧
    after (.gateOpen ⟨31, 7⟩) (ordered .gateOpen .held) = ordered .gateOpen .held := by decide +kernel

/-- BoundaryMovesDeviceTime: a step for NEXT, for the epoch second, for another one, and no boundary. -/
def posting (target : Option Nat) (s : State) : State := modTbs (fun t => { t with posted := some ⟨5, target, .servo⟩ }) s
theorem test_step_targets : (posting none edge).tbs.stepDue = true ∧ (posting (some 1) edge).tbs.stepDue = true ∧
    (posting (some 2) edge).tbs.stepDue = false ∧ (posting (some 0) edge).tbs.stepDue = false ∧ edge.tbs.stepDue = false ∧
    (posting none (at_ 0 0)).tbs.stepDue = false ∧ (posting (some 0) (at_ 281474976710655 999999992)).tbs.stepDue = true := by
  decide +kernel

/-- StepReachesBlocks: a launch history and a holdoff that move, a candidate whose confirmation the move reaches, and one it does not. -/
def crossing (confirmAt : Nat) (e : EdgeSelect) : State :=
  modCapture 1 (fun c => { c with edge := e, candidate := some ⟨15999990000, true, confirmAt⟩ })
    (modRange .a (fun r => { r with history := [100] }) stepping)
theorem test_captures_across_step :
    (rangePort (after (.secondBoundary []) (crossing 16000001600 .rising)) .a).history = [80000000100] ∧
    (captureIn (after (.secondBoundary []) (crossing 16000000000 .rising)) 1).latest = some ⟨95999990000, true⟩ ∧
    (captureIn (after (.secondBoundary []) (crossing 16000000000 .falling)) 1).candidate = none ∧
    (captureIn (after (.secondBoundary []) (crossing 16000000000 .falling)) 1).unjudged = some .step ∧
    (captureIn (after (.secondBoundary []) (crossing 16000001600 .rising)) 1).candidate = some ⟨95999990000, true, 96000001600⟩ ∧
    (after (.secondBoundary []) (crossing 16000000000 .rising)).xch.staging.map (·.body) =
      [.stepApplied (.host 0) 1 80000000000, .capture 1 true 95999990000 none 1 .step none] := by decide +kernel

/-- R28, R31, R34, R52: the active input of a servo in TRACK is lost, in AUTO and in a forced mode, with and without another. -/
def losing (mode : SelMode) (other : Qual) (freq : List Int) : State :=
  modDsv (fun d => { d with state := .track, cls := 1, freqHist := freq, errHist := [100], lockRun := 5, labelRun := 2 })
    (modRef .b (fun r => { r with qual := other }) (modRfi (fun r => { r with mode := mode, active := some .a, disagreeRun := 2 })
      (refAt (fun r => { r with qual := .qualified, lossAt := some 1600000000000 }))))
theorem test_active_lost :
    (let t := after (.lossDeadline .a) (losing .auto .absent [64, 64, 64, 66])
     t.rfi.active = none ∧ t.rfi.disagreeRun = 0 ∧ t.dsv.state = .holdover ∧ t.tbs.phi = 64 ∧ t.dsv.eps = 100 ∧
     t.dsv.lockRun = 0 ∧ t.xch.staging.map (·.body) =
       [.refState .a .qualified .absent .loss ⟨0, 0, 0, 0, 0⟩, .refChange (some .a) none .auto .qualification,
        .servoState .track .holdover .refLost 64 100 0 0]) ∧
    (after (.lossDeadline .a) (losing .auto .absent [64, 64, 64])).tbs.phi = 0 ∧
    (let t := after (.lossDeadline .a) (losing (.force .a) .qualified [])
     t.rfi.mode = .auto ∧ t.rfi.active = some .b ∧ t.dsv.state = .track ∧ t.dsv.errHist = [] ∧ t.dsv.labelRun = 0 ∧
     t.xch.staging.map (·.body) =
       [.refState .a .qualified .absent .loss ⟨0, 0, 0, 0, 0⟩, .refChange (some .a) (some .b) .auto .forceLost]) := by
  decide +kernel

/-- R31, R33, R52: SET-REF in FREERUN and HOLDOVER gives ACQUIRE, in ACQUIRE of the other input an empty error history. -/
theorem test_selection_notices :
    (let t := after (.setRef src 1) (refAt (fun r => { r with qual := .qualified }))
     t.dsv.state = .acquire ∧ t.rfi.active = some .a ∧ t.dsv.cls = 7 ∧ t.xch.staging.map (·.body) =
       [.refChange none (some .a) (.force .a) .order, .servoState .freerun .acquire .refActive 0 0 0 0]) ∧
    (let t := after (.setRef src 1) (modDsv (fun d => { d with state := .acquire, errHist := [5], labelRun := 1 }) (reverting 0))
     t.dsv.state = .acquire ∧ t.dsv.errHist = [] ∧ t.dsv.labelRun = 1) := by decide +kernel

/-- R36: the third mark whose message differs in the UTC offset. -/
def disagreeing (run : Nat) (flag : Bool) : State :=
  modRfi (fun r => { r with active := some .a, disagreeRun := run, disagreeFlag := flag })
    (refAt (fun r => { r with qual := .qualified, pulse := some ⟨1600000000000 - 16000, 1603200000000⟩
                              fifo := [⟨100, .locked, 25, 37, .none, 1590000000000⟩] }))
theorem test_utc_disagrees :
    (after (.refPulseFall .a start) (disagreeing 2 false)).xch.staging.map (·.body) = [.utcDisagree .a 37 0 .none] ∧
    (after (.refPulseFall .a start) (disagreeing 2 false)).rfi.disagreeFlag = true ∧
    (after (.refPulseFall .a start) (disagreeing 1 false)).xch.staging = [] ∧
    (after (.refPulseFall .a start) (disagreeing 3 true)).xch.staging = [] := by decide +kernel

/-- R62, R125, R129, R136: a port with a pending rate, carried marks and owed ONCE blocks leaves UP, by its link and by PORT-SETUP. -/
def leaving (both : Bool) : State :=
  modBcu (fun b => { b with notices := b.notices.map (Option.map (fun n => { n with owed := ⟨n.owed.a, both && n.owed.b⟩ })) })
    (modBeacon .a (fun b => { b with roll := [⟨3, true⟩], pendingRate := some 4, seq := 9 }) (board (some 2) 2 true))
theorem test_leaves_up :
    (let t := after (.linkStatusChange .a false) (leaving false)
     beaconPort t .a = { BeaconPort.reset with roll := [⟨3, false⟩], rate := 4, seq := 9, lastNotice := some 2 } ∧
     noticeAt t 4 = none ∧ t.xch.staging.map (·.body) = [.noticeDone 4 .once ⟨false, false⟩ .portDown]) ∧
    (let t := after (.portSetup src ⟨0, 0, 1, 8, 3, 0x88B5, 0x020000000001⟩) (leaving true)
     (link t .a).state = .disabled ∧ (beaconPort t .a).rate = 8 ∧ (noticeAt t 4).map (·.owed) = some ⟨false, true⟩ ∧
     t.xch.staging = []) := by decide +kernel

/-- R129, R132, R135, R136: a Beacon with an entry whose client has left, one that stands, a ONCE and an NTH block completes. -/
theorem test_beacon_completes :
    (let built : Built := ⟨[⟨3, some 191900, true⟩, ⟨8, none, false⟩], [⟨4, true⟩, ⟨2, true⟩]⟩
     let s := modBeacon .a (fun b => { b with roll := [⟨3, true⟩, ⟨9, false⟩], built := some built })
       (modLink .a (fun l => { l with tx := some ⟨.beacon, [], false⟩ }) (modClient 3 (fun _ => relay) (leaving false)))
     let t := after (.txTimestampPoint .a start) s
     (path t 3 .a).announcedAt = some 960000000000 ∧ (path t 3 .a).announcedDelay = some 191900 ∧
     (path t 8 .a).announcedAt = none ∧ (beaconPort t .a).roll = [⟨9, false⟩] ∧ (beaconPort t .a).lastNotice = some 2 ∧
     (beaconPort t .a).seq = 10 ∧ noticeAt t 4 = none ∧ (noticeAt t 2).map (·.wait) = some ⟨2, 2⟩ ∧
     (noticeAt t 1).map (·.carried) = some ⟨false, false⟩ ∧
     t.xch.staging.map (·.body) = [.noticeDone 4 .once ⟨true, false⟩ .portDown]) := by decide +kernel

/-- R76: the checks and clamps of a configuration group, its zero defaults, and kind 4 and association 5. -/
def group (kind ports age assoc : Byte) (tol : List Byte) : List Byte :=
  [2, 0, 0, 0, 0, 1, kind, ports, 7, assoc, age, 0, 0, 0, 0, 0] ++ tol ++ [1, 0, 0, 0] ++ zeros 24
theorem test_config_checks :
    (parseConfig (group 3 3 64 4 [0x40, 0x42, 0x0F, 0])).map (fun c => (c.1.offsetTol, c.1.capture, c.2)) =
      some (1000000, none, false) ∧
    (parseConfig (group 0 1 0 3 (zeros 4))).map (fun c => (c.1.offsetTol, c.1.announceAge, c.1.path.a.gate, c.2)) =
      some (1, 8, 200, true) ∧
    parseConfig (group 4 1 1 0 (zeros 4)) = none ∧ parseConfig (group 0 0 1 0 (zeros 4)) = none ∧
    parseConfig (group 0 1 1 5 (zeros 4)) = none ∧ parseConfig (1 :: group 0 1 1 0 (zeros 4)) = none := by decide +kernel

/-- ReconfigActsFieldByField: new settings of a VALID path, which the client then waits to announce. -/
theorem test_reconfigured :
    (let t := after (.reconfig src 3 (sameStores 3)) (modPath 3 .a (fun q => { q with accepted := 6 }) peopled)
     (path t 3 .a).state = .seeding ∧ (path t 3 .a).accepted = 6 ∧ (beaconPort t .a).roll = [⟨3, false⟩] ∧
     (client t 3).state = .admitted) := by decide +kernel

/-- PulseEdgesDrivenOnce: the edges of each mode, and a pulse placed at the nearest position. -/
theorem test_edge_sets :
    [(⟨.second, false, false, 8, 1000, 100, 0, 0, 0⟩ : Schedule), ⟨.mark, false, false, 8, 1000, 100, 0, 0, 0⟩,
      ⟨.train, false, false, 1008, 1000, 100, 0, 0, 0⟩, ⟨.single, false, false, 0, 1000, 100, 0, 0, 60000000008⟩,
      ⟨.off, false, false, 8, 1000, 100, 0, 0, 60000000008⟩].map (fun sc => (isRising sc 60000000008, isRising sc 60000001008)) =
      [(true, false), (true, false), (true, true), (true, false), (false, false)] ∧
    (channel (after (.pulseRisingEdge 7 60000000008) (pulsing .second 0 none)) 7).placed = some 8 ∧
    placedAt { Timebase.reset with time := ⟨0, 3, 2147483648⟩ } 8 = 5 ∧
    placedAt { Timebase.reset with time := ⟨0, 3, 2147483648⟩ } 4 = 1 := by decide +kernel

/-- R185: the 64th record is staged with the loss mark, and one more is lost. -/
def stagedWith (n : Nat) : State :=
  { worsening with xch := { worsening.xch with
      lossMark := true, lost := 4294967295, staging := List.replicate n ⟨.gateOpened 1 1, false, 0, 0⟩ } }
theorem test_gate_staging :
    (stagedWith 63).pou.gateOpen = true ∧
    (after .inhibitAssert (stagedWith 63)).xch.staging.drop 63 = [⟨.gateClosed .inhibit 2 2 true [7], true, 0, 999999992⟩] ∧
    (after .inhibitAssert (stagedWith 63)).xch.lossMark = false ∧
    (after .inhibitAssert (stagedWith 64)).xch.staging.length = 64 ∧ (after .inhibitAssert (stagedWith 64)).xch.lost = 0 ∧
    (after .inhibitAssert (stagedWith 64)).xch.lossMark = true := by decide +kernel

/-- R160: an input switched on, off, kept on with its candidate reached and not, and kept off. -/
def setup (e : Byte) (width : BitVec 32) : CaptureSetupP := ⟨1, e, 0, 0xFFFF, width, 0⟩
def setUp (f : CaptureIn → CaptureIn) (e : Byte) (width : BitVec 32) : CaptureIn :=
  captureIn (after (.captureSetup src (setup e width)) (modCapture 1 f (capturing 960000000128 none))) 1
theorem test_setup_transitions :
    (setUp id 1 100000).candidate = some ⟨959999990000, true, 960001590000⟩ ∧ (setUp id 1 100).candidate = none ∧
    (setUp id 1 100).latest = some ⟨959999990000, true⟩ ∧ (setUp id 1 100).unjudged = none ∧
    (setUp id 2 100).settled = true ∧ (setUp id 2 100).unjudged = some .setup ∧
    (setUp (fun c => { c with latest := some ⟨7, true⟩ }) 0 100).latest = some ⟨7, true⟩ ∧
    (setUp (fun c => { c with edge := .off, latest := some ⟨7, true⟩, line := true }) 1 100).latest = none ∧
    (setUp (fun c => { c with edge := .off, latest := some ⟨7, true⟩, line := true }) 1 100).settled = true ∧
    (setUp (fun c => { c with edge := .off, latest := some ⟨7, true⟩ }) 0 100).latest = some ⟨7, true⟩ := by decide +kernel

/-- R175, R177, R178: held orders handed again once the header is read: one refused before its read, and one read anew. -/
theorem test_handed_again :
    (let s := holding ⟨9, 5⟩ (.admitClient 255) (holding ⟨2, 4⟩ (.reconfig 256) starting)
     let t := after (.headerRead header) s
     firstRefusal s (.reconfig 256) = some .badField ∧ firstRefusal s (.admitClient 255) = none ∧
     (storeEntry t 2).map (·.status) = some (.completed .badField [] false) ∧ t.xch.access = some (.readConfig 9) ∧
     t.xch.sweep = some (.retry 10) ∧
     (let u := after (.accessEnd (groupStores 255)) t
      (client u 255).state = .admitted ∧ u.xch.access = some (.complete 2) ∧ u.xch.timer = some 125000)) := by decide +kernel

/-- R180, R186, R187: the accesses that follow: a full journal, one with room, and the threshold met. -/
def journaling (produced consumed threshold : Nat) : State :=
  modXch (fun x => { x with
    produced := produced, consumed := some consumed, threshold := some threshold, capacity := some 64 })
    (stage (.gateOpened 5 6) (accessing .headerHost (.journal 1)))
def hostStore (consumed threshold : Byte) : HostWrites := storesAt 0 0x0C [consumed, 0, 0, 0, threshold]
theorem test_sweep_goes_on :
    (after (.accessEnd (hostStore 1 64)) (journaling 64 0 1)).xch.access = some .journal ∧
    (after (.accessEnd (hostStore 0 64)) (journaling 64 0 1)).xch.access = some .headerPart ∧
    (after (.accessEnd (hostStore 0 64)) (journaling 64 0 1)).xch.causes.journal = true ∧
    (after (.accessEnd []) (modXch (fun x => { x with access := some .journal, sweep := some (.journal 0) })
      (journaling 4 0 6))).xch.causes.journal = false ∧
    (after (.accessEnd []) (modXch (fun x => { x with access := some .journal, sweep := some (.journal 0) })
      (journaling 4 0 5))).xch.causes.journal = true ∧
    (after (.accessEnd []) (modCrs (fun r => { r with queue := [3, 4] })
      (accessing (.publish 2 .even []) (.clients 1)))).xch.access = some (.publish 3 .odd (measureFields relay)) ∧
    (after (.accessEnd []) (modCrs (fun r => { r with queue := [3, 4] })
      (accessing (.publish 2 .even []) (.clients 0)))).xch.access = some .headerHost := by decide +kernel

/-- Ch. 11.5: the measurement group of the client of the tests. -/
theorem test_measurement_group : (measureFields relay).length = 76 ∧ (measureFields relay).take 1 = [2] ∧
    ((measureFields relay).drop 36).take 8 = [2, 1, 4, 1, 0x9C, 0xED, 2, 0] := by decide +kernel

/-- BoundaryMovesDeviceTime: the tick after a boundary takes up a slew (the worked one of ch. 1.3), and none after a step. -/
theorem test_increment_after_boundary :
    (let t := after (.secondBoundary []) (modTbs (fun t => { t with phi := 640, slew := slewEnd.slew }) edge)
     t.tbs.tickInc = 34352866421 ∧ t.tbs.slew = ⟨-17474574, -687, 0⟩) ∧
    (let t := after (.secondBoundary []) (modTbs (fun t => { t with phi := 640, slew := slewEnd.slew }) stepping)
     t.tbs.tickInc = 34359738368 + 86 ∧ t.tbs.slew.remaining = 0) := by decide +kernel

/-- StepReachesBlocks: a FOLLOWING client at a step, and one whose path becomes LOST there, by both orders of the blocks. -/
def steppingClient (debt : Nat) : State :=
  modClient 3 (fun _ => { relay with paths := ⟨{ relay.paths.a with debt := debt }, Path.idle⟩ }) stepping
def clientRecord (prev new : ClientState) (cause : ClientCause) (ov pv : Verdict) (pa : PathState) : JournalBody :=
  .clientState 3 0x02000000000A prev new cause ov pv pa .idle
theorem test_client_at_step :
    (let t := after (.secondBoundary []) (steppingClient 1)
     (client t 3).state = .reverify ∧ (beaconPort t .a).roll = [⟨3, false⟩] ∧ 3 ∈ t.crs.queue ∧
     t.xch.staging.map (·.body) =
       [.stepApplied (.host 0) 1 80000000000, clientRecord .following .reverify .step .none .none .valid]) ∧
    (let t := after (.secondBoundary [.crs, .rng]) (steppingClient 8)
     (client t 3).state = .silent ∧ (t.xch.staging.map (·.body)).filter (fun b => b matches .clientState ..) =
       [clientRecord .following .reverify .step .none .none .valid, clientRecord .reverify .silent .path .none .none .lost]) ∧
    (let t := after (.secondBoundary [.rng, .crs]) (steppingClient 8)
     (client t 3).state = .silent ∧ (t.xch.staging.map (·.body)).filter (fun b => b matches .clientState ..) =
       [clientRecord .following .silent .path .none .none .lost]) := by decide +kernel

/-- StepReachesBlocks: four launches in the window, moved by the step with device time, keep the window closed. -/
theorem test_window_at_step :
    (let t := after (.secondBoundary []) (modRange .a (fun r => { r with history := [15999000000, 15999000001, 15999000002, 15999000003] })
      (modLink .a (fun l => { l with state := .up }) (steppingClient 1)))
     (rangePort t .a).windowAt = some (95999000000 + 16000000) ∧ (link t .a).rangeReq = false) := by decide +kernel

/-- MatchedEchoOutcomes: an Echo that makes a path VALID, one that clears REVERIFY, and one that changes the verdict. -/
def echoClient (f : Client → Client) : State := after (.frameReceived .a echoFrame) (modClient 3 f echoState)
theorem test_echo_causes :
    (let t := echoClient (fun c => { c with state := .admitted, paths := ⟨{ c.paths.a with state := .seeding, seeds := 3 }, c.paths.b⟩ })
     (client t 3).state = .following ∧ (t.xch.staging.map (·.body)).drop 1 =
       [clientRecord .admitted .following .path .none .none .valid] ∧ (beaconPort t .a).roll = [⟨3, false⟩]) ∧
    (let t := echoClient (fun c => { c with state := .reverify, reverify := true })
     t.xch.staging.map (·.body) = [clientRecord .reverify .following .echo .none .none .valid]) ∧
    (let t := echoClient (fun c => { c with config := { c.config with offsetTol := 1 }, offsetV := ⟨.pass, 0, 2⟩ })
     t.xch.staging.map (·.body) = [clientRecord .following .astray .verdict .fail .none .valid] ∧
     (beaconPort t .a).roll = [⟨3, false⟩]) := by decide +kernel

/-- BoundaryGrowsDebt: the only path of a FOLLOWING client becomes LOST. -/
theorem test_client_silent :
    (let t := after (.secondBoundary []) (eve 8 (some 16000000000))
     (client t 3).state = .silent ∧ (beaconPort t .a).roll = [⟨3, false⟩] ∧ (t.xch.staging.map (·.body)).take 2 =
       [.pathLost 3 .a 0x02000000000A (some 191900) 0 0 0, clientRecord .following .silent .path .none .none .lost]) := by
  decide +kernel

/-- CapturesJudged: the third capture beyond the tolerance makes the client ASTRAY. -/
theorem test_capture_astray :
    (let t := after (.captureConfirmation 1) (modClient 3 (fun c => { c with pulseV := ⟨.pass, 0, 2⟩ }) (capturing 960000000128 (some 3)))
     (client t 3).state = .astray ∧ (client t 3).pulseV = ⟨.fail, 0, 3⟩ ∧ (beaconPort t .a).roll = [⟨3, false⟩] ∧
     t.xch.staging.map (·.body) = [.capture 1 true 959999990000 none 1 .beyond (some (-10000)),
       clientRecord .following .astray .verdict .none .fail .valid]) := by decide +kernel

/-- AcceptedMarkQualifies: the records of a first pulse, of the fourth good second and of the third other mark. -/
def judging (q : Qual) (good bad : Nat) (msgs : List RefMsg) : State :=
  after (.refPulseFall .a start) (refAt (fun r => { r with
    qual := q, goodRun := good, nonGoodRun := bad, pulse := some ⟨1600000000000 - 16000, 1603200000000⟩, fifo := msgs
    counters := { r.counters with bad := 3 } }))
theorem test_ref_state_records :
    (judging .absent 0 0 []).xch.staging.map (·.body) = [.refState .a .absent .qualifying .pulse ⟨3, 0, 0, 0, 0⟩] ∧
    ((judging .qualifying 3 0 [⟨100, .locked, 25, 0, .none, 1590000000000⟩]).xch.staging.map (·.body)).take 2 =
      [.refState .a .qualifying .qualified .goodRun ⟨3, 0, 0, 0, 0⟩, .refChange none (some .a) .auto .qualification] ∧
    (judging .qualified 0 2 [⟨99, .locked, 25, 0, .none, 1580000000000⟩]).xch.staging.map (·.body) =
      [.refState .a .qualified .qualifying .nonGoodRun ⟨3, 0, 1, 0, 0⟩] ∧
    (judging .qualifying 2 0 []).xch.staging = [] := by decide +kernel

/-- RefSetupWritesSettings: enable, disable of a forced input, a changed baud rate and a changed preference. -/
def refSetup (enable baud pref : Byte) (s : State) : State := after (.refSetup src ⟨0, enable, baud, pref, 1000, 50, 0⟩) s
theorem test_ref_setup_effects :
    (let t := refSetup 1 0 0 (refAt (fun r => { r with interval := some 5, labelMem := some 6, goodRun := 1 }))
     refIn t .a = { refIn State.reset .a with settings := ⟨true, .b9600, 1000, 50, 0⟩, qual := .absent } ∧
     t.xch.staging.map (·.body) = [.refState .a .disabled .absent .enable ⟨0, 0, 0, 0, 0⟩]) ∧
    (let t := refSetup 0 0 0 (modRef .a (fun r => { r with fifo := [⟨1, .locked, 2, 3, .none, 4⟩], stuckEpisode := true })
       (losing (.force .a) .qualified []))
     (refIn t .a).qual = .disabled ∧ (refIn t .a).fifo = [] ∧ (refIn t .a).lossAt = none ∧ (refIn t .a).stuckEpisode = false ∧
     t.rfi.mode = .auto ∧ t.rfi.active = some .b ∧ t.xch.staging.map (·.body) =
       [.refState .a .qualified .disabled .disable ⟨0, 0, 0, 0, 0⟩, .refChange (some .a) (some .b) .auto .forceLost]) ∧
    (refIn (refSetup 1 1 0 (refAt (fun r => { r with qual := .absent, assembly := some ⟨[0xA7], 0⟩ }))) .a).assembly = none ∧
    (refIn (refSetup 1 0 0 (refAt (fun r => { r with qual := .absent, assembly := some ⟨[0xA7], 0⟩ }))) .a).assembly ≠ none ∧
    (let t := refSetup 1 0 1 (losing .auto .qualified [])
     t.rfi.active = some .a ∧ t.xch.staging = []) ∧
    (let t := refSetup 1 0 1 (modRfi (fun r => { r with active := none }) (losing .auto .qualified []))
     t.rfi.active = some .b ∧ t.xch.staging.map (·.body) = [.refChange none (some .b) .auto .preference]) := by decide +kernel

/-- BoundaryEvaluatesClass: HOLDOVER reaches its limit. -/
theorem test_holdover_limit :
    (let t := after (.secondBoundary []) (modDsv (fun d => { d with holdSeconds := 86399, labelCount := 4, gatedCount := 5 }) drifting)
     t.dsv.state = .freerun ∧ t.dsv.cls = 7 ∧ t.xch.staging.map (·.body) =
       [.servoState .holdover .freerun .limit 0 278 4 5, .classChange 1 7 .freerun 278]) := by decide +kernel

/-- PortSetupWritesSettings: the order brings a port with a client in debt UP. -/
theorem test_port_comes_up :
    (let t := after (.portSetup src ⟨0, 1, 1, 8, 3, 0x88B5, 0x020000000001⟩)
       (modTbs (fun t => { t with time := ⟨60, 1, 0⟩ }) (modLink .a (fun l => { l with state := .disabled }) peopled))
     (link t .a).state = .up ∧ (beaconPort t .a).next = some 962000000000 ∧ (link t .a).rangeReq = true) := by decide +kernel

end Sys2Proof.Tests
end

/-! Device time between two steps (R16), and UTC-SETUP (R14). Only ticks move device time: one lemma per operation that writes
the Timebase says that it leaves the clock alone, and from these each command's part in a run follows. -/

namespace Sys2Proof.Machine

/-! ## What leaves device time alone -/

/-- Device time and the increment of the tick in progress: the part of the Timebase that only ticks move (R1, R5). -/
def Timebase.clock (tb : Timebase) : DeviceTime × Nat := (tb.time, tb.tickInc)

@[simp] theorem forEach_clock {α : Type} (xs : List α) (f : α → State → State) (s : State)
    (h : ∀ x s, (f x s).tbs.clock = s.tbs.clock) : (forEach xs f s).tbs.clock = s.tbs.clock := by
  induction xs generalizing s with
  | nil => rfl
  | cons y ys ih => exact (ih (f y s)).trans (h y s)

@[simp] theorem handOver_clock (src : OrderSrc) (o : Order) {owner : Nat → State → State} (s : State)
    (h : ∀ n s, (owner n s).tbs.clock = s.tbs.clock) : (handOver src o owner s).tbs.clock = s.tbs.clock := by
  unfold handOver; split
  · rw [h]; simp
  · rfl

/-! ### Timebase orders -/

@[simp] theorem postServoStep_clock (delta : Int) (s : State) : (postServoStep delta s).tbs.clock = s.tbs.clock := by
  unfold postServoStep; split <;> simp [Timebase.clock]

@[simp] theorem orderStep_clock (p : StepP) (slot : Nat) (s : State) : (orderStep p slot s).tbs.clock = s.tbs.clock := by
  simp only [orderStep]; (repeat' split) <;> simp [Timebase.clock]

@[simp] theorem orderUtcSetup_clock (p : UtcSetupP) (slot : Nat) (s : State) :
    (orderUtcSetup p slot s).tbs.clock = s.tbs.clock := by
  unfold orderUtcSetup; (repeat' split) <;> simp [Timebase.clock]

@[simp] theorem stepApplied_clock (r : Report) (s : State) : (stepApplied r s).tbs.clock = s.tbs.clock := by
  unfold stepApplied; (repeat' split) <;> simp [Timebase.clock]

@[simp] theorem applyLeap_clock (s : State) : (applyLeap s).tbs.clock = s.tbs.clock := by
  unfold applyLeap; (repeat' split) <;> simp [Timebase.clock]

@[simp] theorem tbsBoundary_clock (r : Report) (s : State) : (tbsBoundary r s).tbs.clock = s.tbs.clock := by
  simp [tbsBoundary]

/-! ### Discipline Servo: Φ and σ are written, and act from the next tick's start (R3, R4) -/

@[simp] theorem correct_clock (e : Int) (kp ki : Nat) (s : State) : (correct e kp ki s).tbs.clock = s.tbs.clock := rfl

@[simp] theorem enterServo_clock (new : ServoState) (cause : ServoCause) (s : State) :
    (enterServo new cause s).tbs.clock = s.tbs.clock := by
  simp only [enterServo]; split <;> simp [Timebase.clock]

@[simp] theorem takeNotice_clock (prev new : Option RefInput) (s : State) :
    (takeNotice prev new s).tbs.clock = s.tbs.clock := by
  unfold takeNotice; split <;> simp

@[simp] theorem selectionNotice_clock (prev new : Option RefInput) (s : State) :
    (selectionNotice prev new s).tbs.clock = s.tbs.clock := by
  simp [selectionNotice]

@[simp] theorem servoStep_clock (delta : Int) (s : State) : (servoStep delta s).tbs.clock = s.tbs.clock := by
  simp [servoStep]

@[simp] theorem countLock_clock (e : Int) (s : State) : (countLock e s).tbs.clock = s.tbs.clock := by
  unfold countLock; (repeat' split) <;> simp

@[simp] theorem acquireMark_clock (m : Mark) (s : State) : (acquireMark m s).tbs.clock = s.tbs.clock := by
  simp only [acquireMark]; (repeat' split) <;> simp

@[simp] theorem gateMark_clock (m : Mark) (s : State) : (gateMark m s).tbs.clock = s.tbs.clock := by
  simp only [gateMark]; (repeat' split) <;> simp

@[simp] theorem trackMark_clock (m : Mark) (s : State) : (trackMark m s).tbs.clock = s.tbs.clock := by
  simp only [trackMark]; (repeat' split) <;> simp

@[simp] theorem handleMark_clock (m : Mark) (s : State) : (handleMark m s).tbs.clock = s.tbs.clock := by
  unfold handleMark; split <;> simp

@[simp] theorem dsvBoundary_clock (s : State) : (dsvBoundary s).tbs.clock = s.tbs.clock := by
  simp only [dsvBoundary]; (repeat' split) <;> simp

/-! ### Reference Intake -/

@[simp] theorem applySelection_clock (mode : SelMode) (active : Option RefInput) (cause : RefChangeCause) (s : State) :
    (applySelection mode active cause s).tbs.clock = s.tbs.clock := by
  simp only [applySelection]; (repeat' split) <;> simp

@[simp] theorem reselect_clock (cause : RefChangeCause) (s : State) : (reselect cause s).tbs.clock = s.tbs.clock := by
  unfold reselect; (repeat' split) <;> simp

@[simp] theorem reselectIfChanged_clock (i : RefInput) (was : Bool) (s : State) :
    (reselectIfChanged i was s).tbs.clock = s.tbs.clock := by
  unfold reselectIfChanged; split <;> simp

@[simp] theorem handOn_clock (i : RefInput) (rise : Nat) (cls : WidthClass) (msg : Option RefMsg) (s : State) :
    (handOn i rise cls msg s).tbs.clock = s.tbs.clock := by
  unfold handOn; (repeat' split) <;> simp

@[simp] theorem acceptMark_clock (i : RefInput) (rise : Nat) (cls : WidthClass) (msg : Option RefMsg) (s : State) :
    (acceptMark i rise cls msg s).tbs.clock = s.tbs.clock := by
  simp [acceptMark]

@[simp] theorem classifiedPulse_clock (i : RefInput) (rise : Nat) (cls : WidthClass) (s : State) :
    (classifiedPulse i rise cls s).tbs.clock = s.tbs.clock := by
  simp only [classifiedPulse]; split <;> simp

@[simp] theorem endPulse_clock (i : RefInput) (p : RefPulse) (fall : Nat) (s : State) :
    (endPulse i p fall s).tbs.clock = s.tbs.clock := by
  simp only [endPulse]; (repeat' split) <;> simp

@[simp] theorem pulseFall_clock (i : RefInput) (at_ : Instant) (s : State) :
    (pulseFall i at_ s).tbs.clock = s.tbs.clock := by
  unfold pulseFall; split <;> simp

@[simp] theorem orderSetRef_clock (mode : Byte) (slot : Nat) (s : State) :
    (orderSetRef mode slot s).tbs.clock = s.tbs.clock := by
  simp only [orderSetRef]; (repeat' split) <;> simp

@[simp] theorem refEnableEffect_clock (i : RefInput) (enable baudChanged : Bool) (s : State) :
    (refEnableEffect i enable baudChanged s).tbs.clock = s.tbs.clock := by
  unfold refEnableEffect; (repeat' split) <;> simp

@[simp] theorem orderRefSetup_clock (p : RefSetupP) (slot : Nat) (s : State) :
    (orderRefSetup p slot s).tbs.clock = s.tbs.clock := by
  simp only [orderRefSetup]; (repeat' split) <;> simp

/-! ### Exchange Controller -/

@[simp] theorem withdrawStep_clock (slot : Nat) (s : State) : (withdrawStep slot s).tbs.clock = s.tbs.clock := rfl

/-- R184: withdrawing an order leaves device time alone. -/
theorem withdraw_clock {o : Order} {slot : Nat} {s t : State} (h : withdraw o slot s = some t) :
    t.tbs.clock = s.tbs.clock := by
  unfold withdraw at h; split at h <;> simp at h <;> subst h <;> simp

@[simp] theorem cancelEntry_clock (e : StoreEntry) (target slot : Nat) (s : State) :
    (cancelEntry e target slot s).tbs.clock = s.tbs.clock := by
  unfold cancelEntry
  split
  · simp
  · split
    · simp
    next s1 h => simp [withdraw_clock h]

@[simp] theorem orderCancel_clock (target : Byte) (cookie : BitVec 16) (slot : Nat) (s : State) :
    (orderCancel target cookie slot s).tbs.clock = s.tbs.clock := by
  unfold orderCancel; (repeat' split) <;> simp

@[simp] theorem handOrder_clock (o : Order) (slot : Nat) (s : State) : (handOrder o slot s).tbs.clock = s.tbs.clock := by
  unfold handOrder; (repeat' split) <;> simp

@[simp] theorem goRetry_clock (fuel k : Nat) (s : State) : (goRetry fuel k s).tbs.clock = s.tbs.clock := by
  induction fuel generalizing k s with
  | zero => simp [goRetry]
  | succ n ih => simp only [goRetry]; (repeat' split) <;> simp [ih]

@[simp] theorem goOn_clock (s : State) : (goOn s).tbs.clock = s.tbs.clock := by
  unfold goOn; split <;> simp

@[simp] theorem slotTakenEnd_clock (n : Nat) (s : State) : (slotTakenEnd n s).tbs.clock = s.tbs.clock := by
  simp [slotTakenEnd]

@[simp] theorem endAccess_clock (a : Access) (s : State) : (endAccess a s).tbs.clock = s.tbs.clock := by
  unfold endAccess; split <;> simp

@[simp] theorem afterAccess_clock (s : State) : (afterAccess s).tbs.clock = s.tbs.clock := by
  unfold afterAccess; split <;> simp

@[simp] theorem accessEnd_clock (s : State) : (accessEnd s).tbs.clock = s.tbs.clock := by
  unfold accessEnd; split <;> simp

@[simp] theorem headerRead_clock (s : State) : (headerRead s).tbs.clock = s.tbs.clock := by
  simp only [headerRead]; (repeat' split) <;> simp

@[simp] theorem abandonStep_clock (tb : Timebase) : (abandonStep tb).clock = tb.clock := by
  unfold abandonStep; split <;> rfl

@[simp] theorem exchangeReset_clock (s : State) : (exchangeReset s).tbs.clock = s.tbs.clock := by
  simp [exchangeReset]

/-! ### A second boundary, once device time has moved -/

theorem blockBoundary_clock (r : Report) (b : Block) (s : State) : (blockBoundary r b s).tbs.clock = s.tbs.clock := by
  cases b <;> simp only [blockBoundary]
  case rfi => split <;> simp
  all_goals simp

/-- R6: at a boundary where no step is due, device time moves as in any other tick. -/
theorem boundaryTick_clock {tb : Timebase} (hd : tb.stepDue = false) : tb.boundaryTick.clock = tb.plainTick.clock := by
  simp [Timebase.boundaryTick, Timebase.dueDelta, hd, Timebase.clock]

theorem boundary_clock (named : List Block) {s : State} (hd : s.tbs.stepDue = false) :
    (boundary named s).tbs.clock = s.tbs.plainTick.clock := by
  simp [boundary, blockBoundary_clock, boundaryTick_clock hd]

/-! ## What each command does to device time -/

/-- A command that ends no tick and is no full reset leaves device time and the increment of the tick in progress alone: only
ticks move them. -/
theorem exec_clock {c : Instr} {s t : State} (hr : ∀ landed, c ≠ .fullReset landed) (h0 : ticksBy c s = 0)
    (he : exec c s = .next t) : t.tbs.clock = s.tbs.clock := by
  cases c
  case fullReset landed => exact absurd rfl (hr landed)
  case oscillatorTick => simp [ticksBy] at h0
  case secondBoundary blocks =>
    have hb : s.tbs.atBoundary = false := by simpa [ticksBy] using h0
    obtain rfl : s = t := by simpa [exec, execSecondBoundary, hb] using he
    rfl
  -- Every other command is one call of an operation that has its clock lemma above, or leaves the Timebase alone.
  all_goals
    obtain rfl := Host.Outcome.next.inj he
    (repeat' split) <;> simp

/-- A command ends a tick only as OSCILLATOR_TICK or as a SECOND_BOUNDARY that is due. -/
theorem ticksBy_eq_one_iff {c : Instr} {s : State} :
    ticksBy c s = 1 ↔ c = .oscillatorTick ∨ ∃ blocks, c = .secondBoundary blocks ∧ s.tbs.atBoundary = true := by
  cases c <;> simp [ticksBy]

theorem ticksBy_le_one (c : Instr) (s : State) : ticksBy c s ≤ 1 := by
  unfold ticksBy; (repeat' split) <;> simp

/-- R1: a command that ends a tick at which no step is due moves device time by the increment of that tick. -/
theorem exec_clock_of_tick {c : Instr} {s t : State} (h1 : ticksBy c s = 1) (hd : s.tbs.stepDue = false)
    (he : exec c s = .next t) : t.tbs.clock = s.tbs.plainTick.clock := by
  obtain rfl | ⟨blocks, rfl, hb⟩ := ticksBy_eq_one_iff.mp h1
  · obtain rfl := Host.Outcome.next.inj he
    split
    · exact boundary_clock [] hd
    · simp
  · obtain rfl := Host.Outcome.next.inj he
    rw [if_pos hb]
    exact boundary_clock blocks hd

/-! ## A run between two steps -/

/-- Seconds of device time and the increment of the tick in progress are in range (ch. 1.1, R5). -/
def ClockOk (clock : DeviceTime × Nat) : Prop :=
  clock.1.sec < secSpan ∧ minInc ≤ (clock.2 : Int) ∧ (clock.2 : Int) ≤ maxInc

theorem TimeOk.clockOk {s : State} (h : TimeOk s) : ClockOk s.tbs.clock := by
  obtain ⟨hsec, -, -, hmin, hmax, -⟩ := h
  exact ⟨hsec, hmin, hmax⟩

/-- Device time has gone from `a` to `b` in `n` ticks, each of an increment within R5's limits, with some returns to 0. -/
def AdvancedBy (n : Nat) (a b : DeviceTime) : Prop :=
  ∃ wraps : Nat, n * minInc ≤ (b.units : Int) + wraps * (secSpan * unitsPerSec : Nat) - a.units ∧
    (b.units : Int) + wraps * (secSpan * unitsPerSec : Nat) - a.units ≤ n * maxInc

theorem AdvancedBy.refl (a : DeviceTime) : AdvancedBy 0 a a := ⟨0, by simp, by simp⟩

theorem AdvancedBy.trans {m n : Nat} {a b c : DeviceTime} (hab : AdvancedBy m a b) (hbc : AdvancedBy n b c) :
    AdvancedBy (m + n) a c := by
  obtain ⟨v, hv, hv'⟩ := hab
  obtain ⟨w, hw, hw'⟩ := hbc
  refine ⟨v + w, ?_, ?_⟩ <;> push_cast [add_mul] at * <;> linarith

/-- R1, R5: one tick. -/
theorem advance_advancedBy {t : DeviceTime} {inc : Nat} (h : ClockOk (t, inc)) : AdvancedBy 1 t (t.advance inc) := by
  obtain ⟨hsec, hmin, hmax⟩ := h
  obtain e | e := advance_units (inc := inc) hsec
  · exact ⟨0, by rw [e]; push_cast; linarith, by rw [e]; push_cast; linarith⟩
  · have e' : ((t.advance inc).units : Int) + (secSpan * unitsPerSec : Nat) = t.units + inc := by exact_mod_cast e
    exact ⟨1, by push_cast at *; linarith, by push_cast at *; linarith⟩

/-- R1: seconds past 2^48 − 1 become 0. -/
theorem advance_sec_lt {t : DeviceTime} (inc : Nat) (h : t.sec < secSpan) : (t.advance inc).sec < secSpan := by
  unfold DeviceTime.advance
  split
  · simp only; split <;> omega
  · exact h

theorem plainTick_clockOk {tb : Timebase} (h : ClockOk tb.clock) : ClockOk tb.plainTick.clock :=
  ⟨advance_sec_lt tb.tickInc h.1, beginTick_range _⟩

/-- A command of a run between two steps advances device time by the ticks it ends. -/
theorem exec_advancedBy {c : Instr} {s t : State} (hs : ClockOk s.tbs.clock) (hr : ∀ landed, c ≠ .fullReset landed)
    (hd : ticksBy c s = 1 → s.tbs.stepDue = false) (he : exec c s = .next t) :
    AdvancedBy (ticksBy c s) s.tbs.time t.tbs.time ∧ ClockOk t.tbs.clock := by
  obtain h0 | h1 : ticksBy c s = 0 ∨ ticksBy c s = 1 := by have := ticksBy_le_one c s; omega
  · have e := exec_clock hr h0 he
    have et : t.tbs.time = s.tbs.time := congrArg Prod.fst e
    rw [h0, et, e]
    exact ⟨.refl _, hs⟩
  · have e := exec_clock_of_tick h1 (hd h1) he
    have et : t.tbs.time = s.tbs.time.advance s.tbs.tickInc := congrArg Prod.fst e
    rw [h1, et, e]
    exact ⟨advance_advancedBy hs, plainTick_clockOk hs⟩

/-- The first command of a run between two steps, and the run that follows it. -/
theorem runUnstepped_cons {c : Instr} {cs : List Instr} {s t : State} {n : Nat}
    (h : runUnstepped (c :: cs) s = some (t, n)) :
    (∀ landed, c ≠ .fullReset landed) ∧ (ticksBy c s = 1 → s.tbs.stepDue = false) ∧
      ∃ u m, exec c s = .next u ∧ runUnstepped cs u = some (t, m) ∧ n = ticksBy c s + m := by
  have hr : ∀ landed, c ≠ .fullReset landed := by rintro landed rfl; simp [runUnstepped] at h
  rw [runUnstepped] at h
  · split at h
    · cases h
    next hstep =>
      split at h
      case h_1 u he =>
        obtain ⟨⟨t', m⟩, hrun, heq⟩ := Option.map_eq_some_iff.mp h
        obtain ⟨rfl, rfl⟩ := Prod.mk.inj heq
        exact ⟨hr, fun h1 => by simpa [h1] using hstep, u, m, he, hrun, Nat.add_comm _ _⟩
      case h_2 => cases h
      case h_3 => cases h
  · exact hr

/-- R16: a run between two steps advances device time by the ticks it ends. -/
theorem runUnstepped_advancedBy {cs : List Instr} {s t : State} {n : Nat} (hs : ClockOk s.tbs.clock)
    (h : runUnstepped cs s = some (t, n)) : AdvancedBy n s.tbs.time t.tbs.time := by
  induction cs generalizing s n with
  | nil =>
    obtain ⟨rfl, rfl⟩ : s = t ∧ 0 = n := by simpa [runUnstepped] using h
    exact .refl _
  | cons c cs ih =>
    obtain ⟨hr, hd, u, m, he, hrun, rfl⟩ := runUnstepped_cons h
    obtain ⟨hadv, hu⟩ := exec_advancedBy hs hr hd he
    exact hadv.trans (ih hu hrun)

/-- Settles O17: each of the 125,000,000 ticks adds an increment within R5's limits, and no other command of the run moves
device time. -/
theorem advanceBetweenStepsBounded : Obligations.AdvanceBetweenStepsBounded := by
  intro s t cs hs hrun
  obtain ⟨wraps, hlo, hhi⟩ := runUnstepped_advancedBy hs.clockOk hrun
  refine ⟨wraps, ?_, ?_⟩ <;> norm_num [minInc, maxInc, secSpan, unitsPerSec] at * <;> linarith

/-! ## UTC-SETUP -/

@[simp] theorem abandonStep_utcOffset (tb : Timebase) : (abandonStep tb).utcOffset = tb.utcOffset := by
  unfold abandonStep; split <;> rfl

@[simp] theorem exchangeReset_utcOffset (s : State) : (exchangeReset s).tbs.utcOffset = s.tbs.utcOffset := by
  simp [exchangeReset]

/-- An order taken, given its effect on the Timebase and completed without result data is answered in the changed state. -/
theorem finish_modTbs_take (src : OrderSrc) (o : Order) (r : ResultCode) (f : Timebase → Timebase) (s : State) :
    finish src.slot.val r (modTbs f (takeOrder src.slot.val src.cookie o s)) = answered src o r [] (modTbs f s) :=
  finish_take src o r (modTbs f s)

/-- R13: a leap's direction is the byte of 1 or of −1. -/
theorem direction_toInt (d : Byte) : (d.toInt = 1 ↔ d = 1) ∧ (d.toInt = -1 ↔ d = 255) :=
  ⟨BitVec.toInt_inj (y := 1), BitVec.toInt_inj (y := 255)⟩

/-- R14: the first check of a leap is its direction. -/
theorem leapOf_badField {p : UtcSetupP} (s : State) (hdir : p.direction ≠ 1 ∧ p.direction ≠ 255) :
    leapOf p s = .error .badField := by
  obtain ⟨hins, hdel⟩ := direction_toInt p.direction
  rw [leapOf, if_neg (by simpa [hins, hdel] using hdir)]

/-- R14: a leap of a good direction passes its direction check, and its epoch decides. -/
theorem leapOf_good {p : UtcSetupP} (s : State) (hdir : ¬(p.direction ≠ 1 ∧ p.direction ≠ 255)) :
    leapOf p s = if p.leapEpoch.toNat ≤ s.tbs.time.sec then .error .past
      else .ok { epoch := p.leapEpoch.toNat, insert := p.direction = 1 } := by
  obtain ⟨hins, hdel⟩ := direction_toInt p.direction
  rw [leapOf, if_pos (by simpa [hins, hdel, Decidable.or_iff_not_not_and_not] using hdir)]
  simp only [hins]

/-! ### UTC-SETUP on an order just taken, one lemma per answer -/

theorem orderUtcSetup_offsetWritten {src : OrderSrc} {p : UtcSetupP} {s : State} (hop : p.operation = 0) :
    orderUtcSetup p src.slot.val (takeOrder src.slot.val src.cookie (.utcSetup p) s) =
      answered src (.utcSetup p) .ok [] (modTbs (fun tb => { tb with utcOffset := p.offset.toInt }) s) := by
  simp [orderUtcSetup, hop, finish_modTbs_take]

theorem orderUtcSetup_leapRefused {src : OrderSrc} {p : UtcSetupP} {s : State} {r : ResultCode}
    (hop : p.operation = 1 ∨ p.operation = 2) (hl : leapOf p s = .error r) :
    orderUtcSetup p src.slot.val (takeOrder src.slot.val src.cookie (.utcSetup p) s) = answered src (.utcSetup p) r [] s := by
  have hl' : leapOf p (takeOrder src.slot.val src.cookie (.utcSetup p) s) = .error r := hl
  obtain h | h := hop <;> simp [orderUtcSetup, h, hl', finish_take]

theorem orderUtcSetup_leapSet {src : OrderSrc} {p : UtcSetupP} {s : State} {l : Leap} (hop : p.operation = 1)
    (hl : leapOf p s = .ok l) :
    orderUtcSetup p src.slot.val (takeOrder src.slot.val src.cookie (.utcSetup p) s) =
      answered src (.utcSetup p) .ok [] (modTbs (fun tb => { tb with leap := some l }) s) := by
  have hl' : leapOf p (takeOrder src.slot.val src.cookie (.utcSetup p) s) = .ok l := hl
  simp [orderUtcSetup, hop, hl', finish_modTbs_take]

theorem orderUtcSetup_offsetAndLeapSet {src : OrderSrc} {p : UtcSetupP} {s : State} {l : Leap} (hop : p.operation = 2)
    (hl : leapOf p s = .ok l) :
    orderUtcSetup p src.slot.val (takeOrder src.slot.val src.cookie (.utcSetup p) s) =
      answered src (.utcSetup p) .ok [] (modTbs (fun tb => { tb with utcOffset := p.offset.toInt, leap := some l }) s) := by
  have hl' : leapOf p (takeOrder src.slot.val src.cookie (.utcSetup p) s) = .ok l := hl
  simp [orderUtcSetup, hop, hl', finish_modTbs_take]

theorem orderUtcSetup_leapAbsent {src : OrderSrc} {p : UtcSetupP} {s : State} (hop : p.operation = 3)
    (hl : s.tbs.leap = none) :
    orderUtcSetup p src.slot.val (takeOrder src.slot.val src.cookie (.utcSetup p) s) =
      answered src (.utcSetup p) .empty [] s := by
  simp [orderUtcSetup, hop, hl, finish_take]

theorem orderUtcSetup_leapRemoved {src : OrderSrc} {p : UtcSetupP} {s : State} (hop : p.operation = 3)
    (hl : s.tbs.leap ≠ none) :
    orderUtcSetup p src.slot.val (takeOrder src.slot.val src.cookie (.utcSetup p) s) =
      answered src (.utcSetup p) .ok [] (modTbs (fun tb => { tb with leap := none }) s) := by
  simp [orderUtcSetup, hop, Option.isSome_iff_ne_none, hl, finish_modTbs_take]

theorem orderUtcSetup_unknownOperation {src : OrderSrc} {p : UtcSetupP} {s : State} (h0 : p.operation ≠ 0)
    (h12 : ¬(p.operation = 1 ∨ p.operation = 2)) (h3 : p.operation ≠ 3) :
    orderUtcSetup p src.slot.val (takeOrder src.slot.val src.cookie (.utcSetup p) s) =
      answered src (.utcSetup p) .badField [] s := by
  rw [orderUtcSetup]
  split
  case h_1 h => exact absurd (BitVec.eq_of_toNat_eq h) h0
  case h_2 h => exact absurd (.inl (BitVec.eq_of_toNat_eq h)) h12
  case h_3 h => exact absurd (.inr (BitVec.eq_of_toNat_eq h)) h12
  case h_4 h => exact absurd (BitVec.eq_of_toNat_eq h) h3
  case h_5 => exact finish_take ..

/-- Settles O21, by the branches of the rule: only those that answer OK write the Timebase, and exchange reset writes no
offset. -/
theorem utcSetupWritesOffsetAndLeap : Obligations.UtcSetupWritesOffsetAndLeap := by
  refine ⟨fun s => ⟨_, rfl, ?_⟩, fun s src p hfree => ?_⟩
  · split <;> simp
  · rw [exec, execUtcSetup, handOver_run _ _ hfree]
    congr 1
    simp only [decide_eq_true_eq]
    split_ifs with h0 hdir hpast hop h2 h3 hl
    · exact orderUtcSetup_offsetWritten h0
    · exact orderUtcSetup_leapRefused hdir.1 (leapOf_badField s hdir.2)
    · have hgood := fun h => hdir ⟨hpast.1, h⟩
      exact orderUtcSetup_leapRefused hpast.1 ((leapOf_good s hgood).trans (if_pos hpast.2))
    · have hgood := fun h => hdir ⟨hop, h⟩
      exact orderUtcSetup_offsetAndLeapSet h2 ((leapOf_good s hgood).trans (if_neg fun h => hpast ⟨hop, h⟩))
    · have hgood := fun h => hdir ⟨hop, h⟩
      exact orderUtcSetup_leapSet (hop.resolve_right h2) ((leapOf_good s hgood).trans (if_neg fun h => hpast ⟨hop, h⟩))
    · exact orderUtcSetup_leapAbsent h3 hl
    · exact orderUtcSetup_leapRemoved h3 hl
    · exact orderUtcSetup_unknownOperation h0 hop h3

end Sys2Proof.Machine

/-! The output gate (R155 to R157): its orders and its inhibit input, by what a closing does and what an order just taken
does not disturb. -/

namespace Sys2Proof.Machine

/-! ## A closing -/

/-- R155: a closing of an OPEN gate silences the gated channels and hands on a record of those whose pulse it cuts. -/
theorem closeGate_of_open {cause : GateCause} {s : State} (h : s.pou.gateOpen = true) :
    closeGate cause s = stage (.gateClosed cause s.pou.cls s.pou.floor s.pou.inhibit (cutChannels s))
      { s with pou := { s.pou with
          gateOpen := false
          channels := s.pou.channels.map (fun ch => if ch.active.gated then { ch with fall := none } else ch) } } :=
  if_pos h

theorem closeGate_of_closed {cause : GateCause} {s : State} (h : s.pou.gateOpen = false) : closeGate cause s = s :=
  if_neg (by simp [h])

/-- R155: the channels named in the record of a closing are the gated ones with a pulse in progress. -/
theorem mem_cutChannels {s : State} {c : Nat} :
    c ∈ cutChannels s ↔
      c < s.pou.channels.length ∧ (channel s c).active.gated = true ∧ (channel s c).fall ≠ none := by
  by_cases hc : c < s.pou.channels.length
  · simp [cutChannels, channel, List.mem_zipIdx_iff_getElem?, hc, Option.isSome_iff_ne_none]
  · simp [cutChannels, List.mem_zipIdx_iff_getElem?, hc]

/-- R155, R185: a closing with room in staging hands on its record. -/
theorem closeGate_xch_room {cause : GateCause} {s : State} (h : s.pou.gateOpen = true)
    (hroom : s.xch.staging.length < 64) :
    (closeGate cause s).xch = { s.xch with
      staging := s.xch.staging ++ [{
        body := .gateClosed cause s.pou.cls s.pou.floor s.pou.inhibit (cutChannels s), lossBefore := s.xch.lossMark
        sec := s.tbs.time.sec, ns := s.tbs.time.ns }]
      lossMark := false } := by
  rw [closeGate_of_open h, stage_room]
  · rfl
  · exact hroom

/-- R155, R185: a closing with 64 records staged loses its own. -/
theorem closeGate_xch_full {cause : GateCause} {s : State} (h : s.pou.gateOpen = true)
    (hfull : 64 ≤ s.xch.staging.length) :
    (closeGate cause s).xch = { s.xch with lost := incWrap32 s.xch.lost, lossMark := true } := by
  rw [closeGate_of_open h, stage_full]
  · rfl
  · exact hfull

/-! ## Under an order just taken: the store stands apart from the staging queue and from the gate -/

theorem stage_takeOrder (body : JournalBody) (slot : Nat) (cookie : BitVec 16) (o : Order) (s : State) :
    stage body (takeOrder slot cookie o s) = takeOrder slot cookie o (stage body s) := by
  by_cases h : s.xch.staging.length < 64
  · rw [stage_room body h]; exact stage_room body h
  · rw [stage_full body (Nat.le_of_not_lt h)]; exact stage_full body (Nat.le_of_not_lt h)

theorem closeGate_takeOrder (cause : GateCause) (slot : Nat) (cookie : BitVec 16) (o : Order) (s : State) :
    closeGate cause (takeOrder slot cookie o s) = takeOrder slot cookie o (closeGate cause s) := by
  cases h : s.pou.gateOpen
  · rw [closeGate_of_closed h]; exact closeGate_of_closed h
  · rw [closeGate_of_open h, ← stage_takeOrder]; exact closeGate_of_open h

/-! ## The orders -/

/-- R157: GATE-SETUP on an order just taken. -/
theorem orderGateSetup_take (src : OrderSrc) (o : Order) (floor : Byte) (s : State) :
    let f := clampNat 1 6 floor.toNat
    let held := modPou (fun u => { u with floor := f }) s
    orderGateSetup floor src.slot.val (takeOrder src.slot.val src.cookie o s) =
      answered src o (okOr (f != floor.toNat)) [] (if f < s.pou.cls then closeGate .floor held else held) := by
  intro f held
  have hcommute : modPou (fun u => { u with floor := f }) (takeOrder src.slot.val src.cookie o s) =
      takeOrder src.slot.val src.cookie o held := rfl
  rw [orderGateSetup, hcommute, closeGate_takeOrder, ← apply_ite (takeOrder src.slot.val src.cookie o)]
  exact finish_take ..

/-- R156: GATE-OPEN on an order just taken. -/
theorem orderGateOpen_take (src : OrderSrc) (o : Order) (s : State) :
    orderGateOpen src.slot.val (takeOrder src.slot.val src.cookie o s) =
      if s.pou.floor < s.pou.cls then answered src o .qualityLow [] s
      else if s.pou.inhibit then answered src o .inhibited [] s
      else if s.pou.gateOpen then answered src o .ok [] s
      else answered src o .ok [] (stage (.gateOpened s.pou.cls s.pou.floor)
        (modPou (fun u => { u with gateOpen := true }) s)) := by
  have hcommute : modPou (fun u => { u with gateOpen := true }) (takeOrder src.slot.val src.cookie o s) =
      takeOrder src.slot.val src.cookie o (modPou (fun u => { u with gateOpen := true }) s) := rfl
  rw [orderGateOpen, hcommute, stage_takeOrder]
  simp only [finish_take]
  rfl

/-- R184: only a posted step, a pending schedule and an armed start can be withdrawn; the CANCEL of any other held order is
BAD_FIELD. -/
theorem orderCancel_notCancellable {src : OrderSrc} {target : Byte} {s : State} {e : StoreEntry} (o : Order)
    (hrange : target.toNat ≤ 31) (hne : target.toNat ≠ src.slot.val) (he : storeEntry s target.toNat = some e)
    (hheld : e.status = .held) (hstands : ∀ t, withdraw e.order target.toNat t = none) :
    orderCancel target e.cookie src.slot.val (takeOrder src.slot.val src.cookie o s) = answered src o .badField [] s := by
  have hin : ¬(31 < target.toNat ∨ target.toNat = src.slot.val) := by omega
  rw [orderCancel, if_neg hin, storeEntry_takeOrder_ne _ _ _ hne, he]
  simp [cancelEntry, hheld, hstands, finish_take]

/-! ## The obligation -/

/-- R157: GATE-SETUP, where its slot may be taken. -/
theorem exec_gateSetup {s : State} {src : OrderSrc} (floor : Byte) (hfree : canTake s src.slot.val = true) :
    let f := clampNat 1 6 floor.toNat
    let held := modPou (fun u => { u with floor := f }) s
    exec (.gateSetup src floor) s = .next (answered src (.gateSetup floor) (if f = floor.toNat then .ok else .adjusted) []
      (if f < s.pou.cls ∧ s.pou.gateOpen = true then closeGate .floor held else held)) := by
  intro f held
  have hresult : okOr (f != floor.toNat) = if f = floor.toNat then .ok else .adjusted := by
    by_cases h : f = floor.toNat <;> simp [okOr, h]
  have hclosing : (if f < s.pou.cls then closeGate .floor held else held) =
      if f < s.pou.cls ∧ s.pou.gateOpen = true then closeGate .floor held else held := by
    cases hopen : s.pou.gateOpen
    · simp [closeGate_of_closed (show held.pou.gateOpen = false from hopen)]
    · simp
  rw [exec, execGateSetup, handOver_run _ _ hfree, orderGateSetup_take, hresult, hclosing]

/-- Settles O52, by the closing of the gate: GATE-SETUP and the assertion of the inhibit input are one, of a gate whose floor
or inhibit level is already written. -/
theorem gateOpensAndCloses : Obligations.GateOpensAndCloses := by
  refine ⟨fun body s => ⟨stage_room body, stage_full body⟩, fun s hopen => ?_, fun s src => ⟨?_, ?_, ?_, ?_, rfl⟩⟩
  case refine_1 =>
    have hheld : (modPou (fun u => { u with inhibit := true }) s).pou.gateOpen = true := hopen
    exact ⟨_, cutChannels s, rfl, fun c => mem_cutChannels, closeGate_xch_room hheld, closeGate_xch_full hheld⟩
  case refine_2 =>
    intro floor hfree
    refine (exec_gateSetup floor hfree).trans (congrArg Host.Outcome.next (congrArg (answered src _ _ []) ?_))
    exact ite_congr rfl (fun hcloses => closeGate_of_open (s := modPou _ s) hcloses.2) (fun _ => rfl)
  case refine_3 =>
    intro hfree
    rw [exec, execGateOpen, handOver_run _ _ hfree, orderGateOpen_take]
    rfl
  case refine_4 =>
    rintro target cookie e hfree hrange hne he rfl hheld horder
    rw [exec, execCancel, handOver_run _ _ hfree, orderCancel_notCancellable _ hrange hne he hheld]
    obtain h | ⟨floor, h⟩ := horder <;> simp [h, withdraw]
  case refine_5 => rfl

end Sys2Proof.Machine

/-! One step, the queue of waiting commands and memory (O1 to O4, O6): each command is one call of an operation, and the frame of
that operation says what it leaves. -/

namespace Sys2Proof.Machine

/-! ## The step and the queue -/

/-- Settles O1, by the two shapes of the queue. -/
theorem stepTakesFrontCommand : Obligations.StepTakesFrontCommand := by
  refine fun s => ⟨fun c rest h => ?_, fun h => ?_⟩ <;> rw [step, h]

/-- Every command answers a next state: `exec` has no arm that refuses or faults. -/
theorem exec_answers (c : Instr) (s : State) : ∃ t, exec c s = .next t := by
  cases c <;> exact ⟨_, rfl⟩

/-- Every command leaves the queue of waiting commands alone. -/
theorem exec_pending {c : Instr} {s t : State} (he : exec c s = .next t) : t.pending = s.pending := by
  cases c
  case fullReset landed => obtain rfl := Host.Outcome.next.inj he; rfl
  all_goals
    obtain rfl := Host.Outcome.next.inj he
    (repeat' split) <;> simp

/-- Settles O2. -/
theorem everyCommandAnswersAndKeepsQueue : Obligations.EveryCommandAnswersAndKeepsQueue := by
  intro c s
  obtain ⟨t, he⟩ := exec_answers c s
  exact ⟨t, he, exec_pending he⟩

/-- A step idles or carries out one command, so that a law which no command breaks in any state is kept by every step. -/
theorem step_keeps {P : State → Prop} (hqueue : ∀ s rest, P s → P { s with pending := rest })
    (hexec : ∀ c s t, P s → exec c s = .next t → P t) {s t : State} (hs : P s) (he : step s = .next t) : P t := by
  unfold step at he
  split at he
  · obtain rfl := Host.Outcome.next.inj he; exact hs
  · exact hexec _ _ t (hqueue s _ hs) he

/-! ## Memory -/

theorem Memory.writeAll_append (xs ys : List Host.Cell) (m : Memory) :
    Memory.writeAll (xs ++ ys) m = Memory.writeAll ys (Memory.writeAll xs m) := List.foldl_append

/-- R173: what the end of an access stores. -/
theorem endAccess_mem (a : Access) (s : State) : (endAccess a s).mem = Memory.writeAll (accessStores a s) s.mem := by
  cases a
  case publish n part fields => cases part <;> simp [endAccess, endPublish]
  all_goals simp [endAccess, slotTakenEnd, accessStores, Memory.writeAll]

/-- What an access stores rests neither on memory nor on the access in progress. -/
theorem accessStores_clearAccess (a : Access) (s : State) : accessStores a (clearAccess s) = accessStores a s := by
  cases a <;> rfl

theorem pendingStores_modMem (f : Memory → Memory) (s : State) : pendingStores (modMem f s) = pendingStores s := by
  unfold pendingStores accessStores
  repeat' split
  all_goals simp_all [completionStores, publishStores, journalStores, headerWords, storeEntry, client, now]

theorem afterAccess_mem (s : State) : (afterAccess s).mem = s.mem := by
  unfold afterAccess; split <;> simp

theorem accessEnd_mem (s : State) : (accessEnd s).mem = Memory.writeAll (pendingStores s) s.mem := by
  unfold accessEnd pendingStores
  split
  next h => simp [h, Memory.writeAll]
  next h => simp [h, Memory.writeAll, accessStores]
  next a _ h => rw [afterAccess_mem, endAccess_mem, accessStores_clearAccess]; simp [h]

theorem busError_mem (landed : Nat) (s : State) :
    (busError landed s).mem = Memory.writeAll ((cutStores s).take landed) s.mem := by
  unfold busError
  split
  next h => simp [cutStores, h, Memory.writeAll]
  next => simp

/-- R173: after a command memory is what the host's stores and those of the access in progress make of it. -/
theorem exec_mem {c : Instr} {s t : State} (he : exec c s = .next t) :
    t.mem = Memory.writeAll (hostStores c ++ partStores c s) s.mem := by
  cases c
  case fullReset landed => obtain rfl := Host.Outcome.next.inj he; rfl
  case accessEnd host =>
    obtain rfl := Host.Outcome.next.inj he
    rw [accessEnd_mem, pendingStores_modMem, Memory.writeAll_append]; rfl
  case busError landed => obtain rfl := Host.Outcome.next.inj he; exact busError_mem landed s
  all_goals
    obtain rfl := Host.Outcome.next.inj he
    (repeat' split) <;> simp [hostStores, partStores, Memory.writeAll]

/-- Settles O3. -/
theorem memoryChangesByStoresOnly : Obligations.MemoryChangesByStoresOnly := by
  intro c s
  obtain ⟨t, he⟩ := exec_answers c s
  refine ⟨t, he, exec_mem he, fun hs a hne => ?_⟩
  rw [exec_mem he]
  exact Memory.read_writeAll_ne _ a hs hne

/-- Settles O6: memory changes by stores only, and each store keeps the canonical form. -/
theorem stepKeepsMemoryForm : Obligations.StepKeepsMemoryForm := by
  refine fun s t => step_keeps (P := MemoryOk) (fun _ _ h => h) fun c s t hs he => ?_
  rw [MemoryOk, exec_mem he]
  exact Memory.writeAll_wf _ hs

/-! ## Orders whose slot is held -/

/-- Settles O4: every order row hands its order over, and a slot that is held or awaits writing may not be taken. -/
theorem orderPassedOverWhileSlotHeld : Obligations.OrderPassedOverWhileSlotHeld := by
  refine ⟨fun c src o s en ho hen hstatus => ?_, canTake_iff⟩
  have hpassed : canTake s src.slot.val = false := by
    obtain h | ⟨r, data, h⟩ := hstatus <;> simp [canTake, hen, h]
  cases c <;> simp only [orderHanded, reduceCtorEq, Option.some.injEq, Prod.mk.injEq] at ho
  case admitClient c host | reconfig c host =>
    obtain ⟨rfl, -⟩ := ho
    exact congrArg Host.Outcome.next (handOver_passed (s := modMem (Memory.writeAll host) s) _ _ hpassed)
  all_goals
    obtain ⟨rfl, -⟩ := ho
    exact congrArg Host.Outcome.next (handOver_passed _ _ hpassed)

/-! ## Reset -/

/-- The law of debt at reset: every path is IDLE with debt 0. -/
theorem reset_debtOk : DebtOk State.reset := by
  intro c hc
  obtain rfl := List.eq_of_mem_replicate hc
  simp [PathDebtOk, Client.reset, Path.idle]

theorem reset_gateOk : GateOk State.reset := by
  refine ⟨by simp [State.reset, PulseUnit.reset], fun ch hch _ _ => ?_⟩
  obtain rfl := List.eq_of_mem_replicate hch
  rfl

/-- At reset every slot is VACANT, so that no address is held. -/
theorem reset_addressesOk : AddressesOk State.reset := by
  have h : heldAddrs State.reset = [] := by
    refine List.map_eq_nil_iff.2 (List.filter_eq_nil_iff.2 fun c hc => ?_)
    obtain rfl := List.eq_of_mem_replicate hc
    decide
  exact ⟨h ▸ List.nodup_nil, List.nodup_nil, fun e he => nomatch he⟩

/-- Settles O14, law by law. -/
theorem resetMeetsLaws : Obligations.ResetMeetsLaws := by
  refine ⟨State.reset_mem_wf, ?_, ?_, reset_gateOk, reset_debtOk, ?_, ?_, ?_, reset_addressesOk⟩
  · simp [TimeOk, State.reset, Timebase.reset, secSpan, nsPerSec, unitsPerNs, minInc, maxInc, phiLimit]
  · simp [ClassOk, State.reset, Servo.reset, BeaconUnit.reset, PulseUnit.reset]
  · simp [TablesOk, TableOk, State.reset, Ranging.reset, RangePort.reset]
  · exact ⟨Nat.zero_le _, Nat.zero_le _, Nat.zero_le _, Nat.zero_le _, Nat.zero_le _, Nat.zero_le _, Nat.zero_le _,
      Nat.zero_le _, List.length_replicate, rfl, rfl, rfl, List.length_replicate⟩
  · exact ⟨List.nodup_nil, List.nodup_nil, List.nodup_nil⟩

end Sys2Proof.Machine

/-! What every command keeps (O5, O7 to O13). `Keeps s t` says at once that each law which holds in `s` holds in `t`. It goes from
operation to operation, so that each operation of the machine has one lemma here, `…_keeps`, from the parts it is made of. -/

namespace Sys2Proof.Machine

/-! ## The laws, read slot by slot and channel by channel -/

theorem reset_pathDebtOk (p : Port) : PathDebtOk (atPort Client.reset.paths p) := by
  cases p <;> simp [PathDebtOk, atPort, Client.reset, Path.idle]

/-- R98: the law of debt, slot by slot. -/
theorem debtOk_iff {s : State} : DebtOk s ↔ ∀ n p, PathDebtOk (path s n p) := by
  refine ⟨fun h n p => ?_, fun h c hc => ?_⟩
  · unfold path client
    rw [List.getD_eq_getElem?_getD]
    cases hn : s.crs.clients[n]? with
    | none => exact reset_pathDebtOk p
    | some c =>
      obtain ⟨ha, hb⟩ := h c (List.mem_of_getElem? hn)
      cases p
      · exact ha
      · exact hb
  · obtain ⟨n, hn, rfl⟩ := List.getElem_of_mem hc
    have hc (p : Port) : PathDebtOk (atPort s.crs.clients[n].paths p) := by
      simpa [path, client, List.getD_eq_getElem?_getD, hn] using h n p
    exact ⟨hc .a, hc .b⟩

/-- The slot holds a client at this address. -/
def holdsAddr (s : State) (n : Nat) (a : MacAddr) : Prop := (client s n).state ≠ .vacant ∧ (client s n).config.addr = a

/-- A slot past the last is VACANT. -/
theorem client_past {s : State} {n : Nat} (h : s.crs.clients.length ≤ n) : client s n = Client.reset := by
  simp [client, List.getD_eq_getElem?_getD, h]

theorem client_getElem {s : State} {n : Nat} (h : n < s.crs.clients.length) : client s n = s.crs.clients[n] := by
  simp [client, List.getD_eq_getElem?_getD, h]

/-- A slot that holds a client lies within the roster. -/
theorem lt_of_occupied {s : State} {n : Nat} (h : (client s n).state ≠ .vacant) : n < s.crs.clients.length := by
  by_contra hn
  exact h (by rw [client_past (Nat.le_of_not_lt hn)]; rfl)

theorem mem_heldAddrs {s : State} {a : MacAddr} : a ∈ heldAddrs s ↔ ∃ n, holdsAddr s n a := by
  unfold heldAddrs holdsAddr
  simp only [List.mem_map, List.mem_filter, bne_iff_ne]
  constructor
  · rintro ⟨c, ⟨hc, hv⟩, rfl⟩
    obtain ⟨n, hn, rfl⟩ := List.getElem_of_mem hc
    exact ⟨n, by rwa [client_getElem hn], by rw [client_getElem hn]⟩
  · rintro ⟨n, hv, rfl⟩
    have hn := lt_of_occupied hv
    rw [client_getElem hn] at hv ⊢
    exact ⟨_, ⟨List.getElem_mem hn, hv⟩, rfl⟩

theorem heldAddrs_nodup_iff {s : State} :
    (heldAddrs s).Nodup ↔ ∀ m n a, holdsAddr s m a → holdsAddr s n a → m = n := by
  unfold heldAddrs List.Nodup
  rw [List.pairwise_map, List.pairwise_filter, List.pairwise_iff_getElem]
  constructor
  · rintro h m n a ⟨hm, rfl⟩ ⟨hn, ha⟩
    have lm := lt_of_occupied hm
    have ln := lt_of_occupied hn
    rw [client_getElem lm] at hm ha
    rw [client_getElem ln] at hn ha
    rcases Nat.lt_trichotomy m n with hlt | heq | hgt
    · exact absurd ha.symm (h m n lm ln hlt (by simpa using hm) (by simpa using hn))
    · exact heq
    · exact absurd ha (h n m ln lm hgt (by simpa using hn) (by simpa using hm))
  · intro h m n lm ln hlt hm hn ha
    have := h m n _ ⟨by simpa [client_getElem lm] using hm, by rw [client_getElem lm]⟩
      ⟨by simpa [client_getElem ln] using hn, by rw [client_getElem ln]; exact ha.symm⟩
    omega

/-- Ch. 5.1, R90: the law of addresses, slot by slot. -/
theorem addressesOk_iff {s : State} : AddressesOk s ↔
    (∀ m n a, holdsAddr s m a → holdsAddr s n a → m = n) ∧ (s.crs.newcomers.map (·.addr)).Nodup ∧
    ∀ e ∈ s.crs.newcomers, ∀ n, ¬ holdsAddr s n e.addr := by
  unfold AddressesOk
  rw [heldAddrs_nodup_iff]
  simp only [mem_heldAddrs, not_exists]

/-- R154: where the gate is CLOSED, a gated channel has no pulse in progress. -/
def quietIfClosed (isOpen : Bool) (ch : Channel) : Prop := ch.active.gated = true → isOpen = false → ch.fall = none

/-- R154 to R157: the law of the gate, channel by channel. -/
theorem gateOk_iff {s : State} : GateOk s ↔
    (s.pou.gateOpen = true → s.pou.cls ≤ s.pou.floor ∧ s.pou.inhibit = false) ∧
    ∀ c, quietIfClosed s.pou.gateOpen (channel s c) := by
  unfold GateOk quietIfClosed channel
  refine and_congr_right fun _ => ⟨fun h c => ?_, fun h ch hch => ?_⟩
  · rw [List.getD_eq_getElem?_getD]
    cases hc : s.pou.channels[c]? with
    | none => intro hg; cases hg
    | some ch => exact h ch (List.mem_of_getElem? hc)
  · obtain ⟨c, hc, rfl⟩ := List.getElem_of_mem hch
    simpa [List.getD_eq_getElem?_getD, hc] using h c

/-- R56, R57: the class lies in 1..7 and the units that copy it hold the same. -/
def ClassHeld (s : State) : Prop :=
  1 ≤ s.dsv.cls ∧ s.dsv.cls ≤ 7 ∧ s.bcu.cls = s.dsv.cls ∧ s.pou.cls = s.dsv.cls

theorem classOk_iff {s : State} : ClassOk s ↔ ClassHeld s ∧ (s.dsv.state = .freerun → s.dsv.cls = 7) := by
  simp only [ClassOk, ClassHeld, and_assoc]

/-! ## Keeping the laws -/

/-- Each law that holds in `s` holds in `t`, but for class 7 in FREERUN, which an entry to FREERUN breaks until the class is
evaluated; and a change of class leaves the CLASS cause set (R57). A field that is not given is one of a part left alone. -/
structure KeepsLaws (s t : State) : Prop where
  time : TimeOk s → TimeOk t := by exact fun h => h
  held : ClassHeld s → ClassHeld t := by exact fun h => h
  gate : GateOk s → GateOk t := by exact fun h => h
  debt : (∀ n p, PathDebtOk (path s n p)) → ∀ n p, PathDebtOk (path t n p) := by exact fun h => h
  table : ∀ p, TableOk (rangePort s p) → TableOk (rangePort t p) := by exact fun _ h => h
  history : ∀ p, (rangePort s p).history.length ≤ 8 → (rangePort t p).history.length ≤ 8 := by exact fun _ h => h
  fifo : ∀ i, (refIn s i).fifo.length ≤ 2 → (refIn t i).fifo.length ≤ 2 := by exact fun _ h => h
  errHist : s.dsv.errHist.length ≤ 8 → t.dsv.errHist.length ≤ 8 := by exact fun h => h
  freqHist : s.dsv.freqHist.length ≤ 16 → t.dsv.freqHist.length ≤ 16 := by exact fun h => h
  newcomers : s.crs.newcomers.length ≤ 16 → t.crs.newcomers.length ≤ 16 := by exact fun h => h
  staging : s.xch.staging.length ≤ 64 → t.xch.staging.length ≤ 64 := by exact fun h => h
  store : t.xch.store.length = s.xch.store.length := by rfl
  clients : t.crs.clients.length = s.crs.clients.length := by rfl
  notices : t.bcu.notices.length = s.bcu.notices.length := by rfl
  channels : t.pou.channels.length = s.pou.channels.length := by rfl
  captures : t.evc.length = s.evc.length := by rfl
  queue : s.crs.queue.Nodup → t.crs.queue.Nodup := by exact fun h => h
  roll : ∀ p, ((beaconPort s p).roll.map (·.slot)).Nodup → ((beaconPort t p).roll.map (·.slot)).Nodup := by
    exact fun _ h => h
  addresses : AddressesOk s → AddressesOk t := by exact fun h => h
  classCause : t.dsv.cls = s.dsv.cls ∨ t.xch.causes.cls = true := by exact .inl rfl
  causeStands : s.xch.causes.cls = true → t.xch.causes.cls = true := by exact fun h => h

/-- Each law that holds in `s` holds in `t`. -/
structure Keeps (s t : State) : Prop extends KeepsLaws s t where
  cls : ClassOk s → ClassOk t := by exact fun h => h

theorem KeepsLaws.trans {s t u : State} (h : KeepsLaws s t) (k : KeepsLaws t u) : KeepsLaws s u where
  time := k.time ∘ h.time
  held := k.held ∘ h.held
  gate := k.gate ∘ h.gate
  debt := k.debt ∘ h.debt
  table p := k.table p ∘ h.table p
  history p := k.history p ∘ h.history p
  fifo i := k.fifo i ∘ h.fifo i
  errHist := k.errHist ∘ h.errHist
  freqHist := k.freqHist ∘ h.freqHist
  newcomers := k.newcomers ∘ h.newcomers
  staging := k.staging ∘ h.staging
  store := k.store.trans h.store
  clients := k.clients.trans h.clients
  notices := k.notices.trans h.notices
  channels := k.channels.trans h.channels
  captures := k.captures.trans h.captures
  queue := k.queue ∘ h.queue
  roll p := k.roll p ∘ h.roll p
  addresses := k.addresses ∘ h.addresses
  classCause := k.classCause.elim (fun e => h.classCause.imp e.trans k.causeStands) .inr
  causeStands := k.causeStands ∘ h.causeStands

theorem Keeps.refl (s : State) : Keeps s s := {}

theorem Keeps.trans {s t u : State} (h : Keeps s t) (k : Keeps t u) : Keeps s u :=
  { h.toKeepsLaws.trans k.toKeepsLaws with cls := k.cls ∘ h.cls }

variable {s₀ s : State}

/-- What each element keeps, all of them keep. -/
theorem forEach_keeps_laws {α : Type} {xs : List α} {f : α → State → State} (h : Keeps s₀ s)
    (hf : ∀ x u, Keeps s₀ u → Keeps s₀ (f x u)) : Keeps s₀ (forEach xs f s) :=
  forEach_keeps (Keeps s₀) f xs (fun x _ u => hf x u) s h

/-! ## The changes of one part -/

theorem modTbs_keeps {f : Timebase → Timebase} (h : Keeps s₀ s)
    (ht : TimeOk s → TimeOk (modTbs f s)) : Keeps s₀ (modTbs f s) := h.trans { time := ht }

theorem modRfi_keeps {f : RefIntake → RefIntake} (h : Keeps s₀ s)
    (hf : ∀ i, (atInput s.rfi.inputs i).fifo.length ≤ 2 → (atInput (f s.rfi).inputs i).fifo.length ≤ 2) :
    Keeps s₀ (modRfi f s) := h.trans { fifo := hf }

theorem modRef_keeps {i : RefInput} {f : RefIn → RefIn} (h : Keeps s₀ s)
    (hf : (refIn s i).fifo.length ≤ 2 → (f (refIn s i)).fifo.length ≤ 2) :
    Keeps s₀ (modRef i f s) :=
  h.trans {
    fifo := fun j => by
      by_cases hj : j = i
      · subst hj; rw [refIn_modRef]; exact hf
      · obtain rfl : j = otherInput i := by cases i <;> cases j <;> simp_all [otherInput]
        rw [refIn_modRef_other]; exact id }

theorem modDsv_keeps {f : Servo → Servo} (h : Keeps s₀ s) (hc : (f s.dsv).cls = s.dsv.cls)
    (hs : (f s.dsv).state = .freerun → s.dsv.state = .freerun)
    (he : s.dsv.errHist.length ≤ 8 → (f s.dsv).errHist.length ≤ 8)
    (hf : s.dsv.freqHist.length ≤ 16 → (f s.dsv).freqHist.length ≤ 16) :
    Keeps s₀ (modDsv f s) := by
  have hheld : ClassHeld s → ClassHeld (modDsv f s) := by simp [ClassHeld, hc]
  exact h.trans {
    held := hheld, errHist := he, freqHist := hf, classCause := .inl hc
    cls := fun hok => classOk_iff.2 ⟨hheld (classOk_iff.1 hok).1, fun hfree => hc.trans ((classOk_iff.1 hok).2 (hs hfree))⟩ }

theorem modLink_keeps {p : Port} {f : LinkPort → LinkPort} (h : Keeps s₀ s) : Keeps s₀ (modLink p f s) := h.trans {}

theorem modXch_keeps {f : Controller → Controller} (h : Keeps s₀ s)
    (hg : s.xch.staging.length ≤ 64 → (f s.xch).staging.length ≤ 64)
    (hs : (f s.xch).store.length = s.xch.store.length)
    (hc : s.xch.causes.cls = true → (f s.xch).causes.cls = true) : Keeps s₀ (modXch f s) :=
  h.trans { staging := hg, store := hs, causeStands := hc }

theorem modMem_keeps {f : Memory → Memory} (h : Keeps s₀ s) : Keeps s₀ (modMem f s) := h.trans {}

/-- A change of contexts that keeps addresses, states and debts. -/
theorem modCrs_keeps {f : Roster → Roster} (h : Keeps s₀ s) (hc : (f s.crs).clients = s.crs.clients)
    (hn : (f s.crs).newcomers = s.crs.newcomers)
    (hq : s.crs.queue.Nodup → (f s.crs).queue.Nodup) : Keeps s₀ (modCrs f s) :=
  h.trans {
    queue := hq
    newcomers := by rw [modCrs_crs, hn]; exact id
    clients := by rw [modCrs_crs, hc]
    debt := by simp only [path, client, modCrs_crs, hc]; exact id
    addresses := by simp only [AddressesOk, heldAddrs, modCrs_crs, hc, hn]; exact id }

/-- A change of the newcomer list to one of newcomers listed before, each at most once. -/
theorem modNewcomers_keeps {f : List Newcomer → List Newcomer} (h : Keeps s₀ s)
    (hf : ((f s.crs.newcomers).map (·.addr)).Sublist (s.crs.newcomers.map (·.addr))) :
    Keeps s₀ (modCrs (fun r => { r with newcomers := f r.newcomers }) s) :=
  h.trans {
    newcomers := fun hn => by simpa using hf.length_le.trans (by simpa using hn)
    addresses := fun ⟨hheld, hnew, hboth⟩ => ⟨hheld, hf.nodup hnew, fun e he => by
      obtain ⟨e', he', ha⟩ := List.mem_map.1 (hf.subset (List.mem_map_of_mem he))
      exact ha ▸ hboth e' he'⟩ }

theorem modBcu_keeps {f : BeaconUnit → BeaconUnit} (h : Keeps s₀ s) (hc : (f s.bcu).cls = s.bcu.cls)
    (hn : (f s.bcu).notices.length = s.bcu.notices.length)
    (hr : ∀ p, ((atPort (f s.bcu).ports p).roll.map (·.slot)) = ((atPort s.bcu.ports p).roll.map (·.slot))) :
    Keeps s₀ (modBcu f s) := by
  have hheld : ClassHeld s → ClassHeld (modBcu f s) := by simp [ClassHeld, hc]
  exact h.trans {
    held := hheld, notices := hn
    roll := fun p => by simp only [beaconPort, modBcu_bcu, hr]; exact id
    cls := fun hok => classOk_iff.2 ⟨hheld (classOk_iff.1 hok).1, (classOk_iff.1 hok).2⟩ }

theorem modBeacon_keeps {p : Port} {f : BeaconPort → BeaconPort} (h : Keeps s₀ s)
    (hr : ((beaconPort s p).roll.map (·.slot)).Nodup → ((f (beaconPort s p)).roll.map (·.slot)).Nodup) :
    Keeps s₀ (modBeacon p f s) :=
  h.trans {
    roll := fun q => by
      by_cases hq : q = p
      · subst hq; rw [beaconPort_modBeacon]; exact hr
      · rw [beaconPort_modBeacon_ne hq]; exact id }

theorem modRange_keeps {p : Port} {f : RangePort → RangePort} (h : Keeps s₀ s)
    (ht : TableOk (rangePort s p) → TableOk (f (rangePort s p)))
    (hh : (rangePort s p).history.length ≤ 8 → (f (rangePort s p)).history.length ≤ 8) :
    Keeps s₀ (modRange p f s) :=
  h.trans {
    table := fun q => by
      by_cases hq : q = p
      · subst hq; rw [rangePort_modRange]; exact ht
      · rw [rangePort_modRange_ne hq]; exact id
    history := fun q => by
      by_cases hq : q = p
      · subst hq; rw [rangePort_modRange]; exact hh
      · rw [rangePort_modRange_ne hq]; exact id }

/-- Reading a slot after a change of one. -/
theorem client_modClient_cases (n k : Nat) (f : Client → Client) (s : State) :
    client (modClient n f s) k = client s k ∨
      k = n ∧ n < s.crs.clients.length ∧ client (modClient n f s) k = f (client s n) := by
  by_cases hk : k = n
  · subst hk
    by_cases hn : k < s.crs.clients.length
    · exact .inr ⟨rfl, hn, client_modClient f hn⟩
    · have hn := Nat.le_of_not_lt hn
      exact .inl (by rw [client_past hn, client_past (by simpa using hn)])
  · exact .inl (client_modClient_ne f s hk)

/-- The change `c` of the context of slot `n` gives no address twice: a client it leaves has the address it had, or one that
no other slot and no newcomer has. -/
def addrFree (s : State) (n : Nat) (c : Client) : Prop :=
  c.state ≠ .vacant → n < s.crs.clients.length → holdsAddr s n c.config.addr ∨
    (∀ m, m ≠ n → ¬ holdsAddr s m c.config.addr) ∧ ∀ e ∈ s.crs.newcomers, e.addr ≠ c.config.addr

/-- A context that keeps state and address. -/
theorem addrFree_of_same {n : Nat} {c : Client} (hs : c.state = (client s n).state)
    (ha : c.config.addr = (client s n).config.addr) : addrFree s n c :=
  fun hv _ => .inl ⟨hs ▸ hv, ha.symm⟩

theorem modClient_addresses {n : Nat} {f : Client → Client} (hf : addrFree s n (f (client s n))) (h : AddressesOk s) :
    AddressesOk (modClient n f s) := by
  obtain ⟨hheld, hnew, hboth⟩ := addressesOk_iff.1 h
  have hcases (k : Nat) (a : MacAddr) (hk : holdsAddr (modClient n f s) k a) : holdsAddr s k a ∨
      k = n ∧ (∀ m, m ≠ n → ¬ holdsAddr s m a) ∧ ∀ e ∈ s.crs.newcomers, e.addr ≠ a := by
    obtain ⟨hv, rfl⟩ := hk
    obtain e | ⟨rfl, hn, e⟩ := client_modClient_cases n k f s
    · rw [e] at hv ⊢; exact .inl ⟨hv, rfl⟩
    · rw [e] at hv ⊢; exact (hf hv hn).imp_right fun hfree => ⟨rfl, hfree⟩
  refine addressesOk_iff.2 ⟨fun m k a hm hk => ?_, hnew, fun e he k hk => ?_⟩
  · obtain em | ⟨rfl, hfree, -⟩ := hcases m a hm <;> obtain ek | ⟨rfl, hfree', -⟩ := hcases k a hk
    · exact hheld m k a em ek
    · by_contra hne; exact hfree' m hne em
    · by_contra hne; exact hfree k (Ne.symm hne) ek
    · rfl
  · obtain hk | ⟨-, -, hfree⟩ := hcases k _ hk
    · exact hboth e he k hk
    · exact hfree e he rfl

theorem modClient_keeps {n : Nat} {f : Client → Client} (h : Keeps s₀ s)
    (ha : addrFree s n (f (client s n)))
    (hd : (∀ p, PathDebtOk (path s n p)) → ∀ p, PathDebtOk (atPort (f (client s n)).paths p)) :
    Keeps s₀ (modClient n f s) :=
  h.trans {
    clients := clients_length_modClient n f s
    addresses := modClient_addresses ha
    debt := fun hok k p => by
      obtain e | ⟨-, -, e⟩ := client_modClient_cases n k f s
      · rw [path, e]; exact hok k p
      · rw [path, e]; exact hd (hok n) p }

theorem modPath_keeps {n : Nat} {p : Port} {f : Path → Path} (h : Keeps s₀ s)
    (hd : PathDebtOk (path s n p) → PathDebtOk (f (path s n p))) : Keeps s₀ (modPath n p f s) :=
  modClient_keeps h (addrFree_of_same rfl rfl) fun hok q => by
    by_cases hq : q = p
    · subst hq; rw [atPort_modPort]; exact hd (hok q)
    · rw [atPort_modPort_ne hq]; exact hok q

/-- A change of every context that keeps addresses, states and debts. -/
theorem mapClients_keeps {f : Client → Client} (h : Keeps s₀ s)
    (hf : ∀ c, (f c).state = c.state ∧ (f c).config = c.config ∧
      ∀ p, PathDebtOk (atPort c.paths p) → PathDebtOk (atPort (f c).paths p))
    (hreset : f Client.reset = Client.reset) :
    Keeps s₀ (modCrs (fun r => { r with clients := r.clients.map f }) s) := by
  have hclient (n : Nat) : client (modCrs (fun r => { r with clients := r.clients.map f }) s) n = f (client s n) := by
    unfold client
    rw [List.getD_eq_getElem?_getD, List.getD_eq_getElem?_getD, modCrs_crs, List.getElem?_map]
    cases s.crs.clients[n]?
    · exact hreset.symm
    · rfl
  exact h.trans {
    clients := List.length_map f
    debt := fun hok n p => by rw [path, hclient]; exact (hf _).2.2 p (hok n p)
    addresses := fun hok => by
      rw [addressesOk_iff] at hok ⊢
      simp only [holdsAddr, hclient, (hf _).1, (hf _).2.1] at hok ⊢
      exact hok }

theorem modPou_keeps {f : PulseUnit → PulseUnit} (h : Keeps s₀ s) (hc : (f s.pou).cls = s.pou.cls)
    (hl : (f s.pou).channels.length = s.pou.channels.length) (hg : GateOk s → GateOk (modPou f s)) :
    Keeps s₀ (modPou f s) := by
  have hheld : ClassHeld s → ClassHeld (modPou f s) := by simp [ClassHeld, hc]
  exact h.trans {
    held := hheld, gate := hg, channels := hl
    cls := fun hok => classOk_iff.2 ⟨hheld (classOk_iff.1 hok).1, (classOk_iff.1 hok).2⟩ }

/-- A change of channels that, where the gate is CLOSED, leaves a gated one no pulse it had not. -/
theorem modChannel_keeps {c : Nat} {f : Channel → Channel} (h : Keeps s₀ s)
    (hf : quietIfClosed s.pou.gateOpen (channel s c) → quietIfClosed s.pou.gateOpen (f (channel s c))) :
    Keeps s₀ (modChannel c f s) :=
  modPou_keeps (f := fun u => { u with channels := u.channels.modify c f }) h rfl (List.length_modify f _ _) fun hg => by
    obtain ⟨hopen, hquiet⟩ := gateOk_iff.1 hg
    refine gateOk_iff.2 ⟨hopen, fun d => ?_⟩
    by_cases hd : d = c ∧ c < s.pou.channels.length
    · obtain ⟨rfl, hd⟩ := hd
      exact (channel_modChannel f hd).symm ▸ hf (hquiet d)
    · have e : channel (modChannel c f s) d = channel s d := by
        by_cases hdc : d = c
        · have hlen : s.pou.channels.length ≤ c := Nat.le_of_not_lt fun hlt => hd ⟨hdc, hlt⟩
          simp [channel, modChannel, List.getD_eq_getElem?_getD, hdc, hlen]
        · exact channel_modChannel_ne f s hdc
      exact e.symm ▸ hquiet d

theorem mapChannels_keeps {f : Channel → Channel} (h : Keeps s₀ s)
    (hf : ∀ ch, quietIfClosed s.pou.gateOpen ch → quietIfClosed s.pou.gateOpen (f ch)) :
    Keeps s₀ (modPou (fun u => { u with channels := u.channels.map f }) s) :=
  modPou_keeps h rfl (List.length_map f) fun ⟨hopen, hquiet⟩ => ⟨hopen, fun ch hch => by
    obtain ⟨ch', hch', rfl⟩ := List.mem_map.1 hch
    exact hf ch' (hquiet ch' hch')⟩

theorem modCapture_keeps {i : Nat} {f : CaptureIn → CaptureIn} (h : Keeps s₀ s) : Keeps s₀ (modCapture i f s) :=
  h.trans { captures := List.length_modify f _ _ }

end Sys2Proof.Machine

/-! Keeping the laws, by the operations that the blocks share, the Timebase, the gate, the Discipline Servo and the Reference
Intake. -/

namespace Sys2Proof.Machine

variable {s₀ s : State}

/-! ## Journal, order store and queues -/

theorem stage_keeps {body : JournalBody} (h : Keeps s₀ s) : Keeps s₀ (stage body s) := by
  unfold stage
  split
  next hroom => exact modXch_keeps h (fun _ => by simpa using hroom) rfl id
  next => exact modXch_keeps h id rfl id

theorem raiseCause_keeps {c : Cause} (h : Keeps s₀ s) : Keeps s₀ (raiseCause c s) :=
  modXch_keeps h (fun hg => hg) rfl fun hc => by cases c <;> simp [setCause, hc]

theorem takeOrder_keeps {slot : Nat} {cookie : BitVec 16} {o : Order} (h : Keeps s₀ s) :
    Keeps s₀ (takeOrder slot cookie o s) := modXch_keeps h (fun hg => hg) List.length_set id

theorem complete_keeps {slot : Nat} {r : ResultCode} {data : List Byte} (h : Keeps s₀ s) :
    Keeps s₀ (complete slot r data s) := modXch_keeps h (fun hg => hg) (List.length_modify ..) id

theorem finish_keeps {slot : Nat} {r : ResultCode} (h : Keeps s₀ s) : Keeps s₀ (finish slot r s) := complete_keeps h

/-- An order is kept within the laws by what its owner does with it. -/
theorem handOver_keeps {src : OrderSrc} {o : Order} {owner : Nat → State → State}
    (howner : ∀ {n u}, Keeps s₀ u → Keeps s₀ (owner n u)) (h : Keeps s₀ s) : Keeps s₀ (handOver src o owner s) := by
  unfold handOver
  split
  · exact howner (takeOrder_keeps h)
  · exact h

theorem queuePub_keeps {n : Nat} (h : Keeps s₀ s) : Keeps s₀ (queuePub n s) :=
  modCrs_keeps h rfl rfl queuePub_nodup

theorem queueIfChanged_keeps {n : Nat} {before : Client} (h : Keeps s₀ s) : Keeps s₀ (queueIfChanged n before s) := by
  unfold queueIfChanged
  split
  · exact h
  · exact queuePub_keeps h

theorem joinRoll_nodup {p : Port} (n : Nat) (h : ((beaconPort s p).roll.map (·.slot)).Nodup) :
    ((beaconPort (joinRoll p n s) p).roll.map (·.slot)).Nodup := by
  rw [joinRoll_slots]
  split
  · exact h
  next hn => exact List.nodup_append.mpr ⟨h, List.nodup_singleton n, fun a ha b hb => by grind⟩

theorem joinRoll_keeps {p : Port} {n : Nat} (h : Keeps s₀ s) : Keeps s₀ (joinRoll p n s) :=
  modBeacon_keeps h (by simpa only [joinRoll, beaconPort_modBeacon] using joinRoll_nodup n)

theorem leaveRoll_keeps {p : Port} {n : Nat} (h : Keeps s₀ s) : Keeps s₀ (leaveRoll p n s) :=
  modBeacon_keeps h fun hr => (List.filter_sublist.map _).nodup hr

/-! ## Client state -/

theorem changeState_keeps {n : Nat} {st : ClientState} {cause : ClientCause} (h : Keeps s₀ s)
    (ha : addrFree s n { client s n with state := st }) : Keeps s₀ (changeState n st cause s) := by
  have hqueued := queuePub_keeps (n := n) (stage_keeps (body := .clientState n (client s n).config.addr (client s n).state st
    cause (client s n).offsetV.verdict (client s n).pulseV.verdict (client s n).paths.a.state (client s n).paths.b.state)
    (modClient_keeps (f := fun c => { c with state := st }) h ha id))
  unfold changeState
  dsimp only
  repeat' split
  · exact hqueued
  · exact joinRoll_keeps (joinRoll_keeps hqueued)
  · exact joinRoll_keeps hqueued
  · exact joinRoll_keeps hqueued
  · exact hqueued

theorem evaluate_keeps {n : Nat} {cause : ClientCause} (h : Keeps s₀ s) : Keeps s₀ (evaluate n cause s) := by
  obtain e | ⟨hv, -, e⟩ := evaluate_cases n cause s
  · rwa [e]
  · rw [e]; exact changeState_keeps h fun _ _ => .inl ⟨hv, rfl⟩

theorem settleState_keeps {n : Nat} {st : ClientState} {cause : ClientCause} (h : Keeps s₀ s)
    (ha : addrFree s n { client s n with state := st }) : Keeps s₀ (settleState n st cause s) := by
  unfold settleState
  split
  · exact h
  · exact changeState_keeps h ha

/-! ## Timebase -/

/-- R13: an offset written within its range. -/
theorem timeOk_utcOffset {v : Int} (hlo : -32768 ≤ v) (hhi : v ≤ 32767) (h : TimeOk s) :
    TimeOk (modTbs (fun t => { t with utcOffset := v }) s) := by
  obtain ⟨hsec, hns, hfrac, hmin, hmax, hphi, hphi', -⟩ := h
  exact ⟨hsec, hns, hfrac, hmin, hmax, hphi, hphi', hlo, hhi⟩

/-- R3: Φ written within its range. -/
theorem timeOk_phi {f : Timebase → Timebase} (hf : ∃ phi slew, f s.tbs = { s.tbs with phi := phi, slew := slew } ∧
    -phiLimit ≤ phi ∧ phi ≤ phiLimit) (h : TimeOk s) : TimeOk (modTbs f s) := by
  obtain ⟨phi, slew, e, hphi, hphi'⟩ := hf
  obtain ⟨hsec, hns, hfrac, hmin, hmax, -, -, hoff, hoff'⟩ := h
  simpa [TimeOk, e] using ⟨hsec, hns, hfrac, hmin, hmax, hphi, hphi', hoff, hoff'⟩

/-- R1: device time stays in its range over a tick. -/
theorem advance_range {t : DeviceTime} {inc : Nat} (hsec : t.sec < secSpan) (hns : t.ns < nsPerSec)
    (hfrac : t.frac < unitsPerNs) (hinc : (inc : Int) ≤ maxInc) :
    (t.advance inc).sec < secSpan ∧ (t.advance inc).ns < nsPerSec ∧ (t.advance inc).frac < unitsPerNs := by
  refine ⟨advance_sec_lt inc hsec, ?_, ?_⟩
  · unfold DeviceTime.advance
    by_cases hc : t.crosses inc = true
    · rw [if_pos hc]
      simp only [DeviceTime.nsAfter, nsPerSec, unitsPerNs, maxInc] at hns hfrac hinc ⊢
      omega
    · have : t.nsAfter inc < nsPerSec := by simpa [DeviceTime.crosses] using hc
      simpa [hc] using this
  · unfold DeviceTime.advance
    split <;> exact Nat.mod_lt _ (by decide)

/-- R8: device time stays in its range over a step. -/
theorem stepBy_range (t : DeviceTime) (delta : Int) :
    (t.stepBy delta).sec < secSpan ∧ (t.stepBy delta).ns < nsPerSec ∧ (t.stepBy delta).frac < unitsPerNs := by
  unfold DeviceTime.stepBy
  dsimp only
  split_ifs
  · decide
  · decide
  · refine ⟨Nat.mod_lt _ (by decide), ?_, Nat.mod_lt _ (by decide)⟩
    exact Nat.div_lt_of_lt_mul (lt_of_lt_of_eq (Nat.mod_lt _ (by decide)) (by decide))

/-- R1 to R5: a tick that begins after device time has moved on within its range. -/
theorem beginTick_timeOk {t : State} {tb : Timebase} (ht : t.tbs = tb.beginTick)
    (htime : tb.time.sec < secSpan ∧ tb.time.ns < nsPerSec ∧ tb.time.frac < unitsPerNs)
    (hphi : tb.phi = s.tbs.phi) (hoff : tb.utcOffset = s.tbs.utcOffset) (h : TimeOk s) : TimeOk t := by
  unfold TimeOk
  rw [ht]
  obtain ⟨-, -, -, -, -, hphi₁, hphi₂, hoff₁, hoff₂⟩ := h
  obtain ⟨hsec, hns, hfrac⟩ := htime
  obtain ⟨hmin, hmax⟩ := beginTick_range tb
  exact ⟨hsec, hns, hfrac, hmin, hmax, hphi ▸ hphi₁, hphi ▸ hphi₂, hoff ▸ hoff₁, hoff ▸ hoff₂⟩

theorem plainTick_timeOk (h : TimeOk s) : TimeOk (modTbs Timebase.plainTick s) := by
  have ⟨hsec, hns, hfrac, _, hmax, _⟩ := h
  exact beginTick_timeOk rfl (advance_range hsec hns hfrac hmax) rfl rfl h

/-- R1, R6: a tick across a boundary with no step due there. -/
theorem boundaryTick_unstepped {tb : Timebase} (hd : tb.dueDelta = none) :
    tb.boundaryTick = { tb.plainTick with reachedFrom := tb.report.instant * unitsPerSix } := by
  rw [Timebase.boundaryTick, hd]

/-- R8: a tick across a boundary at which a step is applied. -/
theorem boundaryTick_stepped {tb : Timebase} {d : Int} (hd : tb.dueDelta = some d) :
    tb.boundaryTick = ({ tb with
      time := (tb.time.advance tb.tickInc).stepBy d, slew := Slew.none, lastInc := tb.tickInc,
      stepTick := some { start := tb.time.units, delta := d }
      reachedFrom := tb.report.instant * unitsPerSix } : Timebase).beginTick := by
  rw [Timebase.boundaryTick, hd]

theorem boundaryTick_timeOk (h : TimeOk s) : TimeOk (modTbs Timebase.boundaryTick s) := by
  cases hd : s.tbs.dueDelta with
  | none => simpa only [TimeOk, modTbs_tbs, boundaryTick_unstepped hd] using plainTick_timeOk h
  | some d => exact beginTick_timeOk (boundaryTick_stepped hd) (stepBy_range (s.tbs.time.advance s.tbs.tickInc) d) rfl rfl h

theorem tickTimer_keeps (h : Keeps s₀ s) : Keeps s₀ (tickTimer s) := modXch_keeps h id rfl id

theorem postServoStep_keeps {delta : Int} (h : Keeps s₀ s) : Keeps s₀ (postServoStep delta s) := by
  unfold postServoStep
  split
  · exact modTbs_keeps (finish_keeps h) id
  · exact modTbs_keeps h id

theorem orderStep_keeps {p : StepP} {slot : Nat} (h : Keeps s₀ s) : Keeps s₀ (orderStep p slot s) := by
  unfold orderStep
  dsimp only
  generalize (if p.targetKind = 1 then none else some p.epoch.toNat : Option Nat) = target
  split_ifs
  · exact finish_keeps h
  · exact finish_keeps h
  · exact finish_keeps h
  · exact modTbs_keeps h id

theorem orderUtcSetup_keeps {p : UtcSetupP} {slot : Nat} (h : Keeps s₀ s) : Keeps s₀ (orderUtcSetup p slot s) := by
  have hoffset := timeOk_utcOffset (s := s) (v := p.offset.toInt) (BitVec.le_toInt p.offset) (Int.le_of_lt_add_one (BitVec.toInt_lt))
  unfold orderUtcSetup
  split
  · exact finish_keeps (modTbs_keeps h hoffset)
  · split
    · exact finish_keeps h
    · exact finish_keeps (modTbs_keeps h id)
  · split
    · exact finish_keeps h
    · exact finish_keeps (modTbs_keeps h hoffset)
  · split
    · exact finish_keeps (modTbs_keeps h id)
    · exact finish_keeps h
  · exact finish_keeps h

theorem stepApplied_keeps {r : Report} (h : Keeps s₀ s) : Keeps s₀ (stepApplied r s) := by
  unfold stepApplied
  repeat' split
  · exact modTbs_keeps (stage_keeps h) id
  · exact modTbs_keeps (complete_keeps (stage_keeps h)) id
  · exact h

/-- R13: an offset saturated at its limits. -/
theorem satOffset_range (v : Int) : -32768 ≤ satOffset v ∧ satOffset v ≤ 32767 := by
  unfold satOffset; omega

theorem applyLeap_keeps (h : Keeps s₀ s) : Keeps s₀ (applyLeap s) := by
  unfold applyLeap
  split
  · exact h
  next l _ =>
    have hsat := satOffset_range (s.tbs.utcOffset + if l.insert = true then 1 else -1)
    rcases Nat.lt_or_ge s.tbs.time.sec l.epoch with hlt | hge
    · rwa [if_neg (Nat.not_le.2 hlt)]
    · rw [if_pos hge]
      exact stage_keeps (modTbs_keeps h (timeOk_utcOffset (s := s) hsat.1 hsat.2))

theorem tbsBoundary_keeps {r : Report} (h : Keeps s₀ s) : Keeps s₀ (tbsBoundary r s) := applyLeap_keeps (stepApplied_keeps h)

/-! ## The gate -/

/-- What a change that reaches the servo, the class copies, the channels and the controller must keep. -/
theorem KeepsLaws.of_frame {t : State} (htbs : t.tbs = s.tbs) (hrfi : t.rfi = s.rfi) (hcrs : t.crs = s.crs)
    (hrng : t.rng = s.rng) (hevc : t.evc = s.evc) (hports : t.bcu.ports = s.bcu.ports)
    (hnotices : t.bcu.notices = s.bcu.notices) (herr : t.dsv.errHist = s.dsv.errHist)
    (hfreq : t.dsv.freqHist = s.dsv.freqHist) (hstore : t.xch.store = s.xch.store)
    (hchannels : t.pou.channels.length = s.pou.channels.length) (held : ClassHeld s → ClassHeld t) (gate : GateOk s → GateOk t)
    (staging : s.xch.staging.length ≤ 64 → t.xch.staging.length ≤ 64)
    (classCause : t.dsv.cls = s.dsv.cls ∨ t.xch.causes.cls = true)
    (causeStands : s.xch.causes.cls = true → t.xch.causes.cls = true) : KeepsLaws s t where
  time := by simp [TimeOk, htbs]
  held := held
  gate := gate
  debt := by simp [path, client, hcrs]
  table := by simp [rangePort, hrng]
  history := by simp [rangePort, hrng]
  fifo := by simp [refIn, hrfi]
  errHist := by simp [herr]
  freqHist := by simp [hfreq]
  newcomers := by simp [hcrs]
  staging := staging
  store := by rw [hstore]
  clients := by rw [hcrs]
  notices := by rw [hnotices]
  channels := hchannels
  captures := by rw [hevc]
  queue := by simp [hcrs]
  roll := by simp [beaconPort, hports]
  addresses := by simp [AddressesOk, heldAddrs, hcrs]
  classCause := classCause
  causeStands := causeStands

/-- R155: a closing leaves a gate that keeps its law, whatever floor, class and inhibit level closed it. -/
theorem closeGate_gateOk {cause : GateCause} (hq : ∀ ch ∈ s.pou.channels, quietIfClosed s.pou.gateOpen ch) :
    GateOk (closeGate cause s) := by
  refine ⟨fun hopen => absurd hopen (by simp [closeGate_closed]), fun ch hch hgated _ => ?_⟩
  unfold closeGate at hch
  split at hch
  · rw [(stage_frame _ _).2.2.2.2.2.2.2.1] at hch
    obtain ⟨ch', -, rfl⟩ := List.mem_map.1 hch
    by_cases hg : ch'.active.gated = true <;> simp_all
  next hclosed => exact hq ch hch hgated (by simpa using hclosed)

theorem closeGate_channels_length (cause : GateCause) (s : State) :
    (closeGate cause s).pou.channels.length = s.pou.channels.length := by
  unfold closeGate; split <;> simp

theorem closeGate_store (cause : GateCause) (s : State) : (closeGate cause s).xch.store = s.xch.store := by
  unfold closeGate; split <;> simp

theorem closeGate_causes (cause : GateCause) (s : State) : (closeGate cause s).xch.causes = s.xch.causes := by
  unfold closeGate; split <;> simp

theorem closeGate_staging_le {cause : GateCause} (h : s.xch.staging.length ≤ 64) :
    (closeGate cause s).xch.staging.length ≤ 64 := by
  unfold closeGate
  split
  · exact stage_length_le (s := modPou _ s) _ h
  · exact h

/-- R155: a write of the floor or the inhibit level that closes the gate. -/
theorem closeGate_modPou_keeps {cause : GateCause} {f : PulseUnit → PulseUnit} (h : Keeps s₀ s)
    (hf : ∃ floor inhibit, f s.pou = { s.pou with floor := floor, inhibit := inhibit }) :
    Keeps s₀ (closeGate cause (modPou f s)) := by
  obtain ⟨floor, inhibit, e⟩ := hf
  have hpou : (modPou f s).pou = { s.pou with floor := floor, inhibit := inhibit } := e
  obtain ⟨hcls, -, -⟩ := closeGate_rest cause (modPou f s)
  have hframe := closeGate_frame cause (modPou f s)
  have hheld : ClassHeld s → ClassHeld (closeGate cause (modPou f s)) := by
    simp only [ClassHeld, hcls, hpou]; simp
  have hlaws : KeepsLaws s (closeGate cause (modPou f s)) := by
    refine .of_frame (by simp) (by simp) (by simp) (by simp) (by simp) (by simp) (by simp) (by simp) (by simp)
      (closeGate_store ..) ((closeGate_channels_length ..).trans (by rw [hpou])) hheld
      (fun hg => closeGate_gateOk fun ch hch => ?_) (closeGate_staging_le (s := modPou f s)) (.inl (by simp)) (by simp [closeGate_causes])
    rw [hpou] at hch ⊢
    exact hg.2 ch hch
  exact h.trans { hlaws with cls := fun hok => classOk_iff.2 ⟨hheld (classOk_iff.1 hok).1, by simpa using (classOk_iff.1 hok).2⟩ }

theorem orderGateSetup_keeps {floor : Byte} {slot : Nat} (h : Keeps s₀ s) : Keeps s₀ (orderGateSetup floor slot s) := by
  unfold orderGateSetup
  dsimp only
  split
  · exact finish_keeps (closeGate_modPou_keeps h ⟨_, _, rfl⟩)
  next hf =>
    refine finish_keeps (modPou_keeps h rfl rfl fun ⟨hopen, hquiet⟩ => ⟨fun ho => ⟨?_, (hopen ho).2⟩, hquiet⟩)
    exact Nat.le_of_not_lt hf

theorem orderGateOpen_keeps {slot : Nat} (h : Keeps s₀ s) : Keeps s₀ (orderGateOpen slot s) := by
  unfold orderGateOpen
  split_ifs with hlow hinhibit hopen
  · exact finish_keeps h
  · exact finish_keeps h
  · exact finish_keeps h
  · refine finish_keeps (stage_keeps (modPou_keeps h rfl rfl fun _ => ⟨fun _ => ⟨Nat.le_of_not_lt hlow, ?_⟩, ?_⟩))
    · simpa using hinhibit
    · rintro ch - - ⟨⟩

/-! ## The class -/

/-- R57: a change of class keeps the laws, but for class 7 in FREERUN. -/
theorem changeClass_keepsLaws {new : Nat} (hlo : 1 ≤ new) (hhi : new ≤ 7) : KeepsLaws s (changeClass new s) := by
  have hframe := changeClass_frame new s
  obtain ⟨hdsv, hbcu, hpou⟩ := changeClass_copies new s
  have hraised : (changeClass new s).xch.causes.cls = true := by
    unfold changeClass pouClass
    dsimp only
    split
    · rw [closeGate_causes]; rfl
    · rfl
  have hstaging : s.xch.staging.length ≤ 64 → (changeClass new s).xch.staging.length ≤ 64 := by
    intro hs
    have hstaged := stage_length_le (.classChange s.dsv.cls new s.dsv.state s.dsv.eps) (s := modDsv (fun d => { d with cls := new }) s) hs
    unfold changeClass pouClass
    dsimp only
    split
    · exact closeGate_staging_le hstaged
    · exact hstaged
  have hstore : (changeClass new s).xch.store = s.xch.store := by
    unfold changeClass pouClass
    dsimp only
    split
    · rw [closeGate_store]; exact stage_store ..
    · exact stage_store ..
  have hchannels : (changeClass new s).pou.channels.length = s.pou.channels.length := by
    unfold changeClass pouClass
    dsimp only
    split
    · rw [closeGate_channels_length]; simp [raiseCause]
    · simp [raiseCause]
  have hgate : GateOk s → GateOk (changeClass new s) := by
    rintro ⟨hopen, hquiet⟩
    unfold changeClass pouClass
    dsimp only
    split
    · refine closeGate_gateOk fun ch hch => ?_
      simp only [modPou_pou, modBcu_pou, raiseCause, modXch_pou, stage_frame, modDsv_pou] at hch ⊢
      exact hquiet ch hch
    next hfloor =>
      simp only [modPou_pou, modBcu_pou, raiseCause, modXch_pou, stage_frame, modDsv_pou] at hfloor
      simp only [GateOk, modPou_pou, modBcu_pou, raiseCause, modXch_pou, stage_frame, modDsv_pou]
      exact ⟨fun ho => ⟨Nat.le_of_not_lt hfloor, (hopen ho).2⟩, hquiet⟩
  have hservo := (changeClass_dsv new s).1
  have hports : (changeClass new s).bcu.ports = s.bcu.ports ∧ (changeClass new s).bcu.notices = s.bcu.notices := by
    unfold changeClass pouClass
    dsimp only
    split <;> simp [raiseCause]
  exact .of_frame (by simp) (by simp) (by simp) (by simp) (by simp) hports.1 hports.2 (by rw [hservo]) (by rw [hservo]) hstore
    hchannels (fun _ => ⟨by rwa [hdsv], by rwa [hdsv], hbcu.trans hdsv.symm, hpou.trans hdsv.symm⟩) hgate hstaging (.inr hraised)
    fun _ => hraised

/-- R56: the candidate of a state: 7 in FREERUN and no other class there. -/
theorem applyCandidate_keepsLaws {cand : Nat} (hlo : 1 ≤ cand) (hhi : cand ≤ 7) :
    KeepsLaws s (applyCandidate cand s) ∧
      (ClassHeld s → (s.dsv.state = .freerun → cand = 7) → ClassOk (applyCandidate cand s)) := by
  have hdwell (d : Nat) := modDsv_keeps (f := fun x => { x with dwell := d }) (Keeps.refl s) rfl id id id
  have hchange := (hdwell 0).toKeepsLaws.trans (changeClass_keepsLaws (new := cand) hlo hhi)
  have hchanged (hheld : ClassHeld s) (hfree : s.dsv.state = .freerun → cand = 7) :
      ClassOk (changeClass cand (modDsv (fun d => { d with dwell := 0 }) s)) := by
    refine classOk_iff.2 ⟨hchange.held hheld, fun h => ?_⟩
    rw [(changeClass_dsv _ _).1] at h ⊢
    exact hfree h
  unfold applyCandidate
  split_ifs with hworse hsame hbetter
  · exact ⟨hchange, hchanged⟩
  · exact ⟨(hdwell 0).toKeepsLaws, fun hheld hfree => classOk_iff.2 ⟨hheld, fun h => hsame ▸ hfree h⟩⟩
  · exact ⟨hchange, hchanged⟩
  · refine ⟨(hdwell _).toKeepsLaws, fun hheld hfree => classOk_iff.2 ⟨hheld, fun h => ?_⟩⟩
    have := hfree h
    have := hheld.2.1
    show s.dsv.cls = 7
    omega

/-- R56: a class evaluation keeps the laws and brings class 7 to FREERUN. -/
theorem evaluateClass_keepsLaws : KeepsLaws s (evaluateClass s) ∧ (ClassHeld s → ClassOk (evaluateClass s)) := by
  have hestimate := (modDsv_keeps (f := fun d => { d with eps := estimate d }) (Keeps.refl s) rfl id id id).toKeepsLaws
  have hrange := candidateOf_range
  unfold evaluateClass
  split
  next hstate =>
    obtain ⟨hlaws, hok⟩ := applyCandidate_keepsLaws (s := s) (cand := 7) (by omega) le_rfl
    exact ⟨hlaws, fun hheld => hok hheld fun _ => rfl⟩
  next hstate =>
    obtain ⟨hlaws, hok⟩ := applyCandidate_keepsLaws (s := s) (hrange s.dsv.eps).1 (by have := hrange s.dsv.eps; omega)
    exact ⟨hlaws, fun hheld => hok hheld fun h => by simp [hstate] at h⟩
  next hstate =>
    obtain ⟨hlaws, hok⟩ := applyCandidate_keepsLaws (s := modDsv (fun d => { d with eps := estimate d }) s)
      (hrange (estimate s.dsv)).1 (by have := hrange (estimate s.dsv); omega)
    exact ⟨hestimate.trans hlaws, fun hheld => hok (hestimate.held hheld) fun h => by simp [hstate] at h⟩
  next hstate =>
    obtain ⟨hlaws, hok⟩ := applyCandidate_keepsLaws (s := modDsv (fun d => { d with eps := estimate d }) s)
      (cand := max 3 (candidateOf (estimate s.dsv))) (by omega) (by have := hrange (estimate s.dsv); omega)
    exact ⟨hestimate.trans hlaws, fun hheld => hok (hestimate.held hheld) fun h => by simp [hstate] at h⟩

theorem evaluateClass_keeps (h : Keeps s₀ s) : Keeps s₀ (evaluateClass s) :=
  h.trans { evaluateClass_keepsLaws.1 with cls := fun hok => evaluateClass_keepsLaws.2 (classOk_iff.1 hok).1 }

/-! ## Discipline Servo -/

theorem entryEffects_keepsLaws {new : ServoState} : KeepsLaws s (modDsv (entryEffects new) s) := by
  cases new
  · exact { freqHist := fun _ => Nat.zero_le _ }
  · exact { errHist := fun _ => Nat.zero_le _ }
  · exact {}
  · exact {}

/-- R3: Φ at an entry to HOLDOVER lies in its range where it did before. -/
theorem holdoverPhi_range {d : Servo} {phi : Int} (hlo : -phiLimit ≤ phi) (hhi : phi ≤ phiLimit) :
    -phiLimit ≤ holdoverPhi d phi ∧ holdoverPhi d phi ≤ phiLimit := by
  unfold holdoverPhi
  split
  · exact clampSym_range _ (by decide)
  · exact ⟨hlo, hhi⟩

/-- R52, R53: an entry to a state ends in its class evaluation, which mends what an entry to FREERUN breaks. -/
theorem enterServo_keeps {new : ServoState} {cause : ServoCause} (h : Keeps s₀ s) : Keeps s₀ (enterServo new cause s) := by
  have hentry : KeepsLaws s (modDsv (entryEffects new) s) := entryEffects_keepsLaws
  have hphi : KeepsLaws s (if new = .holdover then
      modTbs (fun t => { t with phi := holdoverPhi (modDsv (entryEffects new) s).dsv t.phi }) (modDsv (entryEffects new) s)
      else modDsv (entryEffects new) s) := by
    split
    · refine hentry.trans (modTbs_keeps (Keeps.refl _) fun ht => timeOk_phi ⟨_, _, rfl, ?_⟩ ht).toKeepsLaws
      obtain ⟨-, -, -, -, -, hlo, hhi, -⟩ := ht
      exact holdoverPhi_range hlo hhi
    · exact hentry
  unfold enterServo
  dsimp only
  generalize (if new = .holdover then _ else _ : State) = u at hphi ⊢
  have hstage := hphi.trans (stage_keeps (body := .servoState s.dsv.state new cause u.tbs.phi u.dsv.eps u.dsv.labelCount
    u.dsv.gatedCount) (Keeps.refl u)).toKeepsLaws
  exact h.trans { hstage.trans evaluateClass_keepsLaws.1 with
    cls := fun hok => evaluateClass_keepsLaws.2 (hstage.held (classOk_iff.1 hok).1) }

theorem takeNotice_keeps {prev new : Option RefInput} (h : Keeps s₀ s) : Keeps s₀ (takeNotice prev new s) := by
  unfold takeNotice
  split
  · exact enterServo_keeps h
  · exact enterServo_keeps h
  · exact enterServo_keeps h
  · exact enterServo_keeps h
  · exact modDsv_keeps h rfl id (fun _ => Nat.zero_le _) id
  · exact modDsv_keeps h rfl id (fun _ => Nat.zero_le _) id
  · exact h

theorem selectionNotice_keeps {prev new : Option RefInput} (h : Keeps s₀ s) : Keeps s₀ (selectionNotice prev new s) :=
  takeNotice_keeps (modDsv_keeps h rfl id id id)

theorem noteEstimate_keeps {m : Mark} (h : Keeps s₀ s) : Keeps s₀ (noteEstimate m s) := by
  unfold noteEstimate
  split
  · exact h
  · exact modDsv_keeps h rfl id id id

theorem servoStep_keeps {delta : Int} (h : Keeps s₀ s) : Keeps s₀ (servoStep delta s) :=
  modDsv_keeps (postServoStep_keeps h) rfl id (fun _ => Nat.zero_le _) id

theorem correct_keeps {e : Int} {kp ki : Nat} (h : Keeps s₀ s) : Keeps s₀ (correct e kp ki s) :=
  modTbs_keeps h (timeOk_phi ⟨_, _, rfl, clampSym_range _ (by decide)⟩)

theorem recordError_length {e : Int} {d : Servo} (h : d.errHist.length ≤ 8) : (recordError e d).errHist.length ≤ 8 := by
  simp only [recordError, List.length_append, List.length_singleton]
  split <;> simp <;> omega

theorem recordFreq_length {phi : Int} {d : Servo} (h : d.freqHist.length ≤ 16) : (recordFreq phi d).freqHist.length ≤ 16 := by
  simp only [recordFreq, List.length_append, List.length_singleton]
  split <;> simp <;> omega

theorem countLock_keeps {e : Int} (h : Keeps s₀ s) : Keeps s₀ (countLock e s) := by
  unfold countLock
  split_ifs
  · exact modDsv_keeps h rfl id id id
  · exact enterServo_keeps h
  · exact modDsv_keeps h rfl id id id

theorem acquireMark_keeps {m : Mark} (h : Keeps s₀ s) : Keeps s₀ (acquireMark m s) := by
  simp only [acquireMark]
  split_ifs
  · exact h
  · exact modDsv_keeps h rfl id id id
  · exact servoStep_keeps h
  · exact servoStep_keeps h
  · exact countLock_keeps (modDsv_keeps (correct_keeps h) rfl (fun hs => hs) recordError_length id)

theorem gateMark_keeps {m : Mark} (h : Keeps s₀ s) : Keeps s₀ (gateMark m s) := by
  simp only [gateMark]
  split_ifs
  · exact enterServo_keeps (modDsv_keeps h rfl id id id)
  · exact modDsv_keeps h rfl id id id
  · exact modDsv_keeps (correct_keeps (modDsv_keeps h rfl id id id)) rfl (fun hs => hs) recordError_length recordFreq_length

theorem trackMark_keeps {m : Mark} (h : Keeps s₀ s) : Keeps s₀ (trackMark m s) := by
  simp only [trackMark]
  split_ifs
  · exact enterServo_keeps (modDsv_keeps h rfl id id id)
  · exact modDsv_keeps h rfl id id id
  · exact gateMark_keeps (modDsv_keeps h rfl id id id)
  · exact gateMark_keeps h

theorem handleMark_keeps {m : Mark} (h : Keeps s₀ s) : Keeps s₀ (handleMark m s) := by
  unfold handleMark
  split
  · exact acquireMark_keeps (noteEstimate_keeps h)
  · exact trackMark_keeps (noteEstimate_keeps h)
  · exact h
  · exact h

theorem dsvBoundary_keeps (h : Keeps s₀ s) : Keeps s₀ (dsvBoundary s) := by
  simp only [dsvBoundary]
  split
  · split
    · exact enterServo_keeps (modDsv_keeps (modDsv_keeps h rfl id id id) rfl id id id)
    · exact evaluateClass_keeps (modDsv_keeps (modDsv_keeps h rfl id id id) rfl id id id)
  · exact evaluateClass_keeps (modDsv_keeps h rfl id id id)

theorem orderServoSetup_keeps {p : ServoSetupP} {slot : Nat} (h : Keeps s₀ s) : Keeps s₀ (orderServoSetup p slot s) :=
  finish_keeps (modDsv_keeps h rfl id id id)

/-! ## Reference Intake -/

theorem updateRevert_keeps (h : Keeps s₀ s) : Keeps s₀ (updateRevert s) := by
  unfold updateRevert
  exact modRfi_keeps h fun _ => id

theorem applySelection_keeps {mode : SelMode} {active : Option RefInput} {cause : RefChangeCause} (h : Keeps s₀ s) :
    Keeps s₀ (applySelection mode active cause s) := by
  have hrevert := updateRevert_keeps (modRfi_keeps (f := fun r => { r with mode := mode, active := active }) h fun _ => id)
  simp only [applySelection]
  split_ifs
  · exact hrevert
  · exact stage_keeps hrevert
  · exact selectionNotice_keeps (modRfi_keeps hrevert fun _ => id)
  · exact selectionNotice_keeps (modRfi_keeps (stage_keeps hrevert) fun _ => id)

theorem reselect_keeps {cause : RefChangeCause} (h : Keeps s₀ s) : Keeps s₀ (reselect cause s) := by
  unfold reselect
  repeat' split
  · exact applySelection_keeps h
  · exact h
  · exact applySelection_keeps h

theorem changeQual_keeps {i : RefInput} {new : Qual} {cause : RefStateCause} (h : Keeps s₀ s) :
    Keeps s₀ (changeQual i new cause s) := by
  refine stage_keeps (modRef_keeps h fun hf => ?_)
  cases new
  · exact Nat.zero_le _
  all_goals exact hf

theorem reselectIfChanged_keeps {i : RefInput} {was : Bool} (h : Keeps s₀ s) : Keeps s₀ (reselectIfChanged i was s) := by
  unfold reselectIfChanged
  split
  · exact h
  · exact reselect_keeps h

theorem applyJudgement_keeps {i : RefInput} {good : Bool} (h : Keeps s₀ s) : Keeps s₀ (applyJudgement i good s) := by
  simp only [applyJudgement]
  repeat' split
  · exact changeQual_keeps h
  · exact modRef_keeps h id
  · exact modRef_keeps h id
  · exact modRef_keeps h id
  · exact changeQual_keeps h
  · exact modRef_keeps h id
  · exact h
  · exact h

theorem judgeMark_keeps {i : RefInput} {cls : WidthClass} {msg : Option RefMsg} (h : Keeps s₀ s) :
    Keeps s₀ (judgeMark i cls msg s) := by
  simp only [judgeMark]
  split
  · exact applyJudgement_keeps (modRef_keeps (changeQual_keeps h) id)
  · exact applyJudgement_keeps (modRef_keeps h id)

theorem compareUtc_keeps {i : RefInput} {m : RefMsg} (h : Keeps s₀ s) : Keeps s₀ (compareUtc i m s) := by
  simp only [compareUtc]
  split_ifs
  · exact modRfi_keeps h fun _ => id
  · exact stage_keeps (modRfi_keeps (modRfi_keeps h fun _ => id) fun _ => id)
  · exact modRfi_keeps h fun _ => id

theorem handOn_keeps {i : RefInput} {rise : Nat} {cls : WidthClass} {msg : Option RefMsg} (h : Keeps s₀ s) :
    Keeps s₀ (handOn i rise cls msg s) := by
  unfold handOn
  dsimp only
  repeat' split
  · exact handleMark_keeps h
  · exact compareUtc_keeps (handleMark_keeps h)
  · exact h

theorem acceptMark_keeps {i : RefInput} {rise : Nat} {cls : WidthClass} {msg : Option RefMsg} (h : Keeps s₀ s) :
    Keeps s₀ (acceptMark i rise cls msg s) :=
  handOn_keeps (reselectIfChanged_keeps (modRef_keeps (judgeMark_keeps h) id))

theorem dropStale_keeps {i : RefInput} {rise : Nat} (h : Keeps s₀ s) : Keeps s₀ (modRef i (dropStale rise) s) :=
  modRef_keeps h (List.length_filter_le _ _).trans

theorem classifiedPulse_keeps {i : RefInput} {rise : Nat} {cls : WidthClass} (h : Keeps s₀ s) :
    Keeps s₀ (classifiedPulse i rise cls s) := by
  have hused (msg : Option RefMsg) : Keeps s₀ (modRef i (fun r => { r with
      fifo := match msg with | none => r.fifo | some m => r.fifo.erase m
      interval := some rise }) (modRef i (dropStale rise) s)) := by
    refine modRef_keeps (dropStale_keeps h) fun hf => ?_
    cases msg
    · exact hf
    · exact List.length_erase_le.trans hf
  simp only [classifiedPulse]
  split
  · exact acceptMark_keeps (hused _)
  · exact modRef_keeps (hused _) id

theorem makeStuck_keeps {i : RefInput} {high : Bool} {rise : Nat} (h : Keeps s₀ s) : Keeps s₀ (makeStuck i high rise s) :=
  stage_keeps (modRef_keeps h id)

theorem pulseRise_keeps {i : RefInput} {at_ : Instant} (h : Keeps s₀ s) : Keeps s₀ (pulseRise i at_ s) := by
  simp only [pulseRise]
  split
  · exact modRef_keeps h id
  · exact modRef_keeps (modRef_keeps h id) id

theorem endPulse_keeps {i : RefInput} {p : RefPulse} {fall : Nat} (h : Keeps s₀ s) : Keeps s₀ (endPulse i p fall s) := by
  simp only [endPulse]
  split_ifs
  · exact makeStuck_keeps (modRef_keeps h id)
  · exact modRef_keeps h id
  · exact classifiedPulse_keeps (modRef_keeps h id)
  · exact classifiedPulse_keeps (modRef_keeps h id)

theorem pulseFall_keeps {i : RefInput} {at_ : Instant} (h : Keeps s₀ s) : Keeps s₀ (pulseFall i at_ s) := by
  simp only [pulseFall]
  split
  · exact modRef_keeps h id
  · exact endPulse_keeps (modRef_keeps h id)

theorem badMessage_keeps {i : RefInput} (h : Keeps s₀ s) : Keeps s₀ (badMessage i s) := modRef_keeps h id

theorem completeMessage_keeps {i : RefInput} {m : RefMsg} (h : Keeps s₀ s) : Keeps s₀ (completeMessage i m s) := by
  simp only [completeMessage]
  split
  next hroom => exact modRef_keeps h fun _ => by simpa using hroom
  · exact stage_keeps (modRef_keeps h id)

theorem messageChar_keeps {i : RefInput} {c : Character} (h : Keeps s₀ s) : Keeps s₀ (messageChar i c s) := by
  simp only [messageChar]
  repeat' split
  · exact h
  · exact modRef_keeps h id
  · exact h
  · exact badMessage_keeps h
  · exact modRef_keeps h id
  · exact badMessage_keeps h
  · exact completeMessage_keeps h

theorem orderSetRef_keeps {mode : Byte} {slot : Nat} (h : Keeps s₀ s) : Keeps s₀ (orderSetRef mode slot s) := by
  simp only [orderSetRef]
  repeat' split
  · exact finish_keeps (applySelection_keeps h)
  · exact finish_keeps (applySelection_keeps h)
  · exact finish_keeps h
  · exact finish_keeps (applySelection_keeps h)
  · exact finish_keeps h
  · exact finish_keeps h

theorem refEnableEffect_keeps {i : RefInput} {enable baudChanged : Bool} (h : Keeps s₀ s) :
    Keeps s₀ (refEnableEffect i enable baudChanged s) := by
  simp only [refEnableEffect]
  split_ifs
  · exact changeQual_keeps (modRef_keeps h fun _ => Nat.zero_le _)
  · exact h
  · exact modRef_keeps h id
  · exact h
  · exact reselectIfChanged_keeps (changeQual_keeps h)

theorem orderRefSetup_keeps {p : RefSetupP} {slot : Nat} (h : Keeps s₀ s) : Keeps s₀ (orderRefSetup p slot s) := by
  simp only [orderRefSetup]
  repeat' split
  · exact finish_keeps (reselect_keeps (refEnableEffect_keeps (modRfi_keeps (modRef_keeps h id) fun _ => id)))
  · exact finish_keeps (refEnableEffect_keeps (modRfi_keeps (modRef_keeps h id) fun _ => id))
  · exact finish_keeps h

theorem rfiStep_keeps {d : Int} (h : Keeps s₀ s) : Keeps s₀ (rfiStep d s) :=
  modRfi_keeps h fun i hf => by
    have : (atInput (mapPair (RefIn.move d) s.rfi.inputs) i).fifo.length = (atInput s.rfi.inputs i).fifo.length := by
      cases i <;> exact List.length_map _
    exact this ▸ hf

end Sys2Proof.Machine

/-! Keeping the laws, by the Ranging Engine, the Beacon Unit, the Client Roster, the Link Ports, the Pulse Output Unit and the Event
Capture Unit. -/

namespace Sys2Proof.Machine

variable {s₀ s : State}

/-! ## Ranging: windows, voiding and expiry -/

theorem refreshRange_keeps {p : Port} (h : Keeps s₀ s) : Keeps s₀ (refreshRange p s) := modRange_keeps (modLink_keeps h) id id

theorem refreshBoth_keeps (h : Keeps s₀ s) : Keeps s₀ (refreshBoth s) := refreshRange_keeps (refreshRange_keeps h)

theorem clearExpired_keeps {n : Nat} {p : Port} (h : Keeps s₀ s) : Keeps s₀ (clearExpired n p s) := modPath_keeps h id

/-- R105: entries that leave a table leave its law. -/
theorem tableOk_filter {r : RangePort} (q : Exchange → Bool) (h : TableOk r) :
    TableOk { r with table := r.table.filter q } := by
  obtain ⟨hlen, htags, hslots⟩ := h
  exact ⟨(List.length_filter_le _ _).trans hlen, (List.filter_sublist.map _).nodup htags,
    (List.filter_sublist.map _).nodup hslots⟩

theorem voidPort_keeps {p : Port} (h : Keeps s₀ s) : Keeps s₀ (voidPort p s) :=
  modRange_keeps (forEach_keeps_laws h fun _ _ hu => clearExpired_keeps hu)
    (fun _ => ⟨Nat.zero_le _, List.nodup_nil, List.nodup_nil⟩) id

theorem voidPath_keeps {n : Nat} {p : Port} (h : Keeps s₀ s) : Keeps s₀ (voidPath n p s) := by
  unfold voidPath
  split
  · exact clearExpired_keeps (modRange_keeps h (tableOk_filter _) id)
  · exact h

theorem freeEntry_keeps {p : Port} {tag : Byte} (h : Keeps s₀ s) : Keeps s₀ (freeEntry p tag s) :=
  modRange_keeps h (tableOk_filter _) id

theorem expire_keeps {p : Port} {tag : Byte} {e : Exchange} (h : Keeps s₀ s) : Keeps s₀ (expire p tag e s) :=
  refreshRange_keeps (queueIfChanged_keeps (modPath_keeps (freeEntry_keeps h) id))

/-! ## Ranging: the launch -/

/-- A slot is occupied where it holds a client. -/
theorem mem_occupied {n : Nat} : n ∈ occupied s ↔ (client s n).state ≠ .vacant := by
  simp only [occupied, List.mem_map, List.mem_filter, Prod.exists, bne_iff_ne, List.mem_zipIdx_iff_getElem?]
  constructor
  · rintro ⟨c, k, ⟨hc, hv⟩, rfl⟩
    simpa [client, List.getD_eq_getElem?_getD, hc] using hv
  · intro hv
    have hn := lt_of_occupied hv
    exact ⟨client s n, n, ⟨by rw [client_getElem hn]; exact List.getElem?_eq_getElem hn, hv⟩, rfl⟩

/-- R100, R101: the launch arbiter chooses an eligible slot. -/
theorem chooseLaunch_eligible {p : Port} {n : Nat} (h : chooseLaunch s p = some n) : n ∈ eligibleSlots s p := by
  have hfold (xs : List Nat) (best : Option Nat) : xs.foldl (fun best n =>
      match best with
      | none => some n
      | some b => if launchRank (path s n p) < launchRank (path s b p) then some n else some b) best = some n →
      best = some n ∨ n ∈ xs := by
    induction xs generalizing best with
    | nil => exact fun e => .inl e
    | cons x xs ih =>
      intro e
      rcases ih _ e with hbest | hmem
      · cases best with
        | none => exact .inr (by simp_all)
        | some b =>
          by_cases hr : launchRank (path s x p) < launchRank (path s b p)
          · exact .inr (by simp_all)
          · exact .inl (by simpa [hr] using hbest)
      · exact .inr (List.mem_cons_of_mem _ hmem)
  simpa using hfold _ none h

/-- R103: the `k` tags after `t`. -/
def tagsAfter (t : Byte) (k : Nat) : List Byte := (List.range k).map (fun i => t + 1 + BitVec.ofNat 8 i)

/-- R103: the next tag is free, or all that were passed over are taken. -/
theorem nextTag_free_or (used : List Byte) (lastExpired : Option Byte) (fuel : Nat) (t : Byte) :
    (nextTag used lastExpired fuel t ∉ used ∧ lastExpired ≠ some (nextTag used lastExpired fuel t)) ∨
    ∀ x ∈ tagsAfter t fuel, x ∈ used ∨ lastExpired = some x := by
  induction fuel generalizing t with
  | zero => exact .inr (by simp [tagsAfter])
  | succ fuel ih =>
    unfold nextTag
    split
    next htaken =>
      refine (ih (t + 1)).imp_right fun hall x hx => ?_
      obtain ⟨i, hi, rfl⟩ := List.mem_map.1 hx
      cases i with
      | zero => simpa using htaken
      | succ i =>
        refine hall _ (List.mem_map.2 ⟨i, List.mem_range.2 (Nat.lt_of_succ_lt_succ (List.mem_range.1 hi)), ?_⟩)
        rw [show BitVec.ofNat 8 (i + 1) = BitVec.ofNat 8 i + 1 from BitVec.ofNat_add i 1]
        ac_rfl
    next hfree => exact .inl (not_or.1 hfree)

/-- R103: with at most 16 tags in use, one of 17 in a row is neither used nor the last expired. -/
theorem tagsAfter_not_taken {used : List Byte} (lastExpired : Option Byte) (t : Byte) (h : used.length ≤ 15) :
    ¬ ∀ x ∈ tagsAfter t 17, x ∈ used ∨ lastExpired = some x := by
  intro hall
  have hnodup : (tagsAfter t 17).Nodup := by
    refine List.Nodup.map_on (fun i hi j hj e => ?_) List.nodup_range
    have e : BitVec.ofNat 8 i = BitVec.ofNat 8 j := add_left_cancel e
    have := congrArg BitVec.toNat e
    simp only [BitVec.toNat_ofNat, List.mem_range] at this hi hj
    omega
  have hsub : tagsAfter t 17 ⊆ used ++ lastExpired.toList := fun x hx => by simpa using hall x hx
  have hlen := (List.subperm_of_subset hnodup hsub).length_le
  have : lastExpired.toList.length ≤ 1 := by cases lastExpired <;> simp
  simp only [tagsAfter, List.length_map, List.length_range, List.length_append] at hlen
  omega

theorem nextTag_free {used : List Byte} (lastExpired : Option Byte) (t : Byte) (h : used.length ≤ 15) :
    nextTag used lastExpired 17 t ∉ used ∧ lastExpired ≠ some (nextTag used lastExpired 17 t) :=
  (nextTag_free_or used lastExpired 17 t).resolve_right (tagsAfter_not_taken lastExpired t h)

theorem reserve_keeps {p : Port} {n : Nat} {tag : Byte} (h : Keeps s₀ s) (hroom : (rangePort s p).table.length < 16)
    (htag : tag ∉ (rangePort s p).table.map (·.tag)) (hslot : n ∉ (rangePort s p).table.map (·.slot)) :
    Keeps s₀ (reserve p n tag s) :=
  modRange_keeps h (hh := id) (ht := fun ⟨_, htags, hslots⟩ => by
    refine ⟨by simpa using hroom, ?_, ?_⟩ <;> rw [List.map_append, List.map_singleton] <;>
      refine List.nodup_append.2 ⟨by assumption, List.nodup_singleton _, fun a ha b hb => ?_⟩ <;> grind)

theorem joinHistory_keeps {p : Port} {stamp : Nat} (h : Keeps s₀ s) : Keeps s₀ (joinHistory p stamp s) :=
  modRange_keeps h (fun ht => ht) fun _ => by simp only [List.length_drop]; omega

/-- R104: the stamp of a departure leaves tags and slots. -/
theorem stampEntry_same (stamp wait : Nat) (tag : Byte) (e : Exchange) :
    (stampEntry stamp wait tag e).tag = e.tag ∧ (stampEntry stamp wait tag e).slot = e.slot := by
  unfold stampEntry; split <;> exact ⟨rfl, rfl⟩

theorem departed_keeps {p : Port} {n : Nat} {tag : Byte} {stamp : Nat} (h : Keeps s₀ s) : Keeps s₀ (departed p n tag stamp s) := by
  refine joinHistory_keeps (modPath_keeps (modRange_keeps h (fun ht => ?_) id) id)
  simpa [TableOk, Function.comp_def, stampEntry_same] using ht

/-! ## Ranging: Echoes and debt -/

/-- A path's debt and state as an Echo's processing may leave them. -/
def echoStep (q r : Path) : Prop :=
  r.debt = q.debt ∧ (r.state = q.state ∨ q.state = .seeding ∧ r.state = .valid) ∨
    q.state = .lost ∧ r.state = .seeding ∧ r.debt = 0

theorem outside_echoStep (x d seeds : Nat) (q : Path) : echoStep q (outside x d seeds q).path := by
  unfold outside; split <;> exact .inl ⟨rfl, .inl rfl⟩

theorem seedSample_echoStep (d x : Nat) {q : Path} (h : q.state = .seeding) : echoStep q (seedSample d x q) := by
  by_cases hs : 4 ≤ q.seeds + 1
  · exact .inl ⟨rfl, .inr ⟨h, if_pos hs⟩⟩
  · exact .inl ⟨rfl, .inl ((if_neg hs).trans h.symm)⟩

theorem filterSample_echoStep (cfg : PathConfig) (x : Nat) (q : Path) : echoStep q (filterSample cfg x q).path := by
  unfold filterSample
  split
  next hs => exact .inr ⟨hs, rfl, rfl⟩
  next => exact .inl ⟨rfl, .inl rfl⟩
  next hs _ =>
    split
    · exact seedSample_echoStep _ _ hs
    · exact outside_echoStep ..
  next =>
    split
    · exact .inl ⟨rfl, .inl rfl⟩
    · exact outside_echoStep ..
  next => exact .inl ⟨rfl, .inl rfl⟩
  next => exact .inl ⟨rfl, .inl rfl⟩

theorem judgeEcho_echoStep (cfg : PathConfig) (ceiling t1 : Nat) (e : Echo) (q : Path) :
    echoStep q (judgeEcho cfg ceiling t1 e q).path := by
  unfold judgeEcho
  dsimp only
  split
  · exact filterSample_echoStep cfg _ { q with clamps := _ }
  · exact .inl ⟨rfl, .inl rfl⟩

/-- R98, R99: an Echo processed keeps the law of debt. -/
theorem processed_debtOk {q : Path} (cfg : PathConfig) (ceiling t1 : Nat) (e : Echo) (h : PathDebtOk q) :
    let f := judgeEcho cfg ceiling t1 e q
    PathDebtOk (countOutcome f.outcome (payDebt q.state f.path)) := by
  intro f
  have hcount (o : EchoOutcome) (r : Path) : PathDebtOk r → PathDebtOk (countOutcome o r) := by cases o <;> exact id
  refine hcount _ _ ?_
  obtain ⟨hle, hlost, hidle⟩ := h
  obtain ⟨hd, hs⟩ | ⟨hs, hs', hd⟩ := judgeEcho_echoStep cfg ceiling t1 e q
  · unfold payDebt PathDebtOk
    cases hq : q.state <;> simp_all <;> grind
  · unfold payDebt PathDebtOk
    rw [hs]
    simp [f, hs', hd]

theorem pathRecords_keeps {n : Nat} {p : Port} {before : PathState} {f : Filtered} (h : Keeps s₀ s) :
    Keeps s₀ (pathRecords n p before f s) := by
  simp only [pathRecords]
  repeat' split
  · exact stage_keeps h
  · exact h
  · exact stage_keeps (stage_keeps h)
  · exact stage_keeps h

theorem storeOutcome_same (o : EchoOutcome) (status : SelfStatus) (offset : Int) (c : Client) :
    (storeOutcome o status offset c).state = c.state ∧ (storeOutcome o status offset c).config = c.config ∧
      (storeOutcome o status offset c).paths = c.paths := by
  cases o <;> exact ⟨rfl, rfl, rfl⟩

theorem processEcho_keeps {n : Nat} {p : Port} {t1 : Nat} {e : Echo} (h : Keeps s₀ s) : Keeps s₀ (processEcho n p t1 e s) := by
  have hstored {o : EchoOutcome} {status : SelfStatus} {offset : Int} {before : Client} {cause : ClientCause} {u : State}
      (hu : Keeps s₀ u) :
      Keeps s₀ (queueIfChanged n before (evaluate n cause (modClient n (storeOutcome o status offset) u))) := by
    obtain ⟨hs, hc, hp⟩ := storeOutcome_same o status offset (client u n)
    exact queueIfChanged_keeps (evaluate_keeps (modClient_keeps hu (addrFree_of_same hs (by rw [hc])) (by rw [hp]; exact id)))
  simp only [processEcho]
  split
  · exact joinRoll_keeps (hstored (pathRecords_keeps (modPath_keeps h (processed_debtOk _ _ _ e))))
  · exact hstored (pathRecords_keeps (modPath_keeps h (processed_debtOk _ _ _ e)))

theorem handleEcho_keeps {p : Port} {e : Echo} (h : Keeps s₀ s) : Keeps s₀ (handleEcho p e s) := by
  unfold handleEcho
  split
  · exact processEcho_keeps (freeEntry_keeps h)
  · split
    · exact queueIfChanged_keeps (modPath_keeps h id)
    · exact modLink_keeps h

theorem orderRangingSetup_keeps {p : RangingSetupP} {slot : Nat} (h : Keeps s₀ s) : Keeps s₀ (orderRangingSetup p slot s) :=
  finish_keeps (refreshBoth_keeps (h.trans {}))

theorem addDebt_keeps {epoch n : Nat} {p : Port} (h : Keeps s₀ s) : Keeps s₀ (addDebt epoch n p s) := by
  simp only [addDebt]
  split_ifs with hdue hlost
  · exact stage_keeps (modPath_keeps h fun _ => by simp [PathDebtOk])
  · refine modPath_keeps h fun ⟨hle, hiff, hidle⟩ => ?_
    have hstate : (path s n p).state = .seeding ∨ (path s n p).state = .valid := by
      simp only [due, Bool.and_eq_true, Bool.or_eq_true, beq_iff_eq] at hdue
      exact hdue.1
    refine ⟨by dsimp only; omega, ?_, ?_⟩ <;> obtain hs | hs := hstate <;> simp [hs] <;> omega
  · exact h

theorem joinIfLost_keeps {before : Client} {n : Nat} {p : Port} (h : Keeps s₀ s) : Keeps s₀ (joinIfLost before n p s) := by
  unfold joinIfLost
  split
  · exact joinRoll_keeps h
  · exact h

theorem clientDebt_keeps {epoch n : Nat} (h : Keeps s₀ s) : Keeps s₀ (clientDebt epoch n s) :=
  joinIfLost_keeps (joinIfLost_keeps (queueIfChanged_keeps (evaluate_keeps (addDebt_keeps (addDebt_keeps h)))))

theorem rngStep_keeps {d : Int} (h : Keeps s₀ s) : Keeps s₀ (rngStep d s) := by
  refine (voidPort_keeps (p := .b) (voidPort_keeps (p := .a) h)).trans ?_
  exact {
    table := fun p hp => by cases p <;> exact hp
    history := fun p hp => by cases p <;> exact (List.length_map _).trans_le hp }

theorem rngBoundary_keeps {r : Report} (h : Keeps s₀ s) : Keeps s₀ (rngBoundary r s) := by
  have hstep : Keeps s₀ (match r.step with | none => s | some d => rngStep d s) := by
    split
    · exact h
    · exact rngStep_keeps h
  exact refreshBoth_keeps (forEach_keeps_laws hstep fun _ _ hu => clientDebt_keeps hu)

/-! ## Beacon Unit -/

theorem beaconEnterUp_keeps {p : Port} (h : Keeps s₀ s) : Keeps s₀ (beaconEnterUp p s) := modBeacon_keeps h id

theorem handRate_keeps {p : Port} {rate : Nat} (h : Keeps s₀ s) : Keeps s₀ (handRate p rate s) := by
  unfold handRate
  split
  · exact modBeacon_keeps h id
  · exact modBeacon_keeps h id

theorem scheduleAt_roll (r : Report) (b : BeaconPort) : (scheduleAt r b).roll = b.roll := by
  unfold scheduleAt; dsimp only; split <;> rfl

theorem boundarySchedule_keeps {r : Report} {p : Port} (h : Keeps s₀ s) : Keeps s₀ (boundarySchedule r p s) := by
  unfold boundarySchedule
  split
  · exact modBeacon_keeps h (by rw [scheduleAt_roll]; exact id)
  · exact h

theorem modNotice_keeps {i : Nat} {f : Notice → Notice} (h : Keeps s₀ s) : Keeps s₀ (modNotice i f s) :=
  modBcu_keeps h rfl (List.length_modify ..) fun _ => rfl

theorem putNotice_keeps {i : Nat} {n : Option Notice} (h : Keeps s₀ s) : Keeps s₀ (putNotice i n s) :=
  modBcu_keeps h rfl List.length_set fun p => by cases p <;> rfl

theorem freeNotice_keeps {i : Nat} {n : Notice} {cause : NoticeCause} (h : Keeps s₀ s) : Keeps s₀ (freeNotice i n cause s) :=
  stage_keeps (putNotice_keeps h)

theorem settleOnce_keeps {i : Nat} (h : Keeps s₀ s) : Keeps s₀ (settleOnce i s) := by
  unfold settleOnce
  repeat' split
  · exact h
  · exact freeNotice_keeps h
  · exact h

theorem noticeLeaveUp_keeps {p : Port} {i : Nat} (h : Keeps s₀ s) : Keeps s₀ (noticeLeaveUp p i s) := by
  unfold noticeLeaveUp
  repeat' split
  · exact h
  · exact settleOnce_keeps (modNotice_keeps h)
  · exact h

theorem noticeEpoch_keeps {i : Nat} (h : Keeps s₀ s) : Keeps s₀ (noticeEpoch i s) := by
  unfold noticeEpoch
  repeat' split
  · exact freeNotice_keeps h
  all_goals exact h

theorem orderNoticePost_keeps {p : NoticePostP} {slot : Nat} (h : Keeps s₀ s) : Keeps s₀ (orderNoticePost p slot s) := by
  simp only [orderNoticePost]
  repeat' split
  · exact finish_keeps h
  · exact finish_keeps h
  · exact finish_keeps h
  · exact finish_keeps (settleOnce_keeps (putNotice_keeps h))

theorem orderNoticeWithdraw_keeps {index : Byte} {slot : Nat} (h : Keeps s₀ s) : Keeps s₀ (orderNoticeWithdraw index slot s) := by
  unfold orderNoticeWithdraw
  split_ifs
  · exact finish_keeps h
  · exact finish_keeps h
  · exact finish_keeps (putNotice_keeps h)

theorem markCarried_slots (k : Nat) (roll : List RollEntry) : (markCarried k roll).map (·.slot) = roll.map (·.slot) := by
  simp only [markCarried, List.map_append, List.map_map, Function.comp_def]
  rw [← List.map_append, List.take_append_drop]

theorem buildBeacon_keeps {p : Port} (h : Keeps s₀ s) : Keeps s₀ (buildBeacon p s).2 :=
  modBeacon_keeps h (by simp only [markCarried_slots]; exact id)

theorem recordAnnounced_keeps {p : Port} {stamp : Nat} {e : BuiltEntry} (h : Keeps s₀ s) :
    Keeps s₀ (recordAnnounced p stamp e s) := by
  unfold recordAnnounced
  split
  · exact modPath_keeps h id
  · exact h

theorem advanceNotice_keeps {p : Port} {ns : List BuiltNotice} {i : Nat} (h : Keeps s₀ s) : Keeps s₀ (advanceNotice p ns i s) := by
  unfold advanceNotice
  repeat' split
  · exact modNotice_keeps h
  · exact settleOnce_keeps (modNotice_keeps h)
  · exact h

theorem completeBeacon_keeps {p : Port} {stamp : Nat} (h : Keeps s₀ s) : Keeps s₀ (completeBeacon p stamp s) := by
  unfold completeBeacon
  split
  · exact h
  · refine forEach_keeps_laws (modBeacon_keeps (forEach_keeps_laws h fun _ _ hu => recordAnnounced_keeps hu) ?_)
      fun _ _ hu => advanceNotice_keeps hu
    exact (List.filter_sublist.map _).nodup

theorem beaconLeaveUp_keeps {p : Port} (h : Keeps s₀ s) : Keeps s₀ (beaconLeaveUp p s) :=
  forEach_keeps_laws (modBeacon_keeps h (by simp only [List.map_map, Function.comp_def]; exact id))
    fun _ _ hu => noticeLeaveUp_keeps hu

theorem announceBoundary_keeps {r : Report} {p : Port} {n : Nat} (h : Keeps s₀ s) : Keeps s₀ (announceBoundary r p n s) := by
  unfold announceBoundary
  split
  · exact joinRoll_keeps h
  · exact h

theorem bcuBoundary_keeps {r : Report} (h : Keeps s₀ s) : Keeps s₀ (bcuBoundary r s) := by
  have hstep : Keeps s₀ (match r.step with
      | none => s
      | some d => modCrs (fun c => { c with clients := c.clients.map (moveAnnounced d) }) s) := by
    split
    · exact h
    · exact mapClients_keeps h (fun c => ⟨rfl, rfl, fun p hp => by cases p <;> exact hp⟩) rfl
  exact forEach_keeps_laws (forEach_keeps_laws (boundarySchedule_keeps (boundarySchedule_keeps hstep))
    fun _ _ hu => announceBoundary_keeps (announceBoundary_keeps hu)) fun _ _ hu => noticeEpoch_keeps hu

/-! ## Client Roster -/

theorem dropNewcomer_keeps {addr : MacAddr} (h : Keeps s₀ s) : Keeps s₀ (dropNewcomer addr s) :=
  modNewcomers_keeps h (List.filter_sublist.map _)

theorem not_mem_dropNewcomer {addr : MacAddr} : ∀ e ∈ (dropNewcomer addr s).crs.newcomers, e.addr ≠ addr := by
  simp [dropNewcomer]

/-- R78, R80: an address that no other slot holds. -/
theorem duplicateAddr_eq_false {addr : MacAddr} {n : Nat} (h : duplicateAddr addr n s = false) :
    ∀ m, m ≠ n → ¬ holdsAddr s m addr := by
  rintro m hm ⟨hv, ha⟩
  have := List.any_eq_false.1 h m (mem_occupied.2 hv)
  simp [hm, ha] at this

theorem freshPath_debtOk (al : Allowed) (p : Port) : PathDebtOk (freshPath al p) := by
  unfold freshPath
  split <;> simp [PathDebtOk, Path.seeding, Path.idle]

theorem freshPaths_debtOk (al : Allowed) (p : Port) : PathDebtOk (atPort (freshPaths al) p) := by
  cases p <;> exact freshPath_debtOk al _

/-- R79: ADMIT makes a client at an address that no other client has, and takes it from the newcomers. -/
theorem makeClient_keeps {n : Nat} {cfg : ClientConfig} (h : Keeps s₀ s) (hdup : duplicateAddr cfg.addr n s = false) :
    Keeps s₀ (makeClient n cfg s) := by
  have hmade : Keeps s₀ (dropNewcomer cfg.addr (modClient n (admittedClient cfg) s)) :=
    dropNewcomer_keeps (modClient_keeps h (fun hv => absurd rfl hv) fun _ => freshPaths_debtOk cfg.allowed)
  refine refreshBoth_keeps (settleState_keeps hmade fun _ hn => .inr ?_)
  have hclient : client (dropNewcomer cfg.addr (modClient n (admittedClient cfg) s)) n = admittedClient cfg (client s n) :=
    client_modClient _ (by simpa [dropNewcomer] using hn)
  rw [hclient]
  refine ⟨fun m hm hheld => duplicateAddr_eq_false hdup m hm ?_, not_mem_dropNewcomer⟩
  have e : client (dropNewcomer cfg.addr (modClient n (admittedClient cfg) s)) m = client s m := client_modClient_ne _ s hm
  obtain ⟨hv, ha⟩ := hheld
  rw [e] at hv ha
  exact ⟨hv, ha⟩

theorem admitRead_keeps {n : Nat} {bytes : List Byte} {slot : Nat} (h : Keeps s₀ s) : Keeps s₀ (admitRead n bytes slot s) := by
  unfold admitRead
  repeat' split
  · exact finish_keeps h
  · exact finish_keeps h
  next hdup => exact finish_keeps (makeClient_keeps h (by simpa using hdup))

theorem reconfigured_debtOk {q : Path} (allowed changed : Bool) (h : PathDebtOk q) : PathDebtOk (reconfigured allowed changed q) := by
  obtain ⟨hle, hlost, hidle⟩ := h
  unfold reconfigured PathDebtOk
  cases hs : q.state <;> cases allowed <;> cases changed <;> simp_all [Path.seeding, Path.idle]

theorem reconfigPath_keeps {n : Nat} {p : Port} {old new : ClientConfig} (h : Keeps s₀ s) :
    Keeps s₀ (reconfigPath n p old new s) := by
  have hpath := modPath_keeps (n := n) (p := p)
    (f := reconfigured (allows new.allowed p) (atPort old.path p != atPort new.path p)) h (reconfigured_debtOk _ _)
  simp only [reconfigPath]
  split_ifs
  · exact hpath
  · exact leaveRoll_keeps (voidPath_keeps hpath)
  · exact joinRoll_keeps hpath
  · exact hpath

theorem dropNewcomer_voidPath (addr : MacAddr) (n : Nat) (p : Port) (s : State) :
    dropNewcomer addr (voidPath n p s) = voidPath n p (dropNewcomer addr s) := by
  have e : hasEntry (dropNewcomer addr s) p n = hasEntry s p n := rfl
  unfold voidPath
  rw [e]
  split <;> rfl

/-- R80: the new address may leave the newcomers before it is installed. -/
theorem readdress_eq (n : Nat) (new : ClientConfig) (s : State) :
    readdress n new s = modClient n (fun c => { c with
      paths := freshPaths new.allowed, offsetV := Judged.reset, pulseV := Judged.reset, offset := none,
      pulseError := none, selfStatus := none, lastHail := none })
      (leaveRoll .b n (leaveRoll .a n (voidPath n .b (voidPath n .a (dropNewcomer new.addr s))))) := by
  rw [← dropNewcomer_voidPath, ← dropNewcomer_voidPath]
  rfl

theorem installConfig_keeps {n : Nat} {new : ClientConfig} (h : Keeps s₀ s) (hdup : duplicateAddr new.addr n s = false) :
    Keeps s₀ (installConfig n new s) := by
  have hchanged : Keeps s₀ (if (client s n).config.addr != new.addr
      then readdress n new (modClient n (fun c => { c with config := new }) s)
      else reconfigPath n .b (client s n).config new (reconfigPath n .a (client s n).config new
        (modClient n (fun c => { c with config := new }) s))) := by
    split
    · have hinstalled : Keeps s₀ (modClient n (fun c => { c with config := new }) (dropNewcomer new.addr s)) :=
        modClient_keeps (dropNewcomer_keeps h) (fun _ _ => .inr ⟨duplicateAddr_eq_false hdup, not_mem_dropNewcomer⟩) id
      rw [readdress_eq]
      exact modClient_keeps (leaveRoll_keeps (leaveRoll_keeps (voidPath_keeps (voidPath_keeps hinstalled))))
        (addrFree_of_same rfl rfl) fun _ => freshPaths_debtOk _
    next hsame =>
      have e : (client s n).config.addr = new.addr := by simpa using hsame
      exact reconfigPath_keeps (reconfigPath_keeps (modClient_keeps h (addrFree_of_same rfl e.symm) id))
  simp only [installConfig]
  split
  · exact refreshBoth_keeps (queuePub_keeps (evaluate_keeps (modClient_keeps hchanged (addrFree_of_same rfl rfl) id)))
  · exact refreshBoth_keeps (queuePub_keeps (evaluate_keeps hchanged))

theorem reconfigRead_keeps {n : Nat} {bytes : List Byte} {slot : Nat} (h : Keeps s₀ s) :
    Keeps s₀ (reconfigRead n bytes slot s) := by
  unfold reconfigRead
  repeat' split
  · exact finish_keeps h
  · exact finish_keeps h
  next hdup => exact finish_keeps (installConfig_keeps h (by simpa using hdup))

theorem orderAdmit_keeps {c : BitVec 16} {slot : Nat} (h : Keeps s₀ s) : Keeps s₀ (orderAdmit c slot s) := by
  unfold orderAdmit
  split
  · exact finish_keeps h
  · exact admitRead_keeps h

theorem orderReconfig_keeps {c : BitVec 16} {slot : Nat} (h : Keeps s₀ s) : Keeps s₀ (orderReconfig c slot s) := by
  unfold orderReconfig
  split
  · exact finish_keeps h
  · exact reconfigRead_keeps h

theorem removeClient_keeps {n : Nat} (h : Keeps s₀ s) : Keeps s₀ (removeClient n s) := by
  refine refreshBoth_keeps (changeState_keeps (modClient_keeps
    (leaveRoll_keeps (leaveRoll_keeps (voidPath_keeps (voidPath_keeps h)))) (addrFree_of_same rfl rfl) fun _ p => ?_)
    fun hv => absurd rfl hv)
  exact reset_pathDebtOk p

theorem orderRetire_keeps {c : BitVec 16} {slot : Nat} (h : Keeps s₀ s) : Keeps s₀ (orderRetire c slot s) := by
  unfold orderRetire
  split
  · exact finish_keeps h
  · exact finish_keeps (removeClient_keeps h)

theorem knownHail_keeps {n : Nat} {p : Port} {stamp : Nat} (h : Keeps s₀ s) : Keeps s₀ (knownHail n p stamp s) := by
  simp only [knownHail]
  split
  · exact modPath_keeps (queuePub_keeps (modClient_keeps h (addrFree_of_same rfl rfl) id)) id
  · exact queuePub_keeps (modClient_keeps h (addrFree_of_same rfl rfl) id)

/-- R89: an address that no client holds. -/
theorem clientByAddr_eq_none {addr : MacAddr} (h : clientByAddr addr s = none) (n : Nat) : ¬ holdsAddr s n addr := by
  rintro ⟨hv, ha⟩
  have := List.find?_eq_none.1 h n (mem_occupied.2 hv)
  simp [ha] at this

/-- R90: a newcomer at an address that neither a client nor a newcomer has. -/
theorem addNewcomer_keeps {e : Newcomer} (h : Keeps s₀ s) (hroom : s.crs.newcomers.length < 16)
    (hnew : ∀ x ∈ s.crs.newcomers, x.addr ≠ e.addr) (hheld : ∀ n, ¬ holdsAddr s n e.addr) :
    Keeps s₀ (modCrs (fun r => { r with newcomers := r.newcomers ++ [e] }) s) :=
  h.trans {
    newcomers := fun _ => by simpa using hroom
    addresses := fun hok => by
      obtain ⟨hclients, hnodup, hboth⟩ := addressesOk_iff.1 hok
      refine addressesOk_iff.2 ⟨hclients, ?_, fun x hx n hn => ?_⟩
      · rw [modCrs_crs, List.map_append, List.map_singleton]
        refine List.nodup_append.2 ⟨hnodup, List.nodup_singleton _, fun a ha b hb => ?_⟩
        obtain ⟨x, hx, rfl⟩ := List.mem_map.1 ha
        rw [List.mem_singleton.1 hb]
        exact hnew x hx
      · obtain hx | hx := List.mem_append.1 hx
        · exact hboth x hx n hn
        · rw [List.mem_singleton.1 hx] at hn
          exact hheld n hn }

theorem newcomerHail_keeps {p : Port} {hl : Hail} (h : Keeps s₀ s) (hheld : ∀ n, ¬ holdsAddr s n hl.src) :
    Keeps s₀ (newcomerHail p hl s) := by
  simp only [newcomerHail]
  split_ifs with hknown hroom
  · refine modNewcomers_keeps (f := fun xs => xs.map fun e => if e.addr = hl.src then { e with heard := hl.stamp } else e) h ?_
    rw [List.map_map, List.map_congr_left fun e _ => by simp only [Function.comp]; split <;> rfl]
  · refine stage_keeps (addNewcomer_keeps h hroom (fun x hx ha => hknown ?_) hheld)
    exact List.any_eq_true.2 ⟨x, hx, by simpa using ha⟩
  · exact modCrs_keeps h rfl rfl id

theorem handleHail_keeps {p : Port} {hl : Hail} (h : Keeps s₀ s) : Keeps s₀ (handleHail p hl s) := by
  unfold handleHail
  split
  · exact knownHail_keeps h
  next hnone => exact newcomerHail_keeps h (clientByAddr_eq_none hnone)

theorem stepClient_keeps {n : Nat} (h : Keeps s₀ s) : Keeps s₀ (stepClient n s) :=
  queueIfChanged_keeps (evaluate_keeps (modClient_keeps h (addrFree_of_same rfl rfl) id))

theorem crsStep_keeps {d : Int} (h : Keeps s₀ s) : Keeps s₀ (crsStep d s) :=
  forEach_keeps_laws (modNewcomers_keeps (f := List.map fun e => { e with heard := moveBy d e.heard }) h
    (by rw [List.map_map]; rfl)) fun _ _ hu => stepClient_keeps hu

theorem crsBoundary_keeps {r : Report} (h : Keeps s₀ s) : Keeps s₀ (crsBoundary r s) := by
  have hstep : Keeps s₀ (match r.step with | none => s | some d => crsStep d s) := by
    split
    · exact h
    · exact crsStep_keeps h
  exact modNewcomers_keeps hstep (List.filter_sublist.map _)

/-! ## Link Ports -/

theorem leaveUp_keeps {p : Port} {new : PortState} (h : Keeps s₀ s) : Keeps s₀ (leaveUp p new s) :=
  refreshRange_keeps (beaconLeaveUp_keeps (voidPort_keeps (modLink_keeps h)))

theorem enterUp_keeps {p : Port} (h : Keeps s₀ s) : Keeps s₀ (enterUp p s) :=
  refreshRange_keeps (beaconEnterUp_keeps (modLink_keeps h))

theorem linkLevel_keeps {p : Port} {level : Bool} (h : Keeps s₀ s) : Keeps s₀ (linkLevel p level s) := by
  simp only [linkLevel]
  repeat' split
  · exact modLink_keeps h
  · exact enterUp_keeps (modLink_keeps h)
  · exact modLink_keeps h
  · exact modLink_keeps h
  · exact leaveUp_keeps (modLink_keeps h)

theorem enableEffect_keeps {p : Port} {enable : Bool} (h : Keeps s₀ s) : Keeps s₀ (enableEffect p enable s) := by
  unfold enableEffect
  repeat' split
  · exact h
  · exact enterUp_keeps h
  · exact modLink_keeps h
  · exact h
  · exact modLink_keeps h
  · exact h
  · exact leaveUp_keeps h

theorem orderPortSetup_keeps {p : PortSetupP} {slot : Nat} (h : Keeps s₀ s) : Keeps s₀ (orderPortSetup p slot s) := by
  unfold orderPortSetup
  split
  · exact finish_keeps h
  · exact finish_keeps (refreshRange_keeps (enableEffect_keeps (handRate_keeps (modLink_keeps h))))

theorem startFrame_keeps {p : Port} {kind : TxKind} {bytes : List Byte} (h : Keeps s₀ s) :
    Keeps s₀ (startFrame p kind bytes s) := modLink_keeps h

theorem grantBeacon_keeps {p : Port} (h : Keeps s₀ s) : Keeps s₀ (grantBeacon p s) :=
  startFrame_keeps (buildBeacon_keeps (modLink_keeps h))

/-- R103, R105: the grant of a Range reserves an entry with a fresh tag for a path that has none. -/
theorem grantRange_keeps {p : Port} (h : Keeps s₀ s) (hroom : (rangePort s p).table.length < 16) :
    Keeps s₀ (grantRange p s) := by
  unfold grantRange
  dsimp only
  split
  · exact modLink_keeps h
  next n hchosen =>
    have heligible := (List.mem_filter.1 (chooseLaunch_eligible hchosen)).2
    refine refreshRange_keeps (startFrame_keeps (reserve_keeps (modLink_keeps h) hroom
      (nextTag_free _ _ ?_).1 fun hslot => ?_))
    · rw [List.length_map]
      exact Nat.le_of_lt_succ hroom
    · obtain ⟨e, he, hn⟩ := List.mem_map.1 hslot
      have hentry : (rangePort s p).table.any (·.slot == n) = true := List.any_eq_true.2 ⟨e, he, by simpa using hn⟩
      simp only [eligible, Bool.and_eq_true, Bool.not_eq_true'] at heligible
      obtain ⟨⟨⟨-, hfree⟩, -⟩, -⟩ := heligible
      exact Bool.false_ne_true (hfree.symm.trans hentry)

/-- R100: a Range request brought up to date is present only with a free entry. -/
theorem room_of_refreshRange {p : Port} (h : (link (refreshRange p s) p).rangeReq = true) :
    (rangePort (refreshRange p s) p).table.length < 16 := by
  have hreq : launchPermitted s p = true := by
    have e : link (refreshRange p s) p = link (modLink p (fun l => { l with rangeReq := launchPermitted s p }) s) p := rfl
    rw [e, link_modLink] at h
    exact h
  simp only [launchPermitted, Bool.and_eq_true, decide_eq_true_eq] at hreq
  rw [refreshRange, rangePort_modRange]
  exact hreq.1.2

theorem grant_keeps {p : Port} (h : Keeps s₀ s)
    (hroom : (link s p).rangeReq = true → (rangePort s p).table.length < 16) : Keeps s₀ (grant p s) := by
  unfold grant
  split_ifs with hbeacon hrange
  · exact grantBeacon_keeps h
  · exact grantRange_keeps h (hroom hrange)
  · exact h

theorem arbiterFree_keeps {p : Port} (h : Keeps s₀ s) : Keeps s₀ (arbiterFree p s) := by
  unfold arbiterFree
  split_ifs
  · exact h
  · exact grant_keeps (refreshRange_keeps (modLink_keeps h)) room_of_refreshRange
  · exact h

theorem txTimestamp_keeps {p : Port} {at_ : Instant} (h : Keeps s₀ s) : Keeps s₀ (txTimestamp p at_ s) := by
  simp only [txTimestamp]
  repeat' split
  · exact h
  · exact h
  · exact refreshRange_keeps (completeBeacon_keeps (modLink_keeps h))
  · exact refreshRange_keeps (departed_keeps (modLink_keeps h))

theorem rxTimestamp_keeps {p : Port} {at_ : Instant} (h : Keeps s₀ s) : Keeps s₀ (rxTimestamp p at_ s) := by
  unfold rxTimestamp
  split
  · exact modLink_keeps h
  · exact h

theorem dropFrame_keeps {p : Port} (h : Keeps s₀ s) : Keeps s₀ (dropFrame p s) := modLink_keeps h

theorem receiveBeacon_keeps {p : Port} {f : RxFrame} {stamp : Nat} (h : Keeps s₀ s) : Keeps s₀ (receiveBeacon p f stamp s) := by
  simp only [receiveBeacon]
  repeat' split
  · exact dropFrame_keeps h
  · exact modLink_keeps h
  · exact stage_keeps (modLink_keeps (modLink_keeps h))

theorem dispatch_keeps {p : Port} {f : RxFrame} {stamp : Nat} (h : Keeps s₀ s) : Keeps s₀ (dispatch p f stamp s) := by
  unfold dispatch
  repeat' split
  · exact receiveBeacon_keeps h
  · exact dropFrame_keeps h
  · exact dropFrame_keeps h
  · exact handleEcho_keeps (modLink_keeps h)
  · exact dropFrame_keeps h
  · exact handleHail_keeps (modLink_keeps h)
  · exact dropFrame_keeps h

theorem frameReceived_keeps {p : Port} {bytes : List Byte} (h : Keeps s₀ s) : Keeps s₀ (frameReceived p bytes s) := by
  simp only [frameReceived]
  repeat' split
  · exact h
  · exact refreshRange_keeps (dispatch_keeps (modLink_keeps h))
  · exact refreshRange_keeps (dropFrame_keeps (modLink_keeps h))
  · exact modLink_keeps h

theorem lnkBoundary_keeps {r : Report} (h : Keeps s₀ s) : Keeps s₀ (lnkBoundary r s) := by
  unfold lnkBoundary
  split
  · exact h
  · exact h.trans {}

/-! ## Pulse Output Unit -/

/-- R154: a channel without a pulse in progress. -/
theorem quietIfClosed_of_none {isOpen : Bool} {ch : Channel} (h : ch.fall = none) : quietIfClosed isOpen ch := fun _ _ => h

theorem riseChannel_keeps {c r : Nat} (h : Keeps s₀ s) : Keeps s₀ (riseChannel c r s) := by
  refine modChannel_keeps h fun hq => ?_
  split
  next hdriven =>
    intro hgated hclosed
    have hgated : (channel s c).active.gated = true := hgated
    simp [gateSilences, hgated, hclosed] at hdriven
  · exact hq

theorem fallChannel_quiet {tb : Timebase} {isOpen : Bool} {ch : Channel} (h : quietIfClosed isOpen ch) :
    quietIfClosed isOpen (fallChannel tb ch) := by
  have hend : quietIfClosed isOpen (endFall tb ch) := by
    unfold endFall
    repeat' split
    · exact h
    · exact quietIfClosed_of_none rfl
    · exact h
  simp only [fallChannel]
  split
  · exact quietIfClosed_of_none rfl
  · exact hend

theorem replacePending_keeps {c : Nat} (h : Keeps s₀ s) : Keeps s₀ (replacePending c s) := by
  unfold replacePending
  split
  · exact h
  · exact finish_keeps h

theorem orderPulseProgram_keeps {p : PulseProgramP} {slot : Nat} (h : Keeps s₀ s) : Keeps s₀ (orderPulseProgram p slot s) := by
  simp only [orderPulseProgram]
  repeat' split
  · exact finish_keeps h
  · exact finish_keeps h
  · exact finish_keeps h
  · exact modChannel_keeps (replacePending_keeps h) id

theorem transferred_active (isOpen : Bool) (sc : Schedule) (ch : Channel) : (transferred isOpen sc ch).active = sc := by
  simp only [transferred]
  split_ifs <;> rfl

/-- R148, R154: a schedule that becomes active leaves no gated pulse under a CLOSED gate. -/
theorem transferred_quiet (isOpen : Bool) (sc : Schedule) (ch : Channel) : quietIfClosed isOpen (transferred isOpen sc ch) := by
  intro hgated hclosed
  rw [transferred_active] at hgated
  simp only [transferred, hgated, hclosed, Bool.not_false, Bool.and_self, Bool.or_true, if_true]
  split_ifs <;> rfl

theorem transfer_keeps {r : Report} {c : Nat} (h : Keeps s₀ s) : Keeps s₀ (transfer r c s) := by
  unfold transfer
  split
  · exact h
  · exact complete_keeps (modChannel_keeps h fun _ => transferred_quiet _ _ _)

theorem dropPending_keeps {slot : Nat} (h : Keeps s₀ s) : Keeps s₀ (dropPending slot s) :=
  mapChannels_keeps h fun ch hq => by split <;> exact hq

theorem orderPulseArm_keeps {p : PulseArmP} {slot : Nat} (h : Keeps s₀ s) : Keeps s₀ (orderPulseArm p slot s) := by
  simp only [orderPulseArm]
  repeat' split
  · exact finish_keeps h
  · exact finish_keeps h
  · exact finish_keeps h
  · exact finish_keeps h
  · exact forEach_keeps_laws h fun _ _ hu => modChannel_keeps hu id

theorem startChannel_quiet {isOpen : Bool} {t : Nat} {ch : Channel} (h : quietIfClosed isOpen ch) :
    quietIfClosed isOpen (startChannel t ch) := by
  simp only [startChannel]
  split
  · exact quietIfClosed_of_none rfl
  · exact h

theorem startArm_keeps {r : Report} {slot : Nat} (h : Keeps s₀ s) : Keeps s₀ (startArm r slot s) := by
  unfold startArm
  split
  · exact complete_keeps (forEach_keeps_laws h fun _ _ hu => modChannel_keeps hu startChannel_quiet)
  · exact h

theorem dropArm_keeps {slot : Nat} (h : Keeps s₀ s) : Keeps s₀ (dropArm slot s) :=
  mapChannels_keeps h fun ch hq => by split <;> exact hq

theorem pouStep_keeps {d : Int} (h : Keeps s₀ s) : Keeps s₀ (pouStep d s) :=
  mapChannels_keeps h fun ch _ => quietIfClosed_of_none (by unfold stepChannel; split <;> rfl)

theorem pouBoundary_keeps {r : Report} (h : Keeps s₀ s) : Keeps s₀ (pouBoundary r s) := by
  have hstarted : Keeps s₀ (forEach (List.range 32) (startArm r) (forEach (List.range 8) (transfer r) s)) :=
    forEach_keeps_laws (forEach_keeps_laws h fun _ _ hu => transfer_keeps hu) fun _ _ hu => startArm_keeps hu
  unfold pouBoundary
  dsimp only
  split
  · exact hstarted
  · exact pouStep_keeps hstarted

/-! ## Event Capture Unit -/

theorem pulseResult_keeps {n : Nat} {p : Int} {within : Bool} (h : Keeps s₀ s) : Keeps s₀ (pulseResult n p within s) :=
  queuePub_keeps (evaluate_keeps (modClient_keeps h (addrFree_of_same rfl rfl) id))

theorem captureRecord_keeps {i : Fin 4} {cap : Captured} {interval : Option Nat} {outcome : CaptureOutcome} {p : Option Int}
    (h : Keeps s₀ s) : Keeps s₀ (captureRecord i cap interval outcome p s) := by
  unfold captureRecord
  split
  · exact h
  · exact stage_keeps h

theorem capture_keeps {i : Fin 4} {cap : Captured} (h : Keeps s₀ s) : Keeps s₀ (capture i cap s) := by
  simp only [capture]
  repeat' split
  · exact captureRecord_keeps (modCapture_keeps (modCapture_keeps h))
  · exact pulseResult_keeps (captureRecord_keeps (modCapture_keeps (modCapture_keeps h)))
  · exact pulseResult_keeps (captureRecord_keeps (modCapture_keeps (modCapture_keeps h)))

theorem lineChange_keeps {i : Fin 4} {level : Bool} {at_ : Instant} (h : Keeps s₀ s) : Keeps s₀ (lineChange i level at_ s) := by
  simp only [lineChange]
  split_ifs
  · exact modCapture_keeps h
  · exact modCapture_keeps (modCapture_keeps h)
  · exact modCapture_keeps h
  · exact modCapture_keeps (modCapture_keeps h)

theorem confirmIf_keeps {reached : Nat → Bool} {i : Fin 4} (h : Keeps s₀ s) : Keeps s₀ (confirmIf reached i s) := by
  simp only [confirmIf, confirm]
  repeat' split
  · exact h
  · exact capture_keeps (modCapture_keeps h)
  · exact modCapture_keeps h
  · exact h

theorem orderCaptureSetup_keeps {p : CaptureSetupP} {slot : Nat} (h : Keeps s₀ s) : Keeps s₀ (orderCaptureSetup p slot s) := by
  simp only [orderCaptureSetup]
  repeat' split
  · exact finish_keeps h
  · exact complete_keeps (modCapture_keeps h)
  · exact complete_keeps (confirmIf_keeps (modCapture_keeps h))
  · exact finish_keeps h

theorem evcBoundary_keeps {r : Report} (h : Keeps s₀ s) : Keeps s₀ (evcBoundary r s) := by
  unfold evcBoundary
  split
  · exact h
  · exact forEach_keeps_laws (h.trans { captures := List.length_map _ }) fun _ _ hu => confirmIf_keeps hu

end Sys2Proof.Machine

/-! Keeping the laws, by the Exchange Controller, the second boundary and each command; and the obligations that follow (O5, O7 to
O13). -/

namespace Sys2Proof.Machine

variable {s₀ s : State}

/-! ## Orders handed to their owners -/

theorem orderSnapshot_keeps {view : Byte} {slot : Nat} (h : Keeps s₀ s) : Keeps s₀ (orderSnapshot view slot s) := by
  unfold orderSnapshot
  split
  · exact complete_keeps h
  · exact complete_keeps h
  · exact complete_keeps h
  · exact finish_keeps h

theorem withdraw_keeps {o : Order} {slot : Nat} {t : State} (h : Keeps s₀ s) (hw : withdraw o slot s = some t) :
    Keeps s₀ t := by
  unfold withdraw at hw
  split at hw
  · obtain rfl := Option.some.inj hw; exact modTbs_keeps h id
  · obtain rfl := Option.some.inj hw; exact dropPending_keeps h
  · obtain rfl := Option.some.inj hw; exact dropArm_keeps h
  · cases hw

theorem cancelEntry_keeps {e : StoreEntry} {target slot : Nat} (h : Keeps s₀ s) : Keeps s₀ (cancelEntry e target slot s) := by
  unfold cancelEntry
  split
  · exact finish_keeps h
  · split
    · exact finish_keeps h
    next hw => exact finish_keeps (finish_keeps (withdraw_keeps h hw))

theorem orderCancel_keeps {target : Byte} {cookie : BitVec 16} {slot : Nat} (h : Keeps s₀ s) :
    Keeps s₀ (orderCancel target cookie slot s) := by
  unfold orderCancel
  repeat' split
  · exact finish_keeps h
  · exact finish_keeps h
  · exact cancelEntry_keeps h
  · exact finish_keeps h

theorem beginConfigRead_keeps {slot : Nat} (h : Keeps s₀ s) : Keeps s₀ (beginConfigRead slot s) := by
  unfold beginConfigRead
  split
  · exact h
  · exact modXch_keeps h id rfl id

theorem handOrder_keeps {o : Order} {slot : Nat} (h : Keeps s₀ s) : Keeps s₀ (handOrder o slot s) := by
  cases o
  case portSetup => exact orderPortSetup_keeps h
  case refSetup => exact orderRefSetup_keeps h
  case setRef => exact orderSetRef_keeps h
  case servoSetup => exact orderServoSetup_keeps h
  case postStep => exact orderStep_keeps h
  case utcSetup => exact orderUtcSetup_keeps h
  case admitClient =>
    unfold handOrder
    dsimp only
    split
    · exact finish_keeps h
    · exact beginConfigRead_keeps h
  case reconfig =>
    unfold handOrder
    dsimp only
    split
    · exact finish_keeps h
    · exact beginConfigRead_keeps h
  case retire => exact orderRetire_keeps h
  case rangingSetup => exact orderRangingSetup_keeps h
  case noticePost => exact orderNoticePost_keeps h
  case noticeWithdraw => exact orderNoticeWithdraw_keeps h
  case pulseProgram => exact orderPulseProgram_keeps h
  case pulseArm => exact orderPulseArm_keeps h
  case gateSetup => exact orderGateSetup_keeps h
  case gateOpen => exact orderGateOpen_keeps h
  case captureSetup => exact orderCaptureSetup_keeps h
  case snapshot => exact orderSnapshot_keeps h
  case cancel => exact orderCancel_keeps h
  case unknown => exact finish_keeps h

theorem configRead_keeps {slot : Nat} (h : Keeps s₀ s) : Keeps s₀ (configRead slot s) := by
  unfold configRead
  split
  · exact orderAdmit_keeps h
  · exact orderReconfig_keeps h
  · exact h

/-! ## The steps of a sweep -/

theorem beginAccess_keeps {a : Access} {step : SweepStep} (h : Keeps s₀ s) : Keeps s₀ (beginAccess a step s) := modXch_keeps h id rfl id

theorem goHeader_keeps (h : Keeps s₀ s) : Keeps s₀ (goHeader s) := by
  unfold goHeader
  split
  · exact beginAccess_keeps (raiseCause_keeps h)
  · exact beginAccess_keeps h

theorem goJournal_keeps {left : Nat} (h : Keeps s₀ s) : Keeps s₀ (goJournal left s) := by
  unfold goJournal
  split
  · exact beginAccess_keeps h
  · exact goHeader_keeps h

theorem beginPublish_keeps {n left : Nat} (h : Keeps s₀ s) : Keeps s₀ (beginPublish n left s) :=
  beginAccess_keeps (modClient_keeps (modCrs_keeps h rfl rfl (List.drop_sublist 1 _).nodup) (addrFree_of_same rfl rfl) id)

theorem goClients_keeps {left : Nat} (h : Keeps s₀ s) : Keeps s₀ (goClients left s) := by
  unfold goClients
  split
  · exact beginPublish_keeps h
  · exact beginAccess_keeps h

theorem goCompletions_keeps {k : Nat} (h : Keeps s₀ s) : Keeps s₀ (goCompletions k s) := by
  unfold goCompletions
  split
  · exact beginAccess_keeps h
  · exact goClients_keeps h

theorem goOrders_keeps {k : Nat} (h : Keeps s₀ s) : Keeps s₀ (goOrders k s) := by
  unfold goOrders
  split
  · exact beginAccess_keeps h
  · exact goCompletions_keeps h

theorem beginSweep_keeps (h : Keeps s₀ s) : Keeps s₀ (beginSweep s) := goOrders_keeps (modXch_keeps h id rfl id)

theorem goRetry_keeps {fuel k : Nat} (h : Keeps s₀ s) : Keeps s₀ (goRetry fuel k s) := by
  induction fuel generalizing k s with
  | zero => exact beginSweep_keeps h
  | succ fuel ih =>
    unfold goRetry
    split
    · exact ih h
    next o _ =>
      have hhanded : Keeps s₀ (handOrder o k (modXch (fun x => { x with sweep := some (.retry (k + 1)) }) s)) :=
        handOrder_keeps (modXch_keeps h id rfl id)
      dsimp only
      split
      · exact hhanded
      · exact ih hhanded

theorem goOn_keeps (h : Keeps s₀ s) : Keeps s₀ (goOn s) := by
  unfold goOn
  split
  · exact h
  · exact goRetry_keeps h
  · exact goOrders_keeps h
  · exact goCompletions_keeps h
  · exact goClients_keeps h
  · exact goJournal_keeps h
  · exact modXch_keeps h id rfl id

/-! ## The accesses -/

theorem slotTakenEnd_keeps {n : Nat} (h : Keeps s₀ s) : Keeps s₀ (slotTakenEnd n s) :=
  handOrder_keeps (takeOrder_keeps (modMem_keeps h))

theorem endPublish_keeps {n : Nat} {part : PublishPart} {fields : List Byte} (h : Keeps s₀ s) :
    Keeps s₀ (endPublish n part fields s) := by
  unfold endPublish
  split
  · exact modXch_keeps h id rfl id
  · exact modXch_keeps h id rfl id
  · exact modClient_keeps h (addrFree_of_same rfl rfl) id

theorem endAccess_keeps {a : Access} (h : Keeps s₀ s) : Keeps s₀ (endAccess a s) := by
  unfold endAccess
  dsimp only
  split
  · exact h
  · exact slotTakenEnd_keeps h
  · exact configRead_keeps h
  · exact raiseCause_keeps (modXch_keeps (modMem_keeps h) (fun hg => hg) (List.length_modify ..) id)
  · exact endPublish_keeps (modMem_keeps h)
  · exact modXch_keeps h id rfl id
  · exact modXch_keeps (modMem_keeps h) (fun hg => (List.drop_sublist 1 _).length_le.trans hg) rfl id
  · exact modMem_keeps h

theorem accessEnd_keeps (h : Keeps s₀ s) : Keeps s₀ (accessEnd s) := by
  unfold accessEnd afterAccess
  repeat' split
  · exact h
  · exact h
  · exact endAccess_keeps (modXch_keeps h id rfl id)
  · exact goOn_keeps (endAccess_keeps (modXch_keeps h id rfl id))

theorem headerRead_keeps (h : Keeps s₀ s) : Keeps s₀ (headerRead s) := by
  simp only [headerRead]
  split_ifs
  · exact modXch_keeps h id rfl id
  · exact goRetry_keeps (modXch_keeps (modXch_keeps h id rfl id) id rfl id)
  · exact raiseCause_keeps (modXch_keeps (modXch_keeps h id rfl id) id rfl id)
  · exact h

theorem toHalted_keeps (h : Keeps s₀ s) : Keeps s₀ (toHalted s) := modXch_keeps h id rfl id

theorem cutAccess_keeps {a : Access} (h : Keeps s₀ s) : Keeps s₀ (cutAccess a s) := by
  unfold cutAccess
  split
  case h_1 => exact modCrs_keeps h rfl rfl fun hq => List.nodup_cons.2 ⟨hq.not_mem_erase, hq.erase _⟩
  all_goals exact h

theorem busError_keeps {landed : Nat} (h : Keeps s₀ s) : Keeps s₀ (busError landed s) := by
  unfold busError
  split
  · exact h
  · exact raiseCause_keeps (modXch_keeps (cutAccess_keeps (modMem_keeps h)) id rfl id)

theorem askSweep_keeps (h : Keeps s₀ s) : Keeps s₀ (askSweep s) := by
  unfold askSweep
  split
  · exact modXch_keeps h id rfl id
  · exact beginSweep_keeps h

/-! ## Registers -/

theorem writeBase_keeps {hi : Bool} {w : RegWrite} (h : Keeps s₀ s) : Keeps s₀ (modXch (writeBase hi w) s) := by
  have e : writeBase hi w s.xch = { s.xch with
      baseLo := (writeBase hi w s.xch).baseLo, baseHi := (writeBase hi w s.xch).baseHi } := by
    unfold writeBase; repeat' split
    all_goals rfl
  exact modXch_keeps h (by rw [e]; exact id) (by rw [e]) (by rw [e]; exact id)

theorem writeControl_keeps {v : BitVec 32} (h : Keeps s₀ s) : Keeps s₀ (writeControl v s) := by
  unfold writeControl
  repeat' split
  · exact modXch_keeps h id rfl id
  · exact modXch_keeps h id rfl id
  · exact modXch_keeps h id rfl id
  · exact h
  · exact h
  · exact h
  · exact h
  · exact toHalted_keeps h
  · exact modXch_keeps h id rfl id
  · exact modXch_keeps h id rfl id

theorem nudge_keeps (h : Keeps s₀ s) : Keeps s₀ (nudge s) := by
  unfold nudge
  split
  · exact askSweep_keeps h
  · exact h

/-! ## Ticks and boundaries -/

theorem blockBoundary_keeps {r : Report} {b : Block} (h : Keeps s₀ s) : Keeps s₀ (blockBoundary r b s) := by
  cases b
  case tbs => exact tbsBoundary_keeps h
  case rfi =>
    unfold blockBoundary
    dsimp only
    split
    · exact h
    · exact rfiStep_keeps h
  case dsv => exact dsvBoundary_keeps h
  case lnk => exact lnkBoundary_keeps h
  case crs => exact crsBoundary_keeps h
  case rng => exact rngBoundary_keeps h
  case bcu => exact bcuBoundary_keeps h
  case pou => exact pouBoundary_keeps h
  case evc => exact evcBoundary_keeps h

theorem boundary_keeps {named : List Block} (h : Keeps s₀ s) : Keeps s₀ (boundary named s) :=
  forEach_keeps_laws (tickTimer_keeps (modTbs_keeps h boundaryTick_timeOk)) fun _ _ hu => blockBoundary_keeps hu

/-! ## Every command -/

/-- The commands that clear causes. -/
def clearsCauses (c : Instr) : Prop :=
  (∃ landed, c = .fullReset landed) ∨ c = .exchangeReset ∨ (∃ w, c = .xstatClear w) ∨
    ∃ offset w, c = .registerWrite offset w ∧ offset.val / 4 = 4

theorem exec_keeps {c : Instr} {s t : State} (hc : ¬ clearsCauses c) (he : exec c s = .next t) : Keeps s t := by
  have h := Keeps.refl s
  cases c
  case fullReset landed => exact absurd (.inl ⟨_, rfl⟩) hc
  case exchangeReset => exact absurd (.inr (.inl rfl)) hc
  case xstatClear w => exact absurd (.inr (.inr (.inl ⟨_, rfl⟩))) hc
  all_goals obtain rfl := Host.Outcome.next.inj he
  case secondBoundary =>
    split
    · exact boundary_keeps h
    · exact h
  case refPulseRise => exact pulseRise_keeps h
  case refPulseFall => exact pulseFall_keeps h
  case stuckDeadline =>
    repeat' split
    · exact h
    · exact makeStuck_keeps h
    · exact h
  case refMessage => exact forEach_keeps_laws h fun _ _ hu => messageChar_keeps hu
  case msgGapExpiry =>
    repeat' split
    · exact h
    · exact badMessage_keeps h
    · exact h
  case lossDeadline =>
    split
    · exact reselectIfChanged_keeps (changeQual_keeps h)
    · exact h
  case revertDeadline =>
    split
    · exact applySelection_keeps h
    · exact h
  case linkStatusChange => exact linkLevel_keeps h
  case beaconPoint =>
    repeat' split
    · exact h
    · exact modLink_keeps (modBeacon_keeps h id)
    · exact h
  case arbiterFree => exact arbiterFree_keeps h
  case txTimestampPoint => exact txTimestamp_keeps h
  case windowOpening =>
    repeat' split
    · exact h
    · exact refreshRange_keeps h
    · exact h
  case frameReceived => exact frameReceived_keeps h
  case holdoffExpiry =>
    split
    · exact modLink_keeps h
    · exact h
  case exchangeExpiry =>
    repeat' split
    · exact h
    · exact expire_keeps h
    · exact h
  case pulseRisingEdge =>
    split
    · exact riseChannel_keeps h
    · exact h
  case pulseFallingEdge => exact modChannel_keeps h fallChannel_quiet
  case inhibitAssert => exact closeGate_modPou_keeps h ⟨_, _, rfl⟩
  case captureLineChange => exact lineChange_keeps h
  case captureConfirmation => exact confirmIf_keeps h
  case portSetup => exact handOver_keeps orderPortSetup_keeps h
  case refSetup => exact handOver_keeps orderRefSetup_keeps h
  case setRef => exact handOver_keeps orderSetRef_keeps h
  case servoSetup => exact handOver_keeps orderServoSetup_keeps h
  case postStep => exact handOver_keeps orderStep_keeps h
  case utcSetup => exact handOver_keeps orderUtcSetup_keeps h
  case admitClient => exact handOver_keeps orderAdmit_keeps (modMem_keeps h)
  case reconfig => exact handOver_keeps orderReconfig_keeps (modMem_keeps h)
  case retire => exact handOver_keeps orderRetire_keeps h
  case rangingSetup => exact handOver_keeps orderRangingSetup_keeps h
  case noticePost => exact handOver_keeps orderNoticePost_keeps h
  case noticeWithdraw => exact handOver_keeps orderNoticeWithdraw_keeps h
  case pulseProgram => exact handOver_keeps orderPulseProgram_keeps h
  case pulseArm => exact handOver_keeps orderPulseArm_keeps h
  case gateSetup => exact handOver_keeps orderGateSetup_keeps h
  case gateOpen => exact handOver_keeps orderGateOpen_keeps h
  case captureSetup => exact handOver_keeps orderCaptureSetup_keeps h
  case snapshot => exact handOver_keeps orderSnapshot_keeps h
  case cancel => exact handOver_keeps orderCancel_keeps h
  case sweepPeriodExpiry =>
    split
    · exact askSweep_keeps (modXch_keeps (modMem_keeps h) id rfl id)
    · exact modMem_keeps h
  case pendingSweepStart =>
    split
    · exact beginSweep_keeps (modXch_keeps (modMem_keeps h) id rfl id)
    · exact modMem_keeps h
  case busError => exact busError_keeps h
  case headerRead => exact headerRead_keeps (modMem_keeps h)
  case xbaseWrite => exact writeBase_keeps h
  case runSet => exact writeControl_keeps h
  case runClear => exact writeControl_keeps h
  case halt =>
    split
    · exact toHalted_keeps h
    · exact h
  case resume => exact writeControl_keeps h
  case xrst => exact writeControl_keeps h
  case xnudge => exact nudge_keeps (modMem_keeps h)
  case xmaskWrite => exact modXch_keeps h id rfl id
  case registerWrite offset w =>
    unfold writeRegister
    split
    · exact writeBase_keeps h
    · exact writeBase_keeps h
    · exact writeControl_keeps h
    · exact nudge_keeps h
    next h4 => exact absurd (.inr (.inr (.inr ⟨_, _, rfl, h4⟩))) hc
    · exact modXch_keeps h id rfl id
    · exact h
  case oscillatorTick =>
    split
    · exact boundary_keeps h
    · exact tickTimer_keeps (modTbs_keeps h plainTick_timeOk)
  case inhibitDeassert =>
    exact modPou_keeps h rfl rfl fun ⟨hopen, hquiet⟩ => ⟨fun ho => ⟨(hopen ho).1, rfl⟩, hquiet⟩
  case receiveTimestampPoint => exact rxTimestamp_keeps h
  case messageCharacter => exact messageChar_keeps h
  case accessEnd => exact accessEnd_keeps (modMem_keeps h)

/-! ## The obligations -/

/-- What the statements ask of a step of each command, cleared causes or not. -/
structure Lawful (s t : State) : Prop where
  time : TimeOk s → TimeOk t
  cls : ClassOk s → ClassOk t
  gate : GateOk s → GateOk t
  debt : DebtOk s → DebtOk t
  tables : TablesOk s → TablesOk t
  bounds : BoundsOk s → BoundsOk t
  queues : QueuesOk s → QueuesOk t
  addresses : AddressesOk s → AddressesOk t

theorem Keeps.lawful {s t : State} (h : Keeps s t) : Lawful s t where
  time := h.time
  cls := h.cls
  gate := h.gate
  debt hs := debtOk_iff.2 (h.debt (debtOk_iff.1 hs))
  tables := fun ⟨ha, hb⟩ => ⟨h.table .a ha, h.table .b hb⟩
  bounds := by
    rintro ⟨hstage, hfa, hfb, hha, hhb, hnew, herr, hfreq, hclients, hnotices, hchannels, hevc, hstore⟩
    exact ⟨h.staging hstage, h.fifo .a hfa, h.fifo .b hfb, h.history .a hha, h.history .b hhb, h.newcomers hnew,
      h.errHist herr, h.freqHist hfreq, h.clients.trans hclients, h.notices.trans hnotices, h.channels.trans hchannels,
      h.captures.trans hevc, h.store.trans hstore⟩
  queues := fun ⟨hq, ha, hb⟩ => ⟨h.queue hq, h.roll .a ha, h.roll .b hb⟩
  addresses := h.addresses

theorem Lawful.trans {s t u : State} (h : Lawful s t) (k : Lawful t u) : Lawful s u :=
  ⟨k.time ∘ h.time, k.cls ∘ h.cls, k.gate ∘ h.gate, k.debt ∘ h.debt, k.tables ∘ h.tables, k.bounds ∘ h.bounds,
    k.queues ∘ h.queues, k.addresses ∘ h.addresses⟩

/-- No law looks at the controller but for the bounds of its staging queue and its store. -/
theorem modXch_lawful {f : Controller → Controller} (hg : s.xch.staging.length ≤ 64 → (f s.xch).staging.length ≤ 64)
    (hs : s.xch.store.length = 32 → (f s.xch).store.length = 32) : Lawful s (modXch f s) where
  time := fun h => h
  cls := fun h => h
  gate := fun h => h
  debt := fun h => h
  tables := fun h => h
  bounds := by
    rintro ⟨hstage, hfa, hfb, hha, hhb, hnew, herr, hfreq, hclients, hnotices, hchannels, hevc, hstore⟩
    exact ⟨hg hstage, hfa, hfb, hha, hhb, hnew, herr, hfreq, hclients, hnotices, hchannels, hevc, hs hstore⟩
  queues := fun h => h
  addresses := fun h => h

theorem abandonStep_levels (tb : Timebase) : (abandonStep tb).phi = tb.phi ∧ (abandonStep tb).utcOffset = tb.utcOffset :=
  ⟨by unfold abandonStep; split <;> rfl, abandonStep_utcOffset tb⟩

theorem abandonStep_timeOk (h : TimeOk s) : TimeOk (modTbs abandonStep s) := by
  have hclock := abandonStep_clock s.tbs
  obtain ⟨htime, hinc⟩ := Prod.mk.inj hclock
  obtain ⟨hphi, hoff⟩ := abandonStep_levels s.tbs
  simpa only [TimeOk, modTbs_tbs, htime, hinc, hphi, hoff] using h

theorem exchangeReset_lawful : Lawful s (exchangeReset s) := by
  have hchannels := mapChannels_keeps (f := abandonChannel) (modTbs_keeps (Keeps.refl s) abandonStep_timeOk) fun ch hq => hq
  refine hchannels.lawful.trans ((modXch_lawful (f := resetController) (fun _ => Nat.zero_le _) fun _ => rfl).trans ?_)
  exact (forEach_keeps_laws (Keeps.refl _) fun _ _ hu => queuePub_keeps hu).lawful

theorem fullReset_lawful {landed : Nat} : Lawful s (fullReset landed s) where
  time _ := resetMeetsLaws.2.1
  cls _ := resetMeetsLaws.2.2.1
  gate _ := ⟨(fun ho => nomatch ho), reset_gateOk.2⟩
  debt _ := reset_debtOk
  tables _ := resetMeetsLaws.2.2.2.2.2.1
  bounds := by
    rintro ⟨-, -, -, -, -, -, -, -, -, -, -, hevc, -⟩
    exact ⟨Nat.zero_le _, Nat.zero_le _, Nat.zero_le _, Nat.zero_le _, Nat.zero_le _, Nat.zero_le _, Nat.zero_le _,
      Nat.zero_le _, List.length_replicate, rfl, rfl, (List.length_map _).trans hevc, List.length_replicate⟩
  queues _ := ⟨List.nodup_nil, List.nodup_nil, List.nodup_nil⟩
  addresses _ := reset_addressesOk

/-- Every command keeps every law. -/
theorem exec_lawful {c : Instr} {s t : State} (he : exec c s = .next t) : Lawful s t := by
  have hstatus (w : RegWrite) : Lawful s (modXch (writeStatus w) s) := modXch_lawful (fun h => h) fun h => h
  by_cases hc : clearsCauses c
  · obtain ⟨landed, rfl⟩ | rfl | ⟨w, rfl⟩ | ⟨offset, w, rfl, h4⟩ := hc
    · obtain rfl := Host.Outcome.next.inj he
      exact fullReset_lawful
    · obtain rfl := Host.Outcome.next.inj he
      split
      · exact exchangeReset_lawful
      · exact (Keeps.refl s).lawful
    · obtain rfl := Host.Outcome.next.inj he
      exact hstatus w
    · obtain rfl := Host.Outcome.next.inj he
      simp only [writeRegister, h4]
      exact hstatus w
  · exact (exec_keeps hc he).lawful

/-- Settles O7. -/
theorem stepKeepsTimeInRange : Obligations.StepKeepsTimeInRange :=
  fun _ _ => step_keeps (P := TimeOk) (fun _ _ h => h) fun _ _ _ hs he => (exec_lawful he).time hs

/-- Settles O8. -/
theorem stepKeepsClass : Obligations.StepKeepsClass :=
  fun _ _ => step_keeps (P := ClassOk) (fun _ _ h => h) fun _ _ _ hs he => (exec_lawful he).cls hs

/-- Settles O9. -/
theorem stepKeepsGate : Obligations.StepKeepsGate :=
  fun _ _ => step_keeps (P := GateOk) (fun _ _ h => h) fun _ _ _ hs he => (exec_lawful he).gate hs

/-- Settles O10. -/
theorem stepKeepsDebt : Obligations.StepKeepsDebt :=
  fun _ _ => step_keeps (P := DebtOk) (fun _ _ h => h) fun _ _ _ hs he => (exec_lawful he).debt hs

/-- Settles O11. -/
theorem stepKeepsExchangeTables : Obligations.StepKeepsExchangeTables :=
  fun _ _ => step_keeps (P := TablesOk) (fun _ _ h => h) fun _ _ _ hs he => (exec_lawful he).tables hs

/-- Settles O12. -/
theorem stepKeepsQueueBounds : Obligations.StepKeepsQueueBounds :=
  fun _ _ => step_keeps (P := BoundsOk) (fun _ _ h => h) fun _ _ _ hs he => (exec_lawful he).bounds hs

/-- Settles O13. -/
theorem stepKeepsSlotsAndAddressesOnce : Obligations.StepKeepsSlotsAndAddressesOnce :=
  ⟨fun _ _ => step_keeps (P := QueuesOk) (fun _ _ h => h) fun _ _ _ hs he => (exec_lawful he).queues hs,
    fun _ _ => step_keeps (P := AddressesOk) (fun _ _ h => h) fun _ _ _ hs he => (exec_lawful he).addresses hs⟩

theorem writeStatus_cls (w : RegWrite) (s : State) : (modXch (writeStatus w) s).dsv.cls = s.dsv.cls := rfl

/-- Settles O5: no operation that changes the class leaves its cause clear, and the commands that clear causes change no class. -/
theorem classChangeSetsCause : Obligations.ClassChangeSetsCause := by
  intro c s
  obtain ⟨t, he⟩ := exec_answers c s
  refine ⟨t, he, fun hreset hne => ?_⟩
  by_cases hc : clearsCauses c
  · obtain ⟨landed, rfl⟩ | rfl | ⟨w, rfl⟩ | ⟨offset, w, rfl, h4⟩ := hc
    · exact absurd rfl (hreset landed)
    · obtain rfl := Host.Outcome.next.inj he
      exact absurd (by split <;> simp) hne
    · obtain rfl := Host.Outcome.next.inj he
      exact absurd (writeStatus_cls w s) hne
    · obtain rfl := Host.Outcome.next.inj he
      simp only [writeRegister, h4] at hne
      exact absurd (writeStatus_cls w s) hne
  · exact (exec_keeps hc he).classCause.resolve_left hne

end Sys2Proof.Machine

/-! The Timebase (O15, O20): what an oscillator tick does, and the checks of STEP. -/

namespace Sys2Proof.Machine

variable {s : State}

/-! ## STEP (R10) -/

/-- R10: Δ of a STEP is refused beyond 10^16 sixteenths on either side. -/
theorem delta_beyond (d : Int) : 16000000000000000 < d.natAbs ↔ d < -16000000000000000 ∨ 16000000000000000 < d := by omega

/-- R10: a target kind that passes its check is SECOND, 0, or NEXT, 1. -/
theorem targetKind_cases {k : Byte} (h : ¬ 1 < k.toNat) : k = 0 ∨ k = 1 := by
  rw [← BitVec.toNat_inj, ← BitVec.toNat_inj]
  change k.toNat = 0 ∨ k.toNat = 1
  omega

/-- Settles O20, check by check. -/
theorem stepOrderChecksAndPosts : Obligations.StepOrderChecksAndPosts := by
  intro s src p hfree
  refine congrArg Host.Outcome.next ((handOver_run _ _ hfree).trans ?_)
  by_cases hbad : 1 < p.targetKind.toNat ∨ p.delta.toInt < -16000000000000000 ∨ 16000000000000000 < p.delta.toInt
  · rw [if_pos hbad, orderStep, if_pos (by simpa [delta_beyond] using hbad), finish_take]
  rw [if_neg hbad, orderStep, if_neg (by simpa [delta_beyond] using hbad)]
  by_cases hbusy : s.tbs.posted = none
  case neg => rw [if_pos hbusy, if_pos (by simpa [Option.isSome_iff_ne_none] using hbusy), finish_take]
  rw [if_neg (not_not.2 hbusy), if_neg (by simp [hbusy])]
  obtain hkind | hkind := targetKind_cases (fun h => hbad (.inl h))
  · by_cases hpast : p.epoch.toNat ≤ s.tbs.time.sec
    · simp [hkind, hpast, finish_take]
    · simp [hkind, hpast, holding, modTbs, takeOrder, modXch]
  · simp [hkind, holding, modTbs, takeOrder, modXch]

/-! ## The tick (R1 to R5) -/

/-- R1: a tick crosses a second boundary exactly where a second's nanoseconds are reached. -/
theorem atBoundary_iff (tb : Timebase) :
    tb.atBoundary = true ↔ 1000000000 ≤ tb.time.ns + (tb.time.frac + tb.tickInc) / 2 ^ 32 :=
  decide_eq_true_iff

/-- R2, R5: the increment of the tick that begins. -/
theorem beginTick_inc (tb : Timebase) :
    (tb.beginTick.tickInc : Int) = max 34352866421 (min 34366610315 (34359738368 + freqTerm tb.phi +
      (if 1 < tb.slew.ticksLeft then tb.slew.share else tb.slew.remaining))) := by
  simp only [Timebase.beginTick, Timebase.nextInc, Slew.want, minInc, maxInc, nominalInc]
  omega

/-- R4: what the tick that begins applies of the slew leaves its remaining amount. -/
theorem beginTick_slew (tb : Timebase) :
    tb.beginTick.slew.remaining = tb.slew.remaining - (tb.beginTick.tickInc - 34359738368 - freqTerm tb.phi) ∧
    tb.beginTick.slew.ticksLeft = tb.slew.ticksLeft - 1 ∧ tb.beginTick.slew.share = tb.slew.share := by
  refine ⟨?_, rfl, rfl⟩
  rw [beginTick_inc]
  rfl

/-- R2: the frequency term is odd in Φ. -/
theorem freqTerm_neg (phi : Int) : freqTerm (-phi) = -freqTerm phi := by
  simp only [freqTerm]; split <;> split <;> omega

/-- R2: for Φ not below 0 the frequency term is the nearest integer, the greater of two as near. -/
theorem freqTerm_nearest {phi : Int} (h : 0 ≤ phi) :
    2 * freqTerm phi * 1000000000 ≤ 2 * phi * 134217728 + 1000000000 ∧
      2 * phi * 134217728 + 1000000000 < 2 * freqTerm phi * 1000000000 + 2000000000 := by
  simp only [freqTerm]
  rw [if_pos (by omega)]
  omega

/-- Settles O15: the tick short of a boundary, and the two names of the one across it. -/
theorem tickAddsIncrementOrIsBoundary : Obligations.TickAddsIncrementOrIsBoundary := by
  refine ⟨fun s hlow => ?_, fun s blocks => ⟨fun h => ?_, fun h => ?_⟩, fun phi => ⟨freqTerm_neg phi, freqTerm_nearest⟩⟩
  · have hb : ¬ s.tbs.atBoundary = true := fun h => by have := (atBoundary_iff s.tbs).1 h; omega
    have hcross : s.tbs.time.crosses s.tbs.tickInc = false := by simpa [Timebase.atBoundary] using hb
    have hexec : exec .oscillatorTick s = .next (tickTimer (modTbs Timebase.plainTick s)) := by
      rw [exec, execOscillatorTick, if_neg hb]
    refine ⟨_, hexec, ?_, beginTick_inc _, (beginTick_slew _).1, rfl, rfl, rfl⟩
    simp [Timebase.plainTick, Timebase.beginTick, DeviceTime.advance, hcross, DeviceTime.nsAfter, unitsPerNs]
  · rw [exec, exec, execOscillatorTick, execSecondBoundary, if_pos h, if_pos h]
  · rw [exec, execSecondBoundary, h]; rfl

end Sys2Proof.Machine

/-! The second boundary as its blocks take it: the order of the blocks holds each block once, what a block adds stays, and which
parts a block leaves. -/

namespace Sys2Proof.Machine

variable {s₀ s : State}

/-! ## What only grows -/

/-- The client of slot `n` stands in the roll-call queue of port `p`, uncarried. -/
def inRoll (s : State) (p : Port) (n : Nat) : Prop := ∃ e ∈ (beaconPort s p).roll, e.slot = n ∧ e.carried = false

/-- From `s` to `t` no record leaves staging, no slot leaves the publication queue and no uncarried client a roll-call queue. -/
structure Grows (s t : State) : Prop where
  staging : s.xch.staging <+: t.xch.staging
  queue : ∀ n ∈ s.crs.queue, n ∈ t.crs.queue
  roll : ∀ p n, inRoll s p n → inRoll t p n

theorem Grows.refl (s : State) : Grows s s := ⟨List.prefix_refl _, fun _ h => h, fun _ _ h => h⟩

theorem Grows.trans {s t u : State} (h : Grows s t) (k : Grows t u) : Grows s u :=
  ⟨h.staging.trans k.staging, fun n hn => k.queue n (h.queue n hn), fun p n hn => k.roll p n (h.roll p n hn)⟩

/-- A change that leaves staging and the queues. -/
theorem Grows.same {t : State} (h : Grows s₀ s) (hx : t.xch.staging = s.xch.staging) (hq : t.crs.queue = s.crs.queue)
    (hr : ∀ p, (beaconPort t p).roll = (beaconPort s p).roll) : Grows s₀ t :=
  h.trans ⟨hx ▸ List.prefix_refl _, fun n hn => hq ▸ hn, fun p n hn => by simpa only [inRoll, hr] using hn⟩

/-- The exchange from `x` to `y` with records staged or lost and interrupt causes set, and nothing else. -/
def OnlyStaged (x y : Controller) : Prop :=
  x.staging <+: y.staging ∧
  y = { x with staging := y.staging, lossMark := y.lossMark, lost := y.lost, causes := y.causes }

theorem OnlyStaged.refl (x : Controller) : OnlyStaged x x := ⟨List.prefix_refl _, rfl⟩

theorem OnlyStaged.trans {x y z : Controller} (h : OnlyStaged x y) (k : OnlyStaged y z) : OnlyStaged x z := by
  obtain ⟨hp, hx⟩ := h
  obtain ⟨kp, kx⟩ := k
  refine ⟨hp.trans kp, kx.trans ?_⟩
  rw [hx]

/-- `Grows`, where the exchange does nothing but stage records and set causes. -/
structure Hands (s t : State) : Prop where
  staged : OnlyStaged s.xch t.xch
  queue : ∀ n ∈ s.crs.queue, n ∈ t.crs.queue
  roll : ∀ p n, inRoll s p n → inRoll t p n

theorem Hands.refl (s : State) : Hands s s := ⟨.refl _, fun _ h => h, fun _ _ h => h⟩

theorem Hands.trans {s t u : State} (h : Hands s t) (k : Hands t u) : Hands s u :=
  ⟨h.staged.trans k.staged, fun n hn => k.queue n (h.queue n hn), fun p n hn => k.roll p n (h.roll p n hn)⟩

theorem Hands.grows {t : State} (h : Hands s t) : Grows s t := ⟨h.staged.1, h.queue, h.roll⟩

/-- What grows to `s` grows on by what is handed on after. -/
theorem Hands.after {t : State} (k : Hands s t) (h : Grows s₀ s) : Grows s₀ t := h.trans k.grows

/-- A change that leaves the exchange and the queues. -/
theorem Hands.same {t : State} (h : Hands s₀ s) (hx : t.xch = s.xch) (hq : t.crs.queue = s.crs.queue)
    (hr : ∀ p, (beaconPort t p).roll = (beaconPort s p).roll) : Hands s₀ t :=
  h.trans ⟨hx ▸ .refl _, fun n hn => hq ▸ hn, fun p n hn => by simpa only [inRoll, hr] using hn⟩

/-- The order store stands where nothing but records is handed on. -/
theorem Hands.storeEntry {t : State} (h : Hands s t) (slot : Nat) : storeEntry t slot = storeEntry s slot := by
  unfold Machine.storeEntry
  rw [h.staged.2]

/-- What is handed on stays so. -/
theorem Grows.handedOn {t u : State} {body : JournalBody} (k : Grows t u) (h : handedOn s t body) : handedOn s u body :=
  handedOn_mono h (le_refl _) k.staging

/-- A record handed on later is handed on since before. -/
theorem Grows.handedOn_before {t : State} {body : JournalBody} (k : Grows s₀ s) (h : Machine.handedOn s t body) :
    Machine.handedOn s₀ t body :=
  handedOn_mono h k.staging.length_le (List.prefix_refl _)

theorem handedOn_stage_of {u : State} {body : JournalBody} (hx : u.xch = s.xch) : handedOn s (stage body u) body :=
  handedOn_mono (handedOn_stage body u) (by rw [hx]) (List.prefix_refl _)

/-- What is handed on is staged, unless 64 records are. -/
theorem staged_of_handedOn {t : State} {body : JournalBody} (h : handedOn s t body) :
    (∃ r ∈ t.xch.staging, r.body = body) ∨ 64 ≤ t.xch.staging.length :=
  h.imp_left fun ⟨r, hr, hb⟩ => ⟨r, List.mem_of_mem_drop hr, hb⟩

theorem forEach_append {α : Type} (xs ys : List α) (f : α → State → State) (s : State) :
    forEach (xs ++ ys) f s = forEach ys f (forEach xs f s) := List.foldl_append

theorem forEach_hands {α : Type} {xs : List α} {f : α → State → State} (h : Hands s₀ s)
    (hf : ∀ x u, Hands s₀ u → Hands s₀ (f x u)) : Hands s₀ (forEach xs f s) :=
  forEach_keeps (Hands s₀) f xs (fun x _ u => hf x u) s h

theorem forEach_grows {α : Type} {xs : List α} {f : α → State → State} (h : Grows s₀ s)
    (hf : ∀ x u, Grows s₀ u → Grows s₀ (f x u)) : Grows s₀ (forEach xs f s) :=
  forEach_keeps (Grows s₀) f xs (fun x _ u => hf x u) s h

/-! ### The shared operations -/

theorem stage_hands {body : JournalBody} (h : Hands s₀ s) : Hands s₀ (stage body s) :=
  h.trans {
    staged := ⟨stage_prefix body s, by unfold stage; split <;> rfl⟩
    queue := fun n hn => by simpa using hn
    roll := fun p n hn => by simpa [inRoll, beaconPort] using hn }

theorem raiseCause_hands {c : Cause} (h : Hands s₀ s) : Hands s₀ (raiseCause c s) :=
  h.trans ⟨⟨List.prefix_refl _, rfl⟩, fun _ hn => hn, fun _ _ hn => hn⟩

theorem complete_grows {slot : Nat} {r : ResultCode} {data : List Byte} (h : Grows s₀ s) : Grows s₀ (complete slot r data s) :=
  h.same rfl rfl fun _ => rfl

theorem queuePub_hands {n : Nat} (h : Hands s₀ s) : Hands s₀ (queuePub n s) :=
  h.trans ⟨.refl _, fun k hk => by
    change k ∈ if n ∈ s.crs.queue then s.crs.queue else s.crs.queue ++ [n]
    split
    · exact hk
    · exact List.mem_append_left _ hk, fun _ _ hn => hn⟩

/-- R92: a slot queued for publication stands in the queue. -/
theorem mem_queuePub (n : Nat) (s : State) : n ∈ (queuePub n s).crs.queue := by
  change n ∈ if n ∈ s.crs.queue then s.crs.queue else s.crs.queue ++ [n]
  split
  · assumption
  · exact List.mem_append_right _ (List.mem_singleton_self n)

theorem queueIfChanged_hands {n : Nat} {before : Client} (h : Hands s₀ s) : Hands s₀ (queueIfChanged n before s) := by
  unfold queueIfChanged
  split
  · exact h
  · exact queuePub_hands h

/-- R130: who joins a roll-call queue takes no other client out and marks none carried. -/
theorem joinRoll_hands {p : Port} {n : Nat} (h : Hands s₀ s) : Hands s₀ (joinRoll p n s) := by
  refine h.trans ⟨.refl _, fun _ hk => hk, fun q k ⟨e, he, hslot, hcarried⟩ => ?_⟩
  by_cases hq : q = p
  case neg => exact ⟨e, by rwa [joinRoll_other hq], hslot, hcarried⟩
  subst hq
  unfold inRoll joinRoll
  rw [beaconPort_modBeacon]
  dsimp only
  split
  · refine ⟨_, List.mem_map_of_mem he, ?_, ?_⟩ <;> split <;> first | exact hslot | exact hcarried | rfl
  · exact ⟨e, List.mem_append_left _ he, hslot, hcarried⟩

theorem changeState_hands {n : Nat} {st : ClientState} {cause : ClientCause} (h : Hands s₀ s) :
    Hands s₀ (changeState n st cause s) := by
  have hpub (body : JournalBody) : Hands s₀ (queuePub n (stage body (modClient n (fun c => { c with state := st }) s))) :=
    queuePub_hands (stage_hands (h.same rfl rfl fun _ => rfl))
  unfold changeState
  dsimp only
  split
  · exact hpub _
  · split <;> split
    · exact joinRoll_hands (joinRoll_hands (hpub _))
    · exact joinRoll_hands (hpub _)
    · exact joinRoll_hands (hpub _)
    · exact hpub _

theorem evaluate_hands {n : Nat} {cause : ClientCause} (h : Hands s₀ s) : Hands s₀ (evaluate n cause s) := by
  obtain e | ⟨-, -, e⟩ := evaluate_cases n cause s <;> rw [e]
  · exact h
  · exact changeState_hands h

theorem modChannel_hands {c : Nat} {f : Channel → Channel} (h : Hands s₀ s) : Hands s₀ (modChannel c f s) :=
  h.same rfl rfl fun _ => rfl

theorem modPou_hands {f : PulseUnit → PulseUnit} (h : Hands s₀ s) : Hands s₀ (modPou f s) := h.same rfl rfl fun _ => rfl

theorem modTbs_hands {f : Timebase → Timebase} (h : Hands s₀ s) : Hands s₀ (modTbs f s) := h.same rfl rfl fun _ => rfl

theorem modDsv_hands {f : Servo → Servo} (h : Hands s₀ s) : Hands s₀ (modDsv f s) := h.same rfl rfl fun _ => rfl

theorem modClient_hands {n : Nat} {f : Client → Client} (h : Hands s₀ s) : Hands s₀ (modClient n f s) :=
  h.same rfl rfl fun _ => rfl

theorem modCapture_hands {i : Nat} {f : CaptureIn → CaptureIn} (h : Hands s₀ s) : Hands s₀ (modCapture i f s) :=
  h.same rfl rfl fun _ => rfl

/-! ### The blocks -/

theorem stepApplied_grows {r : Report} (h : Grows s₀ s) : Grows s₀ (stepApplied r s) := by
  unfold stepApplied
  split
  · split
    · exact ((stage_hands (.refl s)).after h).same rfl rfl fun _ => rfl
    · exact (complete_grows ((stage_hands (.refl s)).after h)).same rfl rfl fun _ => rfl
  · exact h

theorem applyLeap_hands (h : Hands s₀ s) : Hands s₀ (applyLeap s) := by
  unfold applyLeap
  split
  · exact h
  · split
    · exact stage_hands (h.same rfl rfl fun _ => rfl)
    · exact h

theorem closeGate_hands {cause : GateCause} (h : Hands s₀ s) : Hands s₀ (closeGate cause s) := by
  unfold closeGate
  split
  · exact stage_hands (h.same rfl rfl fun _ => rfl)
  · exact h

theorem changeClass_hands {new : Nat} (h : Hands s₀ s) : Hands s₀ (changeClass new s) := by
  have hcopied : Hands s₀ (modPou (fun u => { u with cls := new }) (modBcu (fun b => { b with cls := new })
      (raiseCause .cls (stage (.classChange s.dsv.cls new s.dsv.state s.dsv.eps)
        (modDsv (fun d => { d with cls := new }) s))))) :=
    (raiseCause_hands (stage_hands (h.same (t := modDsv (fun d => { d with cls := new }) s) rfl rfl fun _ => rfl))).same rfl rfl fun p => by
      cases p <;> rfl
  unfold changeClass pouClass
  dsimp only
  split
  · exact closeGate_hands hcopied
  · exact hcopied

theorem applyCandidate_hands {cand : Nat} (h : Hands s₀ s) : Hands s₀ (applyCandidate cand s) := by
  have hdwell (d : Nat) : Hands s₀ (modDsv (fun x => { x with dwell := d }) s) := h.same rfl rfl fun _ => rfl
  unfold applyCandidate
  split
  · exact changeClass_hands (hdwell 0)
  · split
    · exact hdwell 0
    · split
      · exact changeClass_hands (hdwell 0)
      · exact hdwell _

theorem evaluateClass_hands (h : Hands s₀ s) : Hands s₀ (evaluateClass s) := by
  unfold evaluateClass
  split
  · exact applyCandidate_hands h
  · exact applyCandidate_hands h
  · exact applyCandidate_hands (h.same rfl rfl fun _ => rfl)
  · exact applyCandidate_hands (h.same rfl rfl fun _ => rfl)

theorem enterServo_hands {new : ServoState} {cause : ServoCause} (h : Hands s₀ s) : Hands s₀ (enterServo new cause s) := by
  unfold enterServo
  dsimp only
  split
  · exact evaluateClass_hands (stage_hands (h.same rfl rfl fun _ => rfl))
  · exact evaluateClass_hands (stage_hands (h.same rfl rfl fun _ => rfl))

theorem dsvBoundary_hands (h : Hands s₀ s) : Hands s₀ (dsvBoundary s) := by
  unfold dsvBoundary
  dsimp only
  split
  · split
    · exact enterServo_hands (h.same rfl rfl fun _ => rfl)
    · exact evaluateClass_hands (h.same rfl rfl fun _ => rfl)
  · exact evaluateClass_hands (h.same rfl rfl fun _ => rfl)

theorem crsBoundary_hands {r : Report} (h : Hands s₀ s) : Hands s₀ (crsBoundary r s) := by
  have hstep (d : Int) : Hands s₀ (crsStep d s) :=
    forEach_hands (h.same rfl rfl fun _ => rfl) fun n u hu =>
      queueIfChanged_hands (evaluate_hands (hu.same rfl rfl fun _ => rfl))
  unfold crsBoundary ageNewcomers
  split
  · exact h.same rfl rfl fun _ => rfl
  · exact (hstep _).same rfl rfl fun _ => rfl

theorem voidPort_hands {p : Port} (h : Hands s₀ s) : Hands s₀ (voidPort p s) :=
  (forEach_hands (f := fun e : Exchange => clearExpired e.slot p) h fun _ _ hu => hu.same rfl rfl fun _ => rfl).same rfl rfl fun _ => rfl

theorem addDebt_hands {epoch n : Nat} {p : Port} (h : Hands s₀ s) : Hands s₀ (addDebt epoch n p s) := by
  unfold addDebt
  split
  · dsimp only
    split
    · exact stage_hands (h.same rfl rfl fun _ => rfl)
    · exact h.same rfl rfl fun _ => rfl
  · exact h

theorem joinIfLost_hands {before : Client} {n : Nat} {p : Port} (h : Hands s₀ s) : Hands s₀ (joinIfLost before n p s) := by
  unfold joinIfLost
  split
  · exact joinRoll_hands h
  · exact h

theorem clientDebt_hands {epoch n : Nat} (h : Hands s₀ s) : Hands s₀ (clientDebt epoch n s) :=
  joinIfLost_hands (joinIfLost_hands (queueIfChanged_hands (evaluate_hands (addDebt_hands (addDebt_hands h)))))

theorem refreshBoth_hands (h : Hands s₀ s) : Hands s₀ (refreshBoth s) := h.same rfl rfl fun _ => rfl

theorem rngBoundary_hands {r : Report} (h : Hands s₀ s) : Hands s₀ (rngBoundary r s) := by
  unfold rngBoundary
  refine refreshBoth_hands (forEach_hands ?_ fun n u hu => clientDebt_hands hu)
  split
  · exact h
  · exact (voidPort_hands (voidPort_hands h)).same rfl rfl fun _ => rfl

theorem noticeEpoch_hands {i : Nat} (h : Hands s₀ s) : Hands s₀ (noticeEpoch i s) := by
  unfold noticeEpoch
  (repeat' split) <;> first
    | exact h
    | exact stage_hands (h.same rfl rfl fun p => by cases p <;> rfl)

theorem boundarySchedule_hands {r : Report} {p : Port} (h : Hands s₀ s) : Hands s₀ (boundarySchedule r p s) := by
  unfold boundarySchedule
  split
  · refine h.same rfl rfl fun q => ?_
    by_cases hq : q = p
    · subst hq; rw [beaconPort_modBeacon, scheduleAt_roll]
    · rw [beaconPort_modBeacon_ne hq]
  · exact h

theorem announceBoundary_hands {r : Report} {p : Port} {n : Nat} (h : Hands s₀ s) : Hands s₀ (announceBoundary r p n s) := by
  unfold announceBoundary
  split
  · exact joinRoll_hands h
  · exact h

theorem bcuBoundary_hands {r : Report} (h : Hands s₀ s) : Hands s₀ (bcuBoundary r s) := by
  unfold bcuBoundary
  refine forEach_hands (forEach_hands (boundarySchedule_hands (boundarySchedule_hands ?_))
    fun n u hu => announceBoundary_hands (announceBoundary_hands hu)) fun i u hu => noticeEpoch_hands hu
  split
  · exact h
  · exact h.same rfl rfl fun _ => rfl

theorem transfer_grows {r : Report} {c : Nat} (h : Grows s₀ s) : Grows s₀ (transfer r c s) := by
  unfold transfer
  split
  · exact h
  · exact complete_grows (h.same rfl rfl fun _ => rfl)

theorem startArm_grows {r : Report} {slot : Nat} (h : Grows s₀ s) : Grows s₀ (startArm r slot s) := by
  unfold startArm
  dsimp only
  split
  · exact complete_grows (forEach_grows h fun _ _ hu => (modChannel_hands (.refl _)).after hu)
  · exact h

theorem pouBoundary_grows {r : Report} (h : Grows s₀ s) : Grows s₀ (pouBoundary r s) := by
  have hstarted : Grows s₀ (forEach (List.range 32) (startArm r) (forEach (List.range 8) (transfer r) s)) :=
    forEach_grows (forEach_grows h fun _ _ hu => transfer_grows hu) fun _ _ hu => startArm_grows hu
  unfold pouBoundary
  split
  · exact hstarted
  · exact (modPou_hands (.refl _)).after hstarted

theorem captureRecord_hands {i : Fin 4} {cap : Captured} {interval : Option Nat} {outcome : CaptureOutcome} {p : Option Int}
    (h : Hands s₀ s) : Hands s₀ (captureRecord i cap interval outcome p s) := by
  unfold captureRecord
  split
  · exact h
  · exact stage_hands h

theorem pulseResult_hands {n : Nat} {p : Int} {within : Bool} (h : Hands s₀ s) : Hands s₀ (pulseResult n p within s) :=
  queuePub_hands (evaluate_hands (h.same rfl rfl fun _ => rfl))

theorem capture_hands {i : Fin 4} {cap : Captured} (h : Hands s₀ s) : Hands s₀ (capture i cap s) := by
  unfold capture
  dsimp only
  split
  · exact captureRecord_hands (h.same rfl rfl fun _ => rfl)
  · split
    · exact pulseResult_hands (captureRecord_hands (h.same rfl rfl fun _ => rfl))
    · exact pulseResult_hands (captureRecord_hands (h.same rfl rfl fun _ => rfl))

theorem confirmIf_hands {reached : Nat → Bool} {i : Fin 4} (h : Hands s₀ s) : Hands s₀ (confirmIf reached i s) := by
  unfold confirmIf confirm
  dsimp only
  (repeat' split)
  · exact h
  · exact capture_hands (h.same rfl rfl fun _ => rfl)
  · exact h.same rfl rfl fun _ => rfl
  · exact h

theorem evcBoundary_hands {r : Report} (h : Hands s₀ s) : Hands s₀ (evcBoundary r s) := by
  unfold evcBoundary
  split
  · exact h
  · exact forEach_hands (h.same rfl rfl fun _ => rfl) fun i u hu => confirmIf_hands hu

/-- The blocks other than the Timebase and the Pulse Output Unit complete no order. -/
theorem blockBoundary_hands {r : Report} {b : Block} (htbs : b ≠ .tbs) (hpou : b ≠ .pou) : Hands s (blockBoundary r b s) := by
  cases b
  case tbs => exact absurd rfl htbs
  case pou => exact absurd rfl hpou
  case rfi =>
    simp only [blockBoundary]
    split
    · exact .refl s
    · exact (Hands.refl s).same rfl rfl fun _ => rfl
  case dsv => exact dsvBoundary_hands (.refl s)
  case lnk =>
    simp only [blockBoundary, lnkBoundary]
    split
    · exact .refl s
    · exact (Hands.refl s).same rfl rfl fun _ => rfl
  case crs => exact crsBoundary_hands (.refl s)
  case rng => exact rngBoundary_hands (.refl s)
  case bcu => exact bcuBoundary_hands (.refl s)
  case evc => exact evcBoundary_hands (.refl s)

theorem blockBoundary_grows {r : Report} {b : Block} (h : Grows s₀ s) : Grows s₀ (blockBoundary r b s) := by
  cases b
  case tbs => exact (applyLeap_hands (.refl _)).after (stepApplied_grows h)
  case pou => exact pouBoundary_grows h
  all_goals exact (blockBoundary_hands (by decide) (by decide)).after h

/-! ## The order of the blocks -/

theorem eraseDups_nodup : ∀ bs : List Block, bs.eraseDups.Nodup
  | [] => List.nodup_nil
  | b :: bs => by
    rw [List.eraseDups_cons]
    exact List.nodup_cons.2 ⟨by simp, eraseDups_nodup _⟩
termination_by bs => bs.length
decreasing_by exact Nat.lt_succ_of_le (List.length_filter_le _ _)

theorem blockOrder_nodup (named : List Block) : (blockOrder named).Nodup := by
  refine List.nodup_append.2 ⟨eraseDups_nodup named, (by decide : Config.blockOrder.Nodup).filter _, ?_⟩
  intro a ha b hb
  rintro rfl
  simp_all

/-- Log 6: every block takes the report, whichever are named. -/
theorem mem_blockOrder (named : List Block) (b : Block) : b ∈ blockOrder named := by
  have hall : b ∈ Config.blockOrder := by cases b <;> decide
  by_cases h : b ∈ named
  · exact List.mem_append_left _ (List.mem_eraseDups.2 h)
  · exact List.mem_append_right _ (List.mem_filter.2 ⟨hall, by simpa using h⟩)

/-- The state at a boundary once device time has moved, before the blocks take the report. -/
def ticked (s : State) : State := tickTimer (modTbs Timebase.boundaryTick s)

theorem boundary_eq (named : List Block) (s : State) :
    boundary named s = forEach (blockOrder named) (blockBoundary s.tbs.report) (ticked s) := rfl

/-- A run over distinct elements around one of them: `R`, which the others keep, stands up to its turn and after it. -/
theorem forEach_around {α : Type} {R : State → State → Prop} (hrefl : ∀ u, R u u) (htrans : ∀ {u v w}, R u v → R v w → R u w)
    {f : α → State → State} {xs : List α} {x : α} (hx : x ∈ xs) (hnodup : xs.Nodup) (hothers : ∀ y, y ≠ x → ∀ u, R u (f y u))
    (s : State) : ∃ u, R s u ∧ R (f x u) (forEach xs f s) := by
  obtain ⟨before, after, rfl⟩ := List.append_of_mem hx
  rw [List.nodup_append, List.nodup_cons] at hnodup
  obtain ⟨-, ⟨hafter, -⟩, hbefore⟩ := hnodup
  have hrun (ys : List α) (hy : x ∉ ys) (v : State) : R v (forEach ys f v) :=
    forEach_keeps (R v) f ys (fun y hmem u hu => htrans hu (hothers y (fun e => hy (e ▸ hmem)) u)) v (hrefl v)
  refine ⟨forEach before f s, hrun before (fun h => hbefore x h x List.mem_cons_self rfl) s, ?_⟩
  rw [forEach_append, forEach_cons]
  exact hrun after hafter _

/-- A boundary around one of its blocks: `R`, which the other blocks keep, stands from the tick to the state in which the block
takes the report, and from what the block leaves to the end. -/
theorem boundary_around {R : State → State → Prop} (hrefl : ∀ u, R u u) (htrans : ∀ {u v w}, R u v → R v w → R u w)
    (b : Block) (named : List Block) (s : State)
    (hothers : ∀ b', b' ≠ b → ∀ v, R v (blockBoundary s.tbs.report b' v)) :
    ∃ u, R (ticked s) u ∧ R (blockBoundary s.tbs.report b u) (boundary named s) :=
  forEach_around hrefl htrans (mem_blockOrder named b) (blockOrder_nodup named) hothers (ticked s)

end Sys2Proof.Machine

/-! The Timebase at a second boundary (O16, O18). -/

namespace Sys2Proof.Machine

variable {s : State}

/-! ## Device time -/

/-- R8: the greatest device time in fraction units. -/
theorem maxUnits_eq : maxUnits = 281474976710655 * 4294967296000000000 + 999999999 * 4294967296 := rfl

theorem ofUnits_units {u : Nat} (h : u ≤ maxUnits) : (DeviceTime.ofUnits u).units = u := by
  rw [maxUnits_eq] at h
  simp only [DeviceTime.ofUnits, DeviceTime.units, unitsPerSec, unitsPerNs, secSpan]
  omega

/-- R8: a step moves device time by Δ, held at both ends of its range. -/
theorem stepBy_units (t : DeviceTime) (delta : Int) :
    ((t.stepBy delta).units : Int) = max 0 (min (281474976710655 * 4294967296000000000 + 999999999 * 4294967296)
      ((t.units : Int) + delta * 2 ^ 28)) := by
  have hmax : (maxUnits : Int) = 281474976710655 * 4294967296000000000 + 999999999 * 4294967296 := by
    rw [maxUnits_eq]; rfl
  have hu : (t.units : Int) + delta * (unitsPerSix : Int) = (t.units : Int) + delta * 2 ^ 28 := by norm_num [unitsPerSix]
  unfold DeviceTime.stepBy
  dsimp only
  rw [hu, ← hmax]
  generalize (t.units : Int) + delta * 2 ^ 28 = u
  split
  · simp only [DeviceTime.units]; omega
  · split
    · have : (DeviceTime.units ⟨secSpan - 1, nsPerSec - 1, 0⟩ : Int) = maxUnits := rfl
      omega
    · rw [ofUnits_units (by omega)]; omega

/-- Device time as ch. 11.4 lays it out. -/
theorem timeBytes_six {t : DeviceTime} (hns : t.ns < nsPerSec) (hfrac : t.frac < unitsPerNs) :
    timeBytes t.six = le 8 t.sec ++ le 4 t.ns ++ le 1 (t.frac / 2 ^ 28) := by
  simp only [nsPerSec, unitsPerNs] at hns hfrac
  have hsec : secOf t.six = t.sec := by simp only [secOf, DeviceTime.six, sixPerSec, unitsPerSix]; omega
  have hnano : nsOf t.six = t.ns := by simp only [nsOf, DeviceTime.six, sixPerSec, unitsPerSix]; omega
  have hsix : sixOf t.six = t.frac / 2 ^ 28 := by simp only [sixOf, DeviceTime.six, sixPerSec, unitsPerSix]; omega
  rw [timeBytes, hsec, hnano, hsix]

/-- R1: device time after a tick across a second boundary. -/
theorem advance_across {t : DeviceTime} {inc : Nat} (hsec : t.sec < secSpan) (hc : t.crosses inc = true) :
    t.advance inc = ⟨(t.sec + 1) % 2 ^ 48, t.ns + (t.frac + inc) / 2 ^ 32 - 1000000000, (t.frac + inc) % 2 ^ 32⟩ := by
  have hnext : (if t.sec + 1 < secSpan then t.sec + 1 else 0) = (t.sec + 1) % 2 ^ 48 := by
    have hspan : secSpan = 2 ^ 48 := rfl
    by_cases hlast : t.sec + 1 < secSpan
    · rw [if_pos hlast]; omega
    · rw [if_neg hlast]; omega
  rw [DeviceTime.advance, if_pos hc, hnext]
  rfl

/-! ## When a step is due -/

variable (hok : TimeOk s) (hb : s.tbs.atBoundary = true)

include hok hb in
/-- R6: the epoch second of a boundary. -/
theorem nextSec_eq : s.tbs.nextSec = (s.tbs.time.sec + 1) % 2 ^ 48 := by
  rw [Timebase.nextSec, advance_across hok.1 hb]

include hok in
/-- R8: where a posted step is due. -/
theorem stepDue_iff : s.tbs.stepDue = true ↔ s.tbs.atBoundary = true ∧
    ∃ p, s.tbs.posted = some p ∧ (p.target = none ∨ p.target = some ((s.tbs.time.sec + 1) % 2 ^ 48)) := by
  unfold Timebase.stepDue
  cases hp : s.tbs.posted with
  | none => simp
  | some p =>
    rw [Bool.and_eq_true]
    refine and_congr_right fun hb => ?_
    rw [nextSec_eq hok hb]
    cases ht : p.target <;> simp [ht]

theorem dueDelta_none (hd : s.tbs.stepDue = false) : s.tbs.dueDelta = none := by
  rw [Timebase.dueDelta, if_neg (by simp [hd])]

theorem dueDelta_some {p : PostedStep} (hp : s.tbs.posted = some p) (hd : s.tbs.stepDue = true) :
    s.tbs.dueDelta = some p.delta := by
  rw [Timebase.dueDelta, if_pos hd, hp]; rfl

/-- R6: what the blocks are told of a boundary without a step. -/
theorem report_unstepped (hd : s.tbs.stepDue = false) :
    s.tbs.report = { epoch := s.tbs.nextSec, step := none, instant := s.tbs.nextSec * sixPerSec } := by
  rw [Timebase.report, dueDelta_none hd]

/-- R8: what the blocks are told of a boundary with a step. -/
theorem report_stepped {p : PostedStep} (hp : s.tbs.posted = some p) (hd : s.tbs.stepDue = true) :
    s.tbs.report =
      { epoch := s.tbs.nextSec, step := some p.delta, instant := moveBy p.delta (s.tbs.nextSec * sixPerSec) } := by
  rw [Timebase.report, dueDelta_some hp hd]

theorem report_epoch (s : State) : s.tbs.report.epoch = s.tbs.nextSec := by
  unfold Timebase.report; split <;> rfl

theorem report_step_none_iff (s : State) : s.tbs.report.step = none ↔ s.tbs.stepDue = false := by
  cases hd : s.tbs.stepDue with
  | false => simp [report_unstepped hd]
  | true =>
    obtain ⟨p, hp⟩ : ∃ p, s.tbs.posted = some p := by
      cases hp : s.tbs.posted with
      | none => simp [Timebase.stepDue, hp] at hd
      | some p => exact ⟨p, rfl⟩
    simp [report_stepped hp hd]

/-! ## What the boundary leaves of the Timebase -/

/-- R46, R55: the servo at a boundary leaves the Timebase: an entry to FREERUN writes no Φ. -/
theorem dsvBoundary_tbs (s : State) : (dsvBoundary s).tbs = s.tbs := by
  unfold dsvBoundary
  dsimp only
  split
  · split
    · rw [(enterServo_spec .freerun .limit _).2.1]; rfl
    · exact (evaluateClass_spec _).2.1
  · exact (evaluateClass_spec _).2.1

theorem blockBoundary_tbs {r : Report} {b : Block} (hb : b ≠ .tbs) (s : State) : (blockBoundary r b s).tbs = s.tbs := by
  cases b <;> simp only [blockBoundary]
  case tbs => exact absurd rfl hb
  case rfi => split <;> simp
  case dsv => exact dsvBoundary_tbs s
  all_goals simp

theorem stepApplied_tbs (r : Report) (s : State) :
    (stepApplied r s).tbs = { s.tbs with posted := if r.step = none then s.tbs.posted else none } := by
  unfold stepApplied
  split
  next d p hstep hp => cases p.origin <;> simp [hstep]
  next hnone =>
    cases hstep : r.step with
    | none => simp
    | some d =>
      cases hp : s.tbs.posted with
      | none => rw [if_neg (by simp), ← hp]
      | some p => exact absurd hp (hnone d p hstep)

/-- R15: the Timebase after the leap's turn at a boundary. -/
theorem applyLeap_tbs (s : State) :
    (∀ l, s.tbs.leap = some l → l.epoch ≤ s.tbs.time.sec →
      (applyLeap s).tbs = { s.tbs with leap := none, utcOffset := satOffset (s.tbs.utcOffset + if l.insert then 1 else -1) } ∧
      handedOn s (applyLeap s) (.leapApplied l.insert (applyLeap s).tbs.utcOffset l.epoch)) ∧
    ((∀ l, s.tbs.leap = some l → s.tbs.time.sec < l.epoch) → applyLeap s = s) := by
  refine ⟨fun l hl hreached => ?_, fun hnone => ?_⟩
  · have happly : applyLeap s = stage (.leapApplied l.insert (satOffset (s.tbs.utcOffset + if l.insert then 1 else -1)) l.epoch)
        (modTbs (fun t => { t with utcOffset := satOffset (s.tbs.utcOffset + if l.insert then 1 else -1), leap := none }) s) := by
      unfold applyLeap; rw [hl]; exact if_pos hreached
    rw [happly]
    refine ⟨by simp, ?_⟩
    simp only [stage_frame, modTbs_tbs]
    exact handedOn_stage _ (modTbs _ s)
  · unfold applyLeap
    split
    · rfl
    next l hl => exact if_neg (Nat.not_le.2 (hnone l hl))

/-- The boundary around the Timebase's own part. -/
theorem boundary_tbs (named : List Block) (s : State) : ∃ u, u.tbs = s.tbs.boundaryTick ∧ Grows (ticked s) u ∧
    (boundary named s).tbs = (tbsBoundary s.tbs.report u).tbs ∧ Grows (tbsBoundary s.tbs.report u) (boundary named s) := by
  obtain ⟨u, ⟨hu, hgu⟩, ht, hgt⟩ := boundary_around (R := fun u v => v.tbs = u.tbs ∧ Grows u v)
    (fun u => ⟨rfl, .refl u⟩) (fun h k => ⟨k.1.trans h.1, h.2.trans k.2⟩) .tbs named s
    fun b hb v => ⟨blockBoundary_tbs hb v, blockBoundary_grows (.refl v)⟩
  exact ⟨u, hu, hgu, ht, hgt⟩

theorem exec_boundary {blocks : List Block} (hb : s.tbs.atBoundary = true) :
    exec (.secondBoundary blocks) s = .next (boundary blocks s) := by
  rw [exec, execSecondBoundary, if_pos hb]

theorem boundaryTick_leap (tb : Timebase) : tb.boundaryTick.leap = tb.leap ∧ tb.boundaryTick.utcOffset = tb.utcOffset ∧
    tb.boundaryTick.posted = tb.posted := by
  cases hd : tb.dueDelta with
  | none => rw [boundaryTick_unstepped hd]; exact ⟨rfl, rfl, rfl⟩
  | some d => rw [boundaryTick_stepped hd]; exact ⟨rfl, rfl, rfl⟩

/-- Settles O18: the leap's turn, around which the other blocks leave the Timebase and staging only grows. -/
theorem boundaryAppliesLeap : Obligations.BoundaryAppliesLeap := by
  intro s blocks hb
  obtain ⟨u, hu, -, ht, hgt⟩ := boundary_tbs blocks s
  obtain ⟨hleap, hoffset, -⟩ := boundaryTick_leap s.tbs
  obtain ⟨happlies, hstands⟩ := applyLeap_tbs (stepApplied s.tbs.report u)
  rw [stepApplied_tbs, hu, hleap, hoffset] at happlies
  rw [stepApplied_tbs, hu, hleap] at hstands
  have hsec : (boundary blocks s).tbs.time.sec = s.tbs.boundaryTick.time.sec := by
    rw [ht, tbsBoundary, ← hu]
    unfold applyLeap
    split
    · rw [stepApplied_tbs]
    · split <;> simp [stepApplied_tbs]
  refine ⟨_, exec_boundary hb, fun l hl hreached => ?_, fun hbefore => ?_⟩
  · obtain ⟨htbs, hhanded⟩ := happlies l hl (hsec ▸ hreached)
    rw [ht, tbsBoundary, htbs]
    rw [htbs] at hhanded
    refine ⟨rfl, rfl, ?_⟩
    exact staged_of_handedOn (hgt.handedOn hhanded)
  · rw [ht, tbsBoundary, hstands fun l hl => hsec ▸ hbefore l hl, stepApplied_tbs, hu]
    exact ⟨hleap, hoffset⟩

/-! ## Device time across the boundary -/

theorem tbsBoundary_tbs (r : Report) (s : State) : ∃ offset leap, (tbsBoundary r s).tbs =
    { s.tbs with posted := if r.step = none then s.tbs.posted else none, utcOffset := offset, leap := leap } := by
  obtain ⟨happlies, hstands⟩ := applyLeap_tbs (stepApplied r s)
  by_cases h : ∃ l, (stepApplied r s).tbs.leap = some l ∧ l.epoch ≤ (stepApplied r s).tbs.time.sec
  · obtain ⟨l, hl, hreached⟩ := h
    exact ⟨_, _, by rw [tbsBoundary, (happlies l hl hreached).1, stepApplied_tbs]⟩
  · have hkeep := hstands fun l hl => Nat.not_le.1 fun hle => h ⟨l, hl, hle⟩
    exact ⟨s.tbs.utcOffset, s.tbs.leap, by rw [tbsBoundary, hkeep, stepApplied_tbs]⟩

/-- R2, R3: without a slew a tick's increment needs no limit. -/
theorem beginTick_inc_unslewed {tb : Timebase} (hlo : -phiLimit ≤ tb.phi) (hhi : tb.phi ≤ phiLimit)
    (hslew : tb.slew = Slew.none) : (tb.beginTick.tickInc : Int) = 34359738368 + freqTerm tb.phi := by
  have hterm : -3435974 ≤ freqTerm tb.phi ∧ freqTerm tb.phi ≤ 3435974 := by
    simp only [phiLimit] at hlo hhi
    simp only [freqTerm]
    split <;> omega
  rw [beginTick_inc, hslew]
  simp only [Slew.none]
  omega

end Sys2Proof.Machine

/-! The servo at a second boundary (O32): the class, its copies and the output gate. -/

namespace Sys2Proof.Machine

variable {s : State}

/-! ## A change of class and the gate -/

/-- R155: the Pulse Output Unit as a closing of the gate leaves it. -/
def shutUnit (u : PulseUnit) : PulseUnit :=
  { u with gateOpen := false, channels := u.channels.map (fun ch => if ch.active.gated then { ch with fall := none } else ch) }

theorem shutUnit_quiet {u : PulseUnit} {ch : Channel} (hch : ch ∈ (shutUnit u).channels) (hg : ch.active.gated = true) :
    ch.fall = none := by
  obtain ⟨ch', -, rfl⟩ := List.mem_map.1 hch
  split at hg
  next hg' => rw [if_pos hg']
  next hg' => exact absurd hg hg'

/-- R57, R155: what a change of class from `s` to `t` does beyond the servo's own fields. -/
structure ClassMoves (s t : State) : Prop where
  grows : Grows s t
  stands : t.dsv.cls = s.dsv.cls → t.pou = s.pou
  journaled : t.dsv.cls ≠ s.dsv.cls → handedOn s t (.classChange s.dsv.cls t.dsv.cls t.dsv.state t.dsv.eps)
  within : t.dsv.cls ≠ s.dsv.cls → ¬ (s.pou.floor < t.dsv.cls ∧ s.pou.gateOpen = true) →
    t.pou = { s.pou with cls := t.dsv.cls }
  closes : t.dsv.cls ≠ s.dsv.cls → s.pou.floor < t.dsv.cls → s.pou.gateOpen = true →
    t.pou = shutUnit { s.pou with cls := t.dsv.cls } ∧
      handedOn s t (.gateClosed .cls t.dsv.cls s.pou.floor s.pou.inhibit (cutChannels s))

theorem ClassMoves.refl (s : State) : ClassMoves s s :=
  ⟨.refl s, fun _ => rfl, fun h => absurd rfl h, fun h => absurd rfl h, fun h => absurd rfl h⟩

/-- What leaves class and unit may come before. -/
theorem ClassMoves.after {s₀ t : State} (h : ClassMoves s t) (hg : Grows s₀ s) (hc : s.dsv.cls = s₀.dsv.cls)
    (hp : s.pou = s₀.pou) : ClassMoves s₀ t := by
  have hcut : cutChannels s₀ = cutChannels s := by unfold cutChannels; rw [hp]
  refine ⟨hg.trans h.grows, fun e => ?_, fun e => ?_, fun e => ?_, fun e hf ho => ?_⟩
  · exact (h.stands (e.trans hc.symm)).trans hp
  · exact hg.handedOn_before (hc ▸ h.journaled (hc ▸ e))
  · exact hp ▸ h.within (hc ▸ e)
  · rw [hcut]
    obtain ⟨hpou, hhanded⟩ := h.closes (hc ▸ e) (hp ▸ hf) (hp ▸ ho)
    exact ⟨hp ▸ hpou, hg.handedOn_before (hp ▸ hhanded)⟩

/-- R57, R155: the gate as the Pulse Output Unit takes a class. -/
theorem pouClass_spec (new : Nat) (s : State) :
    (¬ (s.pou.floor < new ∧ s.pou.gateOpen = true) → (pouClass new s).pou = { s.pou with cls := new }) ∧
    (s.pou.floor < new → s.pou.gateOpen = true → (pouClass new s).pou = shutUnit { s.pou with cls := new } ∧
      handedOn s (pouClass new s) (.gateClosed .cls new s.pou.floor s.pou.inhibit (cutChannels s))) := by
  refine ⟨fun hstays => ?_, fun hfloor hopen => ?_⟩
  · by_cases hfloor : s.pou.floor < new
    · have hshut : s.pou.gateOpen = false := Bool.eq_false_iff.2 fun hopen => hstays ⟨hfloor, hopen⟩
      have hclass : pouClass new s = modPou (fun u => { u with cls := new }) s :=
        (if_pos hfloor).trans (closeGate_of_closed (s := modPou _ s) hshut)
      rw [hclass]; rfl
    · exact congrArg State.pou (if_neg hfloor)
  · have hclass : pouClass new s = _ := (if_pos hfloor).trans (closeGate_of_open (s := modPou _ s) hopen)
    rw [hclass]
    exact ⟨by simp [shutUnit], handedOn_stage_of rfl⟩

theorem changeClass_moves {new : Nat} (hne : new ≠ s.dsv.cls) : ClassMoves s (changeClass new s) := by
  have hdsv := (changeClass_dsv new s).1
  let copied := modBcu (fun b => { b with cls := new }) (raiseCause .cls (stage (.classChange s.dsv.cls new s.dsv.state s.dsv.eps)
    (modDsv (fun d => { d with cls := new }) s)))
  have hpou : copied.pou = s.pou := by simp [copied]
  have hcut : cutChannels copied = cutChannels s := by unfold cutChannels; rw [hpou]
  have hstart : Hands s (modDsv (fun d => { d with cls := new }) s) := (Hands.refl s).same rfl rfl fun _ => rfl
  have hcopied : Hands s copied :=
    (raiseCause_hands (stage_hands hstart)).same rfl rfl fun p => by cases p <;> rfl
  obtain ⟨hwithin, hcloses⟩ := pouClass_spec new copied
  have hgrows : Hands s (changeClass new s) := changeClass_hands (.refl s)
  have hrecord : handedOn s copied (.classChange s.dsv.cls new s.dsv.state s.dsv.eps) :=
    hstart.grows.handedOn_before (handedOn_stage _ _)
  rw [hpou] at hwithin hcloses
  rw [hcut] at hcloses
  refine ⟨hgrows.grows, fun e => ?_, fun _ => ?_, fun _ => ?_, fun _ hf ho => ?_⟩ <;> rw [hdsv] at *
  · exact absurd e hne
  · refine handedOn_mono hrecord (le_refl _) ?_
    show copied.xch.staging <+: (pouClass new copied).xch.staging
    unfold pouClass
    dsimp only
    split
    · exact closeGate_staging .cls (modPou _ copied)
    · exact List.prefix_refl _
  · exact hwithin
  · obtain ⟨hshut, hhanded⟩ := hcloses hf ho
    exact ⟨hshut, hcopied.grows.handedOn_before hhanded⟩

theorem applyCandidate_moves (cand : Nat) (s : State) : ClassMoves s (applyCandidate cand s) := by
  have hdwell (d : Nat) : Grows s (modDsv (fun x => { x with dwell := d }) s) := (Grows.refl s).same rfl rfl fun _ => rfl
  have hmove (hne : cand ≠ s.dsv.cls) : ClassMoves s (changeClass cand (modDsv (fun d => { d with dwell := 0 }) s)) :=
    (changeClass_moves (s := modDsv (fun d => { d with dwell := 0 }) s) hne).after (hdwell 0) rfl rfl
  unfold applyCandidate
  split
  next hlt => exact hmove (by omega)
  next =>
    split
    next => exact (ClassMoves.refl _).after (hdwell 0) rfl rfl
    next hne =>
      split
      · exact hmove hne
      · exact (ClassMoves.refl _).after (hdwell _) rfl rfl

theorem evaluateClass_moves (s : State) : ClassMoves s (evaluateClass s) := by
  unfold evaluateClass
  dsimp only
  split
  · exact applyCandidate_moves _ s
  · exact applyCandidate_moves _ s
  · exact (applyCandidate_moves _ _).after ((Grows.refl s).same rfl rfl fun _ => rfl) rfl rfl
  · exact (applyCandidate_moves _ _).after ((Grows.refl s).same rfl rfl fun _ => rfl) rfl rfl

theorem enterServo_moves (new : ServoState) (cause : ServoCause) (s : State) : ClassMoves s (enterServo new cause s) := by
  have hentry : Hands s (modDsv (entryEffects new) s) := modDsv_hands (.refl s)
  have hcls : (entryEffects new s.dsv).cls = s.dsv.cls := by cases new <;> rfl
  unfold enterServo
  dsimp only
  split
  · exact (evaluateClass_moves _).after (stage_hands (modTbs_hands hentry)).grows (by simpa using hcls) (by simp)
  · exact (evaluateClass_moves _).after (stage_hands hentry).grows (by simpa using hcls) (by simp)

/-! ## The servo's turn -/

/-- R46, R55: the servo's fields at a boundary, before the class evaluation. -/
def boundaryServo (d : Servo) : Servo :=
  let e := { d with stepOutstanding := false }
  if d.state = .holdover then
    if limitReached (holdSecond e) then entryEffects .freerun (holdSecond e) else holdSecond e
  else e

theorem dsvBoundary_dsv (s : State) : (dsvBoundary s).dsv = classEvaluated (boundaryServo s.dsv) := by
  unfold dsvBoundary boundaryServo
  dsimp only
  split
  next h =>
    have h : s.dsv.state = .holdover := h
    rw [if_pos h]
    split
    next hl => exact (enterServo_spec .freerun .limit _).1.trans (congrArg classEvaluated (if_pos hl).symm)
    next hl => exact (evaluateClass_spec _).1.trans (congrArg classEvaluated (if_neg hl).symm)
  next h =>
    have h : s.dsv.state ≠ .holdover := h
    rw [(evaluateClass_spec _).1, if_neg h]; rfl

theorem dsvBoundary_moves (s : State) : ClassMoves s (dsvBoundary s) := by
  unfold dsvBoundary
  dsimp only
  split
  · split
    · exact (enterServo_moves _ _ _).after ((Grows.refl s).same rfl rfl fun _ => rfl) rfl rfl
    · exact (evaluateClass_moves _).after ((Grows.refl s).same rfl rfl fun _ => rfl) rfl rfl
  · exact (evaluateClass_moves _).after ((Grows.refl s).same rfl rfl fun _ => rfl) rfl rfl

/-- R53, R55: the record of a holdover that reaches its limit. -/
theorem dsvBoundary_limit (hs : s.dsv.state = .holdover)
    (hl : limitReached (holdSecond { s.dsv with stepOutstanding := false }) = true) :
    handedOn s (dsvBoundary s) (.servoState .holdover .freerun .limit s.tbs.phi
      (holdSecond s.dsv).eps s.dsv.labelCount s.dsv.gatedCount) := by
  have hgrown : Grows s (modDsv holdSecond (modDsv (fun d => { d with stepOutstanding := false }) s)) :=
    (Grows.refl s).same rfl rfl fun _ => rfl
  have henter : dsvBoundary s =
      enterServo .freerun .limit (modDsv holdSecond (modDsv (fun d => { d with stepOutstanding := false }) s)) := by
    unfold dsvBoundary
    simp only [modDsv_dsv, hs]
    exact if_pos hl
  have hhanded := (enterServo_spec .freerun .limit
    (modDsv holdSecond (modDsv (fun d => { d with stepOutstanding := false }) s))).2.2.1
  rw [henter]
  refine hgrown.handedOn_before ?_
  simpa [entryEffects, holdSecond, hs] using hhanded

/-! ## The other blocks and the gate -/

theorem blockBoundary_dsv {r : Report} {b : Block} (hb : b ≠ .dsv) (s : State) : (blockBoundary r b s).dsv = s.dsv := by
  cases b <;> simp only [blockBoundary]
  case dsv => exact absurd rfl hb
  case rfi => split <;> simp
  all_goals simp

/-- The blocks other than the servo and the Pulse Output Unit leave the unit. -/
theorem blockBoundary_pou {r : Report} {b : Block} (hdsv : b ≠ .dsv) (hpou : b ≠ .pou) (s : State) :
    (blockBoundary r b s).pou = s.pou := by
  cases b <;> simp only [blockBoundary]
  case dsv => exact absurd rfl hdsv
  case pou => exact absurd rfl hpou
  case rfi => split <;> simp
  all_goals simp

/-- A change of channels alone. -/
def gateStands (u v : PulseUnit) : Prop :=
  v.gateOpen = u.gateOpen ∧ v.floor = u.floor ∧ v.inhibit = u.inhibit ∧ v.cls = u.cls

theorem modChannel_gate (c : Nat) (f : Channel → Channel) (s : State) : gateStands s.pou (modChannel c f s).pou :=
  ⟨rfl, rfl, rfl, rfl⟩

theorem gateStands.trans {u v w : PulseUnit} (h : gateStands u v) (k : gateStands v w) : gateStands u w := by
  obtain ⟨h₁, h₂, h₃, h₄⟩ := h
  obtain ⟨k₁, k₂, k₃, k₄⟩ := k
  exact ⟨k₁.trans h₁, k₂.trans h₂, k₃.trans h₃, k₄.trans h₄⟩

theorem transfer_gate (r : Report) (c : Nat) (s : State) : gateStands s.pou (transfer r c s).pou := by
  unfold transfer
  split
  · exact ⟨rfl, rfl, rfl, rfl⟩
  · exact modChannel_gate ..

theorem startArm_gate (r : Report) (slot : Nat) (s : State) : gateStands s.pou (startArm r slot s).pou := by
  unfold startArm
  dsimp only
  split
  · exact forEach_keeps (fun u => gateStands s.pou u.pou) _ _ (fun c _ u hu => hu.trans (modChannel_gate ..)) s ⟨rfl, rfl, rfl, rfl⟩
  · exact ⟨rfl, rfl, rfl, rfl⟩

theorem pouStep_gate (d : Int) (s : State) : gateStands s.pou (pouStep d s).pou := ⟨rfl, rfl, rfl, rfl⟩

/-- R148, R151, R153: the channels' turn leaves the gate. -/
theorem pouBoundary_gate (r : Report) (s : State) : gateStands s.pou (pouBoundary r s).pou := by
  have hstarted : gateStands s.pou (forEach (List.range 32) (startArm r) (forEach (List.range 8) (transfer r) s)).pou :=
    forEach_keeps (fun u => gateStands s.pou u.pou) _ _ (fun k _ u hu => hu.trans (startArm_gate r k u)) _
      (forEach_keeps (fun u => gateStands s.pou u.pou) _ _ (fun c _ u hu => hu.trans (transfer_gate r c u)) s ⟨rfl, rfl, rfl, rfl⟩)
  unfold pouBoundary
  dsimp only
  split
  · exact hstarted
  · exact hstarted.trans (pouStep_gate ..)

/-- No channel has a pending schedule or waits for an order. -/
def channelsIdle (s : State) : Prop := ∀ ch ∈ s.pou.channels, ch.pending = none ∧ ch.arm = none

theorem channel_idle (h : channelsIdle s) (c : Nat) : (channel s c).pending = none ∧ (channel s c).arm = none := by
  by_cases hc : c < s.pou.channels.length
  · rw [channel, List.getD_eq_getElem?_getD, List.getElem?_eq_getElem hc]
    exact h _ (List.getElem_mem hc)
  · rw [channel, List.getD_eq_getElem?_getD, List.getElem?_eq_none (by omega)]
    exact ⟨rfl, rfl⟩

/-- R148, R151: with no pending schedule and no order waited for a boundary without a step leaves the channels. -/
theorem pouBoundary_idle {r : Report} (h : channelsIdle s) (hr : r.step = none) : (pouBoundary r s).pou.channels = s.pou.channels := by
  have hidle {u : State} (hu : u.pou.channels = s.pou.channels) : channelsIdle u := by
    unfold channelsIdle; rw [hu]; exact h
  have htransfer (c : Nat) (u : State) (hu : u.pou.channels = s.pou.channels) : (transfer r c u).pou.channels = s.pou.channels := by
    rw [transfer, (channel_idle (hidle hu) c).1]; exact hu
  have hstart (k : Nat) (u : State) (hu : u.pou.channels = s.pou.channels) : (startArm r k u).pou.channels = s.pou.channels := by
    have hnone : armedBy k u = [] := by
      refine List.map_eq_nil_iff.2 (List.filter_eq_nil_iff.2 fun p hp => ?_)
      have hch := (List.mem_zipIdx hp).2.2
      have := (hidle hu p.1 (hch ▸ List.getElem_mem _)).2
      simp [this]
    unfold startArm
    rw [hnone]
    split <;> exact hu
  have hturn : pouBoundary r s = forEach (List.range 32) (startArm r) (forEach (List.range 8) (transfer r) s) := by
    unfold pouBoundary; rw [hr]
  rw [hturn]
  exact forEach_keeps (fun u => u.pou.channels = s.pou.channels) _ _ (fun k _ u hu => hstart k u hu) _
    (forEach_keeps (fun u => u.pou.channels = s.pou.channels) _ _ (fun c _ u hu => htransfer c u hu) s rfl)

/-- What the other blocks leave around the servo's turn. -/
structure ServoStands (idle : Prop) (u v : State) : Prop where
  dsv : v.dsv = u.dsv
  phi : v.tbs.phi = u.tbs.phi
  grows : Grows u v
  gate : gateStands u.pou v.pou
  law : GateOk u → GateOk v
  channels : idle → channelsIdle u → v.pou.channels = u.pou.channels

theorem blockBoundary_stands {r : Report} {b : Block} (hb : b ≠ .dsv) (s : State) :
    ServoStands (r.step = none) s (blockBoundary r b s) where
  dsv := blockBoundary_dsv hb s
  phi := by
    by_cases htbs : b = .tbs
    · subst htbs
      obtain ⟨offset, leap, e⟩ := tbsBoundary_tbs r s
      simp [blockBoundary, e]
    · rw [blockBoundary_tbs htbs]
  grows := blockBoundary_grows (.refl s)
  gate := by
    by_cases hpou : b = .pou
    · subst hpou; exact pouBoundary_gate r s
    · rw [blockBoundary_pou hb hpou]; exact ⟨rfl, rfl, rfl, rfl⟩
  law := (blockBoundary_keeps (Keeps.refl s)).gate
  channels := fun hr hidle => by
    by_cases hpou : b = .pou
    · subst hpou; exact pouBoundary_idle hidle hr
    · rw [blockBoundary_pou hb hpou]

/-- The boundary around the servo's turn. -/
theorem boundary_dsv (named : List Block) (s : State) : ∃ u, ServoStands (s.tbs.report.step = none) (ticked s) u ∧
    ServoStands (s.tbs.report.step = none) (dsvBoundary u) (boundary named s) :=
  boundary_around (R := ServoStands (s.tbs.report.step = none))
    (fun u => ⟨rfl, rfl, .refl u, ⟨rfl, rfl, rfl, rfl⟩, id, fun _ _ => rfl⟩)
    (fun {u v w} h k => ⟨k.dsv.trans h.dsv, k.phi.trans h.phi, h.grows.trans k.grows, h.gate.trans k.gate, k.law ∘ h.law,
      fun hr hidle => by
        have hch := h.channels hr hidle
        exact (k.channels hr (by unfold channelsIdle; rw [hch]; exact hidle)).trans hch⟩)
    .dsv named s fun _ hb v => blockBoundary_stands hb v

/-! ## The obligation -/

theorem ticked_phi (s : State) : (ticked s).tbs.phi = s.tbs.phi := by
  show s.tbs.boundaryTick.phi = s.tbs.phi
  cases hd : s.tbs.dueDelta with
  | none => rw [boundaryTick_unstepped hd]; rfl
  | some d => rw [boundaryTick_stepped hd]; rfl

theorem ticked_grows (s : State) : Grows s (ticked s) := (Grows.refl s).same rfl rfl fun _ => rfl

/-- R55: the holdover limit is reached in the second that a boundary ends. -/
theorem limitReached_holdSecond (d : Servo) : limitReached (holdSecond { d with stepOutstanding := false }) =
    (d.settings.holdoverLimit != 0 && decide (d.settings.holdoverLimit ≤ min (d.holdSeconds + 1) 4294967295)) := rfl

/-- R46, R53 to R57: the servo's fields after a boundary. -/
theorem boundaryServo_evaluated (d : Servo) :
    let t := classEvaluated (boundaryServo d)
    t.stepOutstanding = false ∧ t.errHist = d.errHist ∧ t.rcvEstimate = d.rcvEstimate ∧ t.settings = d.settings ∧
      (let n := min (d.holdSeconds + 1) 4294967295
       let ends : Bool := d.state == .holdover && d.settings.holdoverLimit != 0 && decide (d.settings.holdoverLimit ≤ n)
       let eps := match d.state with
         | .freerun => d.eps
         | .holdover => min (d.eps + d.settings.drift + n * d.settings.aging / 1024) 4294967295
         | .acquire | .track => min ((d.errHist.sum + d.errHist.length - 1) / d.errHist.length + d.rcvEstimate) 4294967295
       let grade := if eps ≤ 100 then 1 else if eps ≤ 1000 then 2 else if eps ≤ 10000 then 3 else if eps ≤ 100000 then 4
         else if eps ≤ 1000000 then 5 else 6
       let cand := if ends ∨ d.state = .freerun then 7 else if d.state = .acquire then max 3 grade else grade
       t.state = (if ends then .freerun else d.state) ∧ t.eps = eps ∧
       t.holdSeconds = (if ends then 0 else if d.state = .holdover then n else d.holdSeconds) ∧
       t.freqHist = (if ends then [] else d.freqHist) ∧ t.labelCount = d.labelCount ∧ t.gatedCount = d.gatedCount ∧
       t.cls = (if d.cls < cand ∨ cand < d.cls ∧ d.settings.improveDwell ≤ d.dwell + 1 then cand else d.cls) ∧
       t.dwell = (if cand < d.cls ∧ d.dwell + 1 < d.settings.improveDwell then d.dwell + 1 else 0)) := by
  cases hs : d.state
  case holdover =>
    cases hl : limitReached (holdSecond { d with stepOutstanding := false })
    · have hturn : boundaryServo d = holdSecond { d with stepOutstanding := false } := (if_pos hs).trans (if_neg (by simp [hl]))
      have hends : (ServoState.holdover == ServoState.holdover && d.settings.holdoverLimit != 0 &&
          decide (d.settings.holdoverLimit ≤ min (d.holdSeconds + 1) 4294967295)) = false := hl
      simp only [hturn, hends, classEvaluated, holdSecond, hs, max32]
      simp
    · have hturn : boundaryServo d = entryEffects .freerun (holdSecond { d with stepOutstanding := false }) :=
        (if_pos hs).trans (if_pos hl)
      have hends : (ServoState.holdover == ServoState.holdover && d.settings.holdoverLimit != 0 &&
          decide (d.settings.holdoverLimit ≤ min (d.holdSeconds + 1) 4294967295)) = true := hl
      simp only [hturn, hends, classEvaluated, holdSecond, entryEffects, max32]
      simp
  all_goals simp [boundaryServo, hs, classEvaluated]

/-- Settles O32: the servo's turn, around which the other blocks leave the servo, Φ and the gate. -/
theorem boundaryEvaluatesClass : Obligations.BoundaryEvaluatesClass := by
  intro s blocks hb _
  obtain ⟨u, hu, ht⟩ := boundary_dsv blocks s
  have hdsv : (dsvBoundary u).dsv = classEvaluated (boundaryServo s.dsv) := by rw [dsvBoundary_dsv, hu.dsv]; rfl
  have htdsv : (boundary blocks s).dsv = classEvaluated (boundaryServo s.dsv) := ht.dsv.trans hdsv
  have hphi : u.tbs.phi = s.tbs.phi := hu.phi.trans (ticked_phi s)
  have hgrown : Grows s u := (ticked_grows s).trans hu.grows
  have hopen : u.pou.gateOpen = s.pou.gateOpen := hu.gate.1
  have hfloor : u.pou.floor = s.pou.floor := hu.gate.2.1
  have hinhibit : u.pou.inhibit = s.pou.inhibit := hu.gate.2.2.1
  have hud : u.dsv = s.dsv := hu.dsv
  obtain ⟨-, hsame, hjournal, hwithin, hclosed⟩ := dsvBoundary_moves u
  rw [← ht.dsv, hud] at hsame hjournal hwithin hclosed
  rw [hfloor, hopen] at hwithin hclosed
  obtain ⟨hout, herr, hrcv, hset, hstate, heps, hhold, hfreq, hlabel, hgated, hclass, hdwell⟩ := boundaryServo_evaluated s.dsv
  rw [← htdsv] at hout herr hrcv hset hstate heps hhold hfreq hlabel hgated hclass hdwell
  refine ⟨_, exec_boundary hb, ?_, hout, herr, hrcv, hset,
    ⟨hstate, heps, hhold, hfreq, hlabel, hgated, fun hends => ?_, hclass, hdwell, fun hne => ?_⟩, fun hstays => ?_, fun hcloses => ?_⟩
  · rw [ht.phi, dsvBoundary_tbs, hphi]
  · simp only [Bool.and_eq_true, beq_iff_eq] at hends
    obtain ⟨⟨hs, hset⟩, hreached⟩ := hends
    have hlimit := dsvBoundary_limit (s := u) (by rw [hud, hs]) (by
      rw [limitReached_holdSecond, hud, hset, hreached]; rfl)
    rw [hphi, hud] at hlimit
    simp only [hs]
    exact ht.grows.handedOn (hgrown.handedOn_before hlimit)
  · have hrecord := staged_of_handedOn (ht.grows.handedOn (hjournal hne))
    rw [heps] at hrecord
    exact hrecord
  · rw [ht.gate.1, ← hopen]
    by_cases hne : (boundary blocks s).dsv.cls = s.dsv.cls
    · rw [hsame hne]
    · rw [hwithin hne fun h => hstays ⟨hne, h⟩]
  · obtain ⟨hne, hlow, hwas⟩ := hcloses
    obtain ⟨hshut, hrecord⟩ := hclosed hne hlow hwas
    have hquiet : GateOk (dsvBoundary u) := by
      refine ⟨fun h => ?_, fun ch hch hg _ => ?_⟩
      · rw [hshut] at h; exact nomatch h
      · rw [hshut] at hch
        exact shutUnit_quiet hch hg
    have hstill : (boundary blocks s).pou.gateOpen = false := by rw [ht.gate.1, hshut]; rfl
    refine ⟨hstill, fun ch hch hg => (ht.law hquiet).2 ch hch hg hstill, ?_⟩
    refine (staged_of_handedOn (ht.grows.handedOn hrecord)).imp_left fun ⟨r, hr, hbody⟩ => ⟨r, hr, cutChannels u, ?_, ?_⟩
    · rw [hbody, hinhibit]
    · intro hidle hstep c
      have hch := hu.channels ((report_step_none_iff s).2 hstep) hidle
      rw [mem_cutChannels]
      unfold channel
      rw [hch]; rfl

end Sys2Proof.Machine

/-! The pulse channels and the order store at a second boundary; the Timebase's own order there (O16). -/

namespace Sys2Proof.Machine

variable {s : State}

/-! ## The order store as the channels take the boundary -/

/-- No pending schedule is that of an order of this slot. -/
def noPending (s : State) (slot : Nat) : Prop := ∀ c ps, (channel s c).pending = some ps → ps.slot ≠ slot

theorem channel_past {c : Nat} (h : s.pou.channels.length ≤ c) : channel s c = Channel.reset := by
  rw [channel, List.getD_eq_getElem?_getD, List.getElem?_eq_none h]; rfl

theorem channel_mem {c : Nat} (h : c < s.pou.channels.length) : channel s c ∈ s.pou.channels := by
  rw [channel, List.getD_eq_getElem?_getD, List.getElem?_eq_getElem h]
  exact List.getElem_mem h

theorem noPending_of_mem {slot : Nat} (h : ∀ ch ∈ s.pou.channels, ∀ ps, ch.pending = some ps → ps.slot ≠ slot) :
    noPending s slot := by
  intro c ps hps
  by_cases hc : c < s.pou.channels.length
  · exact h _ (channel_mem hc) ps hps
  · rw [channel_past (Nat.le_of_not_lt hc)] at hps; cases hps

/-- Reading a channel after a change of one. -/
theorem channel_modChannel_cases (c d : Nat) (f : Channel → Channel) (s : State) :
    channel (modChannel c f s) d = channel s d ∨
      d = c ∧ c < s.pou.channels.length ∧ channel (modChannel c f s) d = f (channel s c) := by
  by_cases hd : d = c
  · subst hd
    by_cases hc : d < s.pou.channels.length
    · exact .inr ⟨rfl, hc, channel_modChannel f hc⟩
    · have hc := Nat.le_of_not_lt hc
      exact .inl (by rw [channel_past hc, channel_past (by simpa using hc)])
  · exact .inl (channel_modChannel_ne f s hd)

theorem transferred_pending (isOpen : Bool) (sc : Schedule) (ch : Channel) : (transferred isOpen sc ch).pending = none := by
  simp only [transferred]
  split_ifs <;> rfl

theorem startChannel_pending (t : Nat) (ch : Channel) : (startChannel t ch).pending = ch.pending := by
  simp only [startChannel]
  split_ifs <;> rfl

theorem stepChannel_pending (d : Int) (t : Nat) (ch : Channel) : (stepChannel d t ch).pending = ch.pending := by
  simp only [stepChannel]
  split_ifs <;> rfl

/-- A channel's schedule that comes in leaves the channels' pending schedules but its own. -/
theorem transfer_channel (r : Report) (c d : Nat) (s : State) :
    channel (transfer r c s) d = channel s d ∨
      d = c ∧ ∃ ps, (channel s c).pending = some ps ∧
        channel (transfer r c s) d = transferred s.pou.gateOpen ps.sched (channel s c) := by
  unfold transfer
  split
  · exact .inl rfl
  next ps hps =>
    exact (channel_modChannel_cases c d _ s).imp_right fun ⟨hd, _, e⟩ => ⟨hd, ps, hps, e⟩

theorem transfer_noPending {r : Report} {c slot : Nat} (h : noPending s slot) : noPending (transfer r c s) slot := by
  intro d ps hps
  obtain e | ⟨-, q, -, e⟩ := transfer_channel r c d s
  · exact h d ps (e ▸ hps)
  · rw [e, transferred_pending] at hps; cases hps

theorem transfer_storeEntry {r : Report} {c slot : Nat} (h : ∀ ps, (channel s c).pending = some ps → ps.slot ≠ slot) :
    storeEntry (transfer r c s) slot = storeEntry s slot := by
  unfold transfer
  split
  · rfl
  next ps hps => exact storeEntry_complete_ne _ _ _ (Ne.symm (h ps hps))

/-! ### One element after another -/

/-- A run over distinct elements, each of which changes what is read at itself and nothing else, where `I` stands throughout. -/
theorem forEach_each {β : Type} {get : State → Nat → β} {f : Nat → State → State} {g : Nat → β → β} {I : State → Prop}
    (hstands : ∀ x u, I u → I (f x u)) (hother : ∀ x y u, I u → y ≠ x → get (f x u) y = get u y) (xs : List Nat)
    (hself : ∀ x ∈ xs, ∀ u, I u → get (f x u) x = g x (get u x)) (hnodup : xs.Nodup) {u : State} (hu : I u) (y : Nat) :
    get (forEach xs f u) y = if y ∈ xs then g y (get u y) else get u y := by
  induction xs generalizing u with
  | nil => rfl
  | cons x xs ih =>
    obtain ⟨hx, hxs⟩ := List.nodup_cons.1 hnodup
    rw [forEach_cons, ih (fun x' hx' => hself x' (List.mem_cons_of_mem _ hx')) hxs (hstands x u hu)]
    by_cases hy : y = x
    · subst hy
      rw [if_neg hx, if_pos List.mem_cons_self, hself y List.mem_cons_self u hu]
    · rw [hother x y u hu hy]
      simp only [List.mem_cons, hy, false_or]

theorem mem_armedBy {k c : Nat} : c ∈ armedBy k s ↔ c < s.pou.channels.length ∧ (channel s c).arm = some k := by
  by_cases hc : c < s.pou.channels.length
  · simp [armedBy, channel, List.mem_zipIdx_iff_getElem?, hc]
  · simp [armedBy, List.mem_zipIdx_iff_getElem?, hc]

theorem armedBy_nodup (k : Nat) (s : State) : (armedBy k s).Nodup := by
  have hall : (s.pou.channels.zipIdx.map (·.2)).Nodup := by
    rw [List.zipIdx_map_snd]; exact List.nodup_range'
  exact (List.filter_sublist.map _).nodup hall

/-- R151: what a started order makes of each channel. -/
theorem startArm_channel (r : Report) (k d : Nat) (s : State) : channel (startArm r k s) d =
    if armDue k s = true ∧ (channel s d).arm = some k then startChannel r.instant (channel s d) else channel s d := by
  unfold startArm
  dsimp only
  by_cases hdue : armDue k s = true
  case neg => rw [if_neg hdue, if_neg fun h => hdue h.1]
  rw [if_pos hdue]
  change channel (forEach (armedBy k s) (fun c => modChannel c (startChannel r.instant)) s) d = _
  rw [forEach_each (I := fun u => u.pou.channels.length = s.pou.channels.length) (g := fun _ => startChannel r.instant)
    (fun x u hu => by simpa using hu) (fun x y u _ hy => channel_modChannel_ne _ u hy) (armedBy k s)
    (fun x hx u hu => channel_modChannel _ (hu ▸ (mem_armedBy.1 hx).1)) (armedBy_nodup k s) rfl]
  by_cases hd : d < s.pou.channels.length
  · simp only [mem_armedBy, hd, hdue, true_and]
  · rw [channel_past (Nat.le_of_not_lt hd)]
    simp [mem_armedBy, hd, Channel.reset]

theorem startArm_noPending {r : Report} {k slot : Nat} (h : noPending s slot) : noPending (startArm r k s) slot := by
  intro d ps hps
  rw [startArm_channel] at hps
  split at hps
  · exact h d ps (startChannel_pending _ _ ▸ hps)
  · exact h d ps hps

theorem startArm_storeEntry {r : Report} {k slot : Nat} (h : k = slot → armDue k s = false) :
    storeEntry (startArm r k s) slot = storeEntry s slot := by
  unfold startArm
  dsimp only
  by_cases hdue : armDue k s = true
  case neg => rw [if_neg hdue]
  rw [if_pos hdue, storeEntry_complete_ne _ _ _ fun e => by simp [h e.symm] at hdue]
  exact forEach_keeps (fun u => storeEntry u slot = storeEntry s slot) (fun c => modChannel c (startChannel r.instant)) _
    (fun _ _ _ hu => hu) s rfl

/-- The entry at a slot is no PULSE-ARM, so that no channel starts by it. -/
def notArm (s : State) (slot : Nat) : Prop := ∀ en p, storeEntry s slot = some en → en.order ≠ .pulseArm p

theorem armDue_of_notArm {slot : Nat} (h : notArm s slot) : armDue slot s = false := by
  unfold armDue
  split
  next p _ he => exact absurd rfl (h _ p he)
  next => rfl

/-- What the channels' turn leaves of a slot that is neither a pending schedule's nor a PULSE-ARM's. -/
structure SlotStands (slot : Nat) (u v : State) : Prop where
  pending : noPending u slot → noPending v slot
  entry : noPending u slot → notArm u slot → storeEntry v slot = storeEntry u slot

theorem SlotStands.trans {slot : Nat} {u v w : State} (h : SlotStands slot u v) (k : SlotStands slot v w) : SlotStands slot u w where
  pending hp := k.pending (h.pending hp)
  entry hp hn := by
    have he := h.entry hp hn
    exact (k.entry (h.pending hp) (by unfold notArm; rw [he]; exact hn)).trans he

theorem SlotStands.refl (slot : Nat) (u : State) : SlotStands slot u u := ⟨id, fun _ _ => rfl⟩

theorem transfer_slotStands (r : Report) (c slot : Nat) (s : State) : SlotStands slot s (transfer r c s) :=
  ⟨transfer_noPending, fun hp _ => transfer_storeEntry (hp c)⟩

theorem startArm_slotStands (r : Report) (k slot : Nat) (s : State) : SlotStands slot s (startArm r k s) :=
  ⟨startArm_noPending, fun _ hn => startArm_storeEntry fun e => armDue_of_notArm (e ▸ hn)⟩

/-- The channels at a boundary before the step: schedules come in, then channels start. -/
def started (r : Report) (s : State) : State := forEach (List.range 32) (startArm r) (forEach (List.range 8) (transfer r) s)

theorem pouBoundary_eq (r : Report) (s : State) :
    pouBoundary r s = match r.step with | none => started r s | some d => pouStep d (started r s) := rfl

theorem channel_pouStep (d : Int) (c : Nat) (s : State) : channel (pouStep d s) c = stepChannel d (now s) (channel s c) := by
  have hreset : stepChannel d (now s) Channel.reset = Channel.reset := by
    simp [stepChannel, singleStepped, Channel.reset]
  change (s.pou.channels.map (stepChannel d (now s))).getD c Channel.reset = _
  rw [List.getD_eq_getElem?_getD, List.getElem?_map, channel, List.getD_eq_getElem?_getD]
  cases s.pou.channels[c]?
  · exact hreset.symm
  · rfl

theorem pouStep_slotStands (d : Int) (slot : Nat) (s : State) : SlotStands slot s (pouStep d s) where
  pending hp c ps hps := hp c ps (by rwa [channel_pouStep, stepChannel_pending] at hps)
  entry _ _ := rfl

theorem pouBoundary_slotStands (r : Report) (slot : Nat) (s : State) : SlotStands slot s (pouBoundary r s) := by
  have hstarted : SlotStands slot s (started r s) :=
    forEach_keeps (SlotStands slot s) _ _ (fun k _ u hu => hu.trans (startArm_slotStands r k slot u)) _
      (forEach_keeps (SlotStands slot s) _ _ (fun c _ u hu => hu.trans (transfer_slotStands r c slot u)) s (.refl slot s))
  rw [pouBoundary_eq]
  split
  · exact hstarted
  · exact hstarted.trans (pouStep_slotStands ..)

/-! ### The servo and the channels -/

/-- A closing of the gate, or none, leaves every channel but for its pulse. -/
theorem dsvBoundary_channel (s : State) (c : Nat) : ∃ fall, channel (dsvBoundary s) c = { channel s c with fall := fall } := by
  obtain ⟨-, hsame, -, hwithin, hcloses⟩ := dsvBoundary_moves s
  by_cases hne : (dsvBoundary s).dsv.cls = s.dsv.cls
  · exact ⟨_, by rw [channel, hsame hne, channel]⟩
  by_cases hshut : s.pou.floor < (dsvBoundary s).dsv.cls ∧ s.pou.gateOpen = true
  case neg => exact ⟨_, by rw [channel, hwithin hne hshut, channel]⟩
  rw [channel, (hcloses hne hshut.1 hshut.2).1]
  change ∃ fall, (s.pou.channels.map _).getD c Channel.reset = _
  rw [List.getD_eq_getElem?_getD, List.getElem?_map, channel, List.getD_eq_getElem?_getD]
  cases s.pou.channels[c]? with
  | none => exact ⟨_, rfl⟩
  | some ch => exact ⟨if ch.active.gated then none else ch.fall, by simp only [Option.map_some, Option.getD_some]; split <;> rfl⟩

theorem blockBoundary_slotStands {r : Report} {b : Block} (hb : b ≠ .tbs) (slot : Nat) (s : State) :
    SlotStands slot s (blockBoundary r b s) := by
  by_cases hpou : b = .pou
  · subst hpou; exact pouBoundary_slotStands r slot s
  refine ⟨fun hp c ps hps => ?_, fun _ _ => (blockBoundary_hands hb hpou).storeEntry slot⟩
  by_cases hdsv : b = .dsv
  · subst hdsv
    obtain ⟨fall, e⟩ := dsvBoundary_channel s c
    exact hp c ps (by simpa [blockBoundary, e] using hps)
  · exact hp c ps (by simpa only [channel, blockBoundary_pou hdsv hpou] using hps)

/-! ## The Timebase's order at a boundary -/

/-- The boundary around the Timebase's own part, with what it leaves of one order slot. -/
theorem boundary_tbs_slot (slot : Nat) (named : List Block) (s : State) : ∃ u, u.tbs = s.tbs.boundaryTick ∧
    (Grows (ticked s) u ∧ SlotStands slot (ticked s) u) ∧ (boundary named s).tbs = (tbsBoundary s.tbs.report u).tbs ∧
    Grows (tbsBoundary s.tbs.report u) (boundary named s) ∧
    SlotStands slot (tbsBoundary s.tbs.report u) (boundary named s) := by
  obtain ⟨u, ⟨hu, hgu, hsu⟩, ht, hgt, hst⟩ :=
    boundary_around (R := fun u v => v.tbs = u.tbs ∧ Grows u v ∧ SlotStands slot u v)
      (fun u => ⟨rfl, .refl u, .refl slot u⟩) (fun h k => ⟨k.1.trans h.1, h.2.1.trans k.2.1, h.2.2.trans k.2.2⟩) .tbs named s
      fun b hb v => ⟨blockBoundary_tbs hb v, blockBoundary_grows (.refl v), blockBoundary_slotStands hb slot v⟩
  exact ⟨u, hu, ⟨hgu, hsu⟩, ht, hgt, hst⟩

/-- R8, R11: the Timebase's part where a step was applied. -/
theorem stepApplied_of {r : Report} {d : Int} {p : PostedStep} (hr : r.step = some d) (hp : s.tbs.posted = some p) :
    handedOn s (stepApplied r s) (.stepApplied p.origin r.epoch d) ∧
    ∀ slot, p.origin = .host slot → storeEntry (stepApplied r s) slot = (storeEntry s slot).map (fun e =>
      { e with status := .completed .ok (le 8 r.epoch ++ leInt 8 d ++ timeBytes (now s)) false }) := by
  have hnow : now (stage (.stepApplied p.origin r.epoch d) s) = now s := by simp [now]
  have hstore (slot : Nat) : storeEntry (stage (.stepApplied p.origin r.epoch d) s) slot = storeEntry s slot :=
    (stage_hands (.refl s)).storeEntry slot
  unfold stepApplied
  rw [hr, hp]
  dsimp only
  refine ⟨?_, fun slot ho => ?_⟩
  · split <;> exact handedOn_stage _ s
  · rw [ho] at hnow hstore ⊢
    have := storeEntry_complete slot .ok (le 8 r.epoch ++ leInt 8 d ++ timeBytes (now s))
      (stage (.stepApplied (.host slot) r.epoch d) s)
    rw [hstore] at this
    rw [hnow]; exact this

/-- R1 to R5: device time and the next tick's increment after a boundary without a step. -/
theorem boundaryTick_plain (hok : TimeOk s) (hb : s.tbs.atBoundary = true) (hd : s.tbs.stepDue = false) :
    let t := s.tbs.boundaryTick
    t.time = ⟨(s.tbs.time.sec + 1) % 2 ^ 48, s.tbs.time.ns + (s.tbs.time.frac + s.tbs.tickInc) / 2 ^ 32 - 1000000000,
      (s.tbs.time.frac + s.tbs.tickInc) % 2 ^ 32⟩ ∧ t.stepTick = none ∧ t.lastInc = s.tbs.tickInc ∧
    (t.tickInc : Int) = max 34352866421 (min 34366610315 (34359738368 + freqTerm s.tbs.phi +
      (if 1 < s.tbs.slew.ticksLeft then s.tbs.slew.share else s.tbs.slew.remaining))) ∧
    t.slew.remaining = s.tbs.slew.remaining - (t.tickInc - 34359738368 - freqTerm s.tbs.phi) ∧
    t.slew.ticksLeft = s.tbs.slew.ticksLeft - 1 ∧ t.slew.share = s.tbs.slew.share := by
  rw [boundaryTick_unstepped (dueDelta_none hd), ← advance_across hok.1 hb]
  exact ⟨rfl, rfl, rfl, beginTick_inc _, (beginTick_slew _).1, rfl, rfl⟩

theorem units_mk (sec ns frac : Nat) :
    DeviceTime.units ⟨sec, ns, frac⟩ = sec * 4294967296000000000 + ns * 4294967296 + frac := rfl

/-- R4, R8: device time and the next tick's increment after a boundary with a step. -/
theorem boundaryTick_step {p : PostedStep} (hok : TimeOk s) (hb : s.tbs.atBoundary = true) (hp : s.tbs.posted = some p)
    (hd : s.tbs.stepDue = true) :
    let t := s.tbs.boundaryTick
    (t.time.units : Int) = max 0 (min (281474976710655 * 4294967296000000000 + 999999999 * 4294967296)
      ((((s.tbs.time.sec + 1) % 2 ^ 48 * 4294967296000000000 +
        (s.tbs.time.ns + (s.tbs.time.frac + s.tbs.tickInc) / 2 ^ 32 - 1000000000) * 4294967296 +
        (s.tbs.time.frac + s.tbs.tickInc) % 2 ^ 32 : Nat) : Int) + p.delta * 2 ^ 28)) ∧
    t.slew.remaining = 0 ∧ t.slew.ticksLeft = 0 ∧ t.stepTick = some ⟨s.tbs.time.units, p.delta⟩ ∧
    t.lastInc = s.tbs.tickInc ∧ (t.tickInc : Int) = 34359738368 + freqTerm s.tbs.phi := by
  have ⟨_, _, _, _, _, hphi, hphi', _⟩ := hok
  rw [boundaryTick_stepped (dueDelta_some hp hd)]
  have hinc := beginTick_inc_unslewed (tb := { s.tbs with
    time := (s.tbs.time.advance s.tbs.tickInc).stepBy p.delta, slew := Slew.none, lastInc := s.tbs.tickInc
    stepTick := some { start := s.tbs.time.units, delta := p.delta }
    reachedFrom := s.tbs.report.instant * unitsPerSix }) hphi hphi' rfl
  refine ⟨?_, ?_, rfl, rfl, rfl, hinc⟩
  · have hacross := advance_across hok.1 hb
    change (((s.tbs.time.advance s.tbs.tickInc).stepBy p.delta).units : Int) = _
    rw [stepBy_units, hacross, units_mk]
  · rw [(beginTick_slew _).1, hinc]
    simp [Slew.none]

/-- R30: a held instant moved by Δ. -/
theorem moveBy_toInt (d : Int) (v : Nat) :
    (moveBy d v : Int) = max 0 (min (281474976710655 * 16000000000 + 999999999 * 16) ((v : Int) + d)) := by
  have hmax : (maxSix : Int) = 281474976710655 * 16000000000 + 999999999 * 16 := rfl
  rw [moveBy, hmax]
  omega

/-- Settles O16: the tick moves device time, the Timebase's turn reports and completes the step, the other blocks leave both. -/
theorem boundaryMovesDeviceTime : Obligations.BoundaryMovesDeviceTime := by
  refine ⟨fun s hok => ⟨atBoundary_iff s.tbs, stepDue_iff hok⟩, fun s blocks hok hcross => ?_⟩
  have hb : s.tbs.atBoundary = true := (atBoundary_iff s.tbs).2 hcross
  obtain ⟨u, hu, -, ht, hgt⟩ := boundary_tbs blocks s
  obtain ⟨offset, leap, htbs⟩ := tbsBoundary_tbs s.tbs.report u
  rw [← ht, hu, (boundaryTick_leap s.tbs).2.2] at htbs
  refine ⟨_, exec_boundary hb, (boundary_frame blocks s).1, ?_, fun hd => ?_, fun p hp hd => ?_, ?_, fun hd => ?_, fun p hp hd => ?_⟩
  · rw [htbs]
    cases hd : s.tbs.dueDelta with
    | none => rw [boundaryTick_unstepped hd]; rfl
    | some d => rw [boundaryTick_stepped hd]; rfl
  · obtain ⟨htime, hstep, -, hinc, hslew⟩ := boundaryTick_plain hok hb hd
    rw [htbs, (report_step_none_iff s).2 hd]
    exact ⟨htime, rfl, hstep, hinc, hslew⟩
  · obtain ⟨htime, hleft, hticks, hstep, -, hinc⟩ := boundaryTick_step hok hb hp hd
    have hr : s.tbs.report.step = some p.delta := by rw [report_stepped hp hd]
    have hepoch : s.tbs.report.epoch = (s.tbs.time.sec + 1) % 2 ^ 48 := by rw [report_epoch, nextSec_eq hok hb]
    have hup : u.tbs.posted = some p := by rw [hu, (boundaryTick_leap s.tbs).2.2, hp]
    obtain ⟨hrecord, -⟩ := stepApplied_of hr hup
    have hleapt := (applyLeap_hands (.refl (stepApplied s.tbs.report u))).grows
    refine ⟨by rw [htbs]; exact htime, by rw [htbs, hr]; rfl, by rw [htbs]; exact hleft, by rw [htbs]; exact hticks,
      by rw [htbs]; exact hstep, by rw [htbs]; exact hinc, ?_, fun slot en horigin hen horder hpending => ?_⟩
    · rw [hepoch] at hrecord
      exact staged_of_handedOn (hgt.handedOn (hleapt.handedOn hrecord))
    · obtain ⟨v, hv, ⟨-, hsv⟩, htv, -, hst⟩ := boundary_tbs_slot slot blocks s
      have hno : noPending (ticked s) slot := noPending_of_mem hpending
      have hentry : storeEntry (ticked s) slot = some en := hen
      have harm : notArm (ticked s) slot := by
        intro en' q he'
        obtain ⟨o, ho⟩ := horder
        obtain rfl := Option.some.inj (hentry.symm.trans he')
        rw [ho]; exact nofun
      have hvp : v.tbs.posted = some p := by rw [hv, (boundaryTick_leap s.tbs).2.2, hp]
      have hdone : storeEntry (tbsBoundary s.tbs.report v) slot = _ :=
        ((applyLeap_hands (.refl _)).storeEntry slot).trans ((stepApplied_of hr hvp).2 slot horigin)
      rw [hsv.entry hno harm, hentry, Option.map_some, hepoch] at hdone
      have hnow : timeBytes (now v) = _ := congrArg timeBytes (congrArg Timebase.now hv)
      have hrange : s.tbs.boundaryTick.time.ns < nsPerSec ∧ s.tbs.boundaryTick.time.frac < unitsPerNs :=
        ⟨(boundaryTick_timeOk hok).2.1, (boundaryTick_timeOk hok).2.2.1⟩
      rw [hnow, Timebase.now, timeBytes_six hrange.1 hrange.2] at hdone
      have hend : (boundary blocks s).tbs.time = s.tbs.boundaryTick.time := by rw [htbs]
      rw [hend, hst.entry, hdone]
      · simp only [List.append_assoc]
      · simpa [noPending, channel] using hsv.pending hno
      · intro en' q he'
        obtain ⟨o, ho⟩ := horder
        obtain rfl := Option.some.inj (hdone.symm.trans he')
        rw [ho]; exact nofun
  · rw [report_epoch, nextSec_eq hok hb]
  · rw [report_unstepped hd, nextSec_eq hok hb]
    exact ⟨rfl, rfl⟩
  · rw [report_stepped hp hd, nextSec_eq hok hb]
    exact ⟨rfl, moveBy_toInt _ _⟩

end Sys2Proof.Machine

/-! Bytes and their fields; full reset, the setup orders, SNAPSHOT and CANCEL (O29, O30, O55). -/

namespace Sys2Proof.Machine

variable {s : State}

/-! ## Bytes (R190) -/

@[simp] theorem le_length (n v : Nat) : (le n v).length = n := by
  induction n generalizing v with
  | zero => rfl
  | succ n ih => simp [le, ih]

@[simp] theorem leInt_length (n : Nat) (v : Int) : (leInt n v).length = n := le_length n _

@[simp] theorem be_length (n v : Nat) : (be n v).length = n := by simp [be]

@[simp] theorem beInt_length (n : Nat) (v : Int) : (beInt n v).length = n := be_length n _

@[simp] theorem zeros_length (n : Nat) : (zeros n).length = n := List.length_replicate

theorem padTo_length {n : Nat} {bs : List Byte} (h : bs.length ≤ n) : (padTo n bs).length = n := by
  simp [padTo]; omega

/-- `n` bytes hold a value modulo 256^n. -/
@[simp] theorem leVal_le (n v : Nat) : leVal (le n v) = v % 256 ^ n := by
  induction n generalizing v with
  | zero => simp [le, leVal, Nat.mod_one]
  | succ n ih =>
    have hmod : v % 256 ^ (n + 1) = v % 256 + 256 * (v / 256 % 256 ^ n) := by
      rw [Nat.pow_succ', Nat.mod_mul]
    simp [le, leVal, ih, hmod]

@[simp] theorem leVal_singleton (b : Byte) : leVal [b] = b.toNat := by simp [leVal]

@[simp] theorem beVal_be (n v : Nat) : beVal (be n v) = v % 256 ^ n := by simp [beVal, be]

/-- A signed field holds its value in two's complement. -/
theorem leVal_leInt (n : Nat) (v : Int) : (leVal (leInt n v) : Int) = v % (256 ^ n : Nat) := by
  have hpos : (0 : Int) < (256 ^ n : Nat) := by positivity
  have hlo := Int.emod_nonneg v hpos.ne'
  have hhi := Int.emod_lt_of_pos v hpos
  rw [leInt, leVal_le, Nat.mod_eq_of_lt (by omega), Int.toNat_of_nonneg hlo]

theorem field_all {bs : List Byte} {n : Nat} (h : bs.length = n) : field bs 0 n = bs := by
  subst h; simp [field, padTo, zeros]

theorem field_here {xs ys : List Byte} {n : Nat} (h : xs.length = n) : field (xs ++ ys) 0 n = xs := by
  subst h; simp [field, padTo, zeros]

theorem field_skip {xs ys : List Byte} {off n : Nat} (h : xs.length ≤ off) :
    field (xs ++ ys) off n = field ys (off - xs.length) n := by
  simp [field, List.drop_append, List.drop_eq_nil_of_le h]

theorem fieldLe_all {bs : List Byte} {n : Nat} (h : bs.length = n) : fieldLe bs 0 n = leVal bs := by
  rw [fieldLe, field_all h]

theorem fieldLe_here {xs ys : List Byte} {n : Nat} (h : xs.length = n) : fieldLe (xs ++ ys) 0 n = leVal xs := by
  rw [fieldLe, field_here h]

theorem fieldLe_skip {xs ys : List Byte} {off n : Nat} (h : xs.length ≤ off) :
    fieldLe (xs ++ ys) off n = fieldLe ys (off - xs.length) n := by
  rw [fieldLe, fieldLe, field_skip h]

/-! ## Full reset and the setup orders -/

/-- Settles O29, field by field: the record of full reset, written out. -/
theorem fullResetValues : Obligations.FullResetValues := fun _ _ => rfl

/-! ### The Range request (R100, R102) -/

theorem windowPermits_iff (s : State) (p : Port) :
    windowPermits s.rng.settings (rangePort s p).history (now s) = true ↔ windowHasRoom s p := decide_eq_true_iff

theorem mem_eligibleSlots {p : Port} {n : Nat} : n ∈ eligibleSlots s p ↔ wantsLaunch s p n := by
  simp only [eligibleSlots, List.mem_filter, mem_occupied, eligible, hasEntry, wantsLaunch, Bool.and_eq_true, decide_eq_true_eq,
    Bool.not_eq_true', List.any_eq_false, beq_iff_eq, bne_iff_ne]
  constructor
  · rintro ⟨hv, ⟨⟨hdebt, hentry⟩, hup⟩, -⟩
    exact ⟨lt_of_occupied hv, hv, hdebt, hentry, hup⟩
  · rintro ⟨-, hv, hdebt, hentry, hup⟩
    exact ⟨hv, ⟨⟨hdebt, hentry⟩, hup⟩, hv⟩

/-- R100: what the Range request is held on. -/
theorem launchPermitted_iff (s : State) (p : Port) : launchPermitted s p = true ↔ launchHolds s p := by
  have hany : (eligibleSlots s p).isEmpty = false ↔ ∃ n, wantsLaunch s p n := by
    rw [List.isEmpty_eq_false_iff_exists_mem]
    exact exists_congr fun n => mem_eligibleSlots
  rw [launchPermitted, Bool.and_eq_true, Bool.and_eq_true, windowPermits_iff, decide_eq_true_eq, Bool.not_eq_true', hany, launchHolds,
    and_assoc]

/-- R100, R102: the window-opening instant and the Range request of port `p` are those that the state gives. -/
structure RangeFresh (s : State) (p : Port) : Prop where
  window : (rangePort s p).windowAt = windowOpens s.rng.settings (rangePort s p).history (now s)
  request : (link s p).rangeReq = launchPermitted s p

/-- What is judged anew for a Range request, and the rest of link and ranging, does not look at the request and the instant. -/
theorem refreshRange_fresh (p : Port) (s : State) : RangeFresh (refreshRange p s) p := by
  cases p <;> exact ⟨rfl, rfl⟩

theorem refreshRange_other {p q : Port} (h : q ≠ p) (hq : RangeFresh s q) : RangeFresh (refreshRange p s) q := by
  cases p <;> cases q <;> first | exact absurd rfl h | exact ⟨hq.window, hq.request⟩

theorem refreshBoth_fresh (s : State) (p : Port) : RangeFresh (refreshBoth s) p := by
  cases p
  · exact refreshRange_other (by decide) (refreshRange_fresh .a s)
  · exact refreshRange_fresh .b _

theorem RangeFresh.req {p : Port} (h : RangeFresh s p) : (link s p).rangeReq = true ↔ launchHolds s p := by
  rw [h.request, launchPermitted_iff]

/-- R102: with a launch limit of at least 1 a closed window has its opening instant. -/
theorem windowOpens_none_iff {st : RangeSettings} (hist : List Nat) (t : Nat) (hlimit : 1 ≤ st.limit) :
    windowOpens st hist t = none ↔ windowPermits st hist t = true := by
  unfold windowOpens
  by_cases hp : windowPermits st hist t = true
  · simp [hp]
  · have hclosed : st.limit ≤ (hist.filter (fun u => decide (t < u + windowSpan st))).length := by
      simpa [windowPermits] using hp
    have hlen : st.limit - 1 < hist.reverse.length := by
      have := List.length_filter_le (fun u => decide (t < u + windowSpan st)) hist
      rw [List.length_reverse]; omega
    simp [hp, List.getElem?_eq_getElem hlen]

theorem RangeFresh.room {p : Port} (h : RangeFresh s p) (hlimit : 1 ≤ s.rng.settings.limit) :
    (rangePort s p).windowAt = none ↔ windowHasRoom s p := by
  rw [h.window, windowOpens_none_iff _ _ hlimit, windowPermits_iff]

/-- What a judging anew of both Range requests leaves of a port. -/
theorem refreshBoth_rest (s : State) (p : Port) :
    rangePort (refreshBoth s) p = { rangePort s p with windowAt := (rangePort (refreshBoth s) p).windowAt } ∧
    link (refreshBoth s) p = { link s p with rangeReq := (link (refreshBoth s) p).rangeReq } := by
  cases p <;> exact ⟨rfl, rfl⟩

/-! ### The orders -/

/-- An order taken, worked off by what does not look at the store, and completed is answered in the changed state. -/
theorem complete_worked (src : OrderSrc) (o : Order) (r : ResultCode) (data : List Byte) (f : State → State)
    (hf : f (takeOrder src.slot.val src.cookie o s) = takeOrder src.slot.val src.cookie o (f s)) :
    complete src.slot.val r data (f (takeOrder src.slot.val src.cookie o s)) = answered src o r data (f s) := by
  rw [hf, complete_take]

theorem clampNat_eq (lo hi n : Nat) : clampNat lo hi n = max lo (min hi n) := rfl

/-- R58: the settings as SERVO-SETUP writes them; the integral gains of four bits need no limit. -/
theorem servoSettingsOf_eq (p : ServoSetupP) : servoSettingsOf p =
    { kpA := min p.kpA.toNat 7, kiA := p.kiA.toNat, kpT := min p.kpT.toNat 7, kiT := p.kiT.toNat,
      stepThreshold := max 1000 (min 100000000 p.stepThreshold.toNat),
      lockThreshold := max 50 (min 100000 p.lockThreshold.toNat),
      phaseGate := max 1000 (min 100000 p.phaseGate.toNat), drift := p.drift.toNat, aging := p.aging.toNat,
      holdoverLimit := p.holdoverLimit.toNat, improveDwell := max 1 (min 60 p.improveDwell.toNat) } := by
  have hkp (k : BitVec 4) : clampNat 0 7 k.toNat = min k.toNat 7 := by rw [clampNat_eq]; omega
  have hki (k : BitVec 4) : clampNat 0 15 k.toNat = k.toNat := by have := k.isLt; rw [clampNat_eq]; omega
  simp only [servoSettingsOf, hkp, hki, clampNat_eq]

theorem okOr_bne {α : Type} [BEq α] [LawfulBEq α] [DecidableEq α] (x y : α) {q : Prop} [Decidable q] (h : x = y ↔ q) :
    okOr (x != y) = if q then .ok else .adjusted := by
  by_cases hq : q
  · rw [if_pos hq, h.2 hq]; simp [okOr]
  · have hne : x ≠ y := fun e => hq (h.1 e)
    simp [okOr, hq, hne]

/-- R58: the result of SERVO-SETUP. -/
theorem servoSetup_result (p : ServoSetupP) : okOr (servoSettingsOf p != servoSettingsRaw p) =
    if min p.kpA.toNat 7 = p.kpA.toNat ∧ min p.kpT.toNat 7 = p.kpT.toNat ∧
      max 1000 (min 100000000 p.stepThreshold.toNat) = p.stepThreshold.toNat ∧
      max 50 (min 100000 p.lockThreshold.toNat) = p.lockThreshold.toNat ∧
      max 1000 (min 100000 p.phaseGate.toNat) = p.phaseGate.toNat ∧
      max 1 (min 60 p.improveDwell.toNat) = p.improveDwell.toNat then .ok else .adjusted := by
  refine okOr_bne _ _ ?_
  rw [servoSettingsOf_eq]
  simp only [servoSettingsRaw, ServoSettings.mk.injEq, true_and]

/-- R121: the result of RANGING-SETUP. -/
theorem rangingSetup_result (p : RangingSetupP) : okOr (rangeSettingsOf p != rangeSettingsRaw p) =
    if max 1 (min 8 p.launchLimit.toNat) = p.launchLimit.toNat ∧ max 250 (min 8000 p.window.toNat) = p.window.toNat ∧
      max 100 (min 16000 p.echoWait.toNat) = p.echoWait.toNat ∧ max 1 (min 1000000 p.ceiling.toNat) = p.ceiling.toNat
    then .ok else .adjusted := by
  refine okOr_bne _ _ ?_
  simp only [rangeSettingsOf, rangeSettingsRaw, clampNat_eq, RangeSettings.mk.injEq]

/-- Settles O30. -/
theorem setupOrdersHoldValuesInRange : Obligations.SetupOrdersHoldValuesInRange := by
  intro s src hfree
  refine ⟨fun p => ?_, fun p => ?_⟩
  · have hdone := complete_worked (s := s) src (.servoSetup p) (okOr (servoSettingsOf p != servoSettingsRaw p)) []
      (modDsv (fun d => { d with settings := servoSettingsOf p })) rfl
    refine congrArg Host.Outcome.next ((handOver_run _ _ hfree).trans (hdone.trans ?_))
    rw [servoSetup_result, servoSettingsOf_eq]
    rfl
  · let written := modRng (fun r => { r with settings := rangeSettingsOf p }) s
    have hdone := complete_worked (s := s) src (.rangingSetup p) (okOr (rangeSettingsOf p != rangeSettingsRaw p)) []
      (fun u => refreshBoth (modRng (fun r => { r with settings := rangeSettingsOf p }) u)) rfl
    have hlimit : 1 ≤ (refreshBoth written).rng.settings.limit := Nat.le_max_left 1 _
    refine ⟨_, congrArg Host.Outcome.next ((handOver_run _ _ hfree).trans hdone), rfl, ?_, fun port => ?_⟩
    · rw [rangingSetup_result]; rfl
    · have hfresh := refreshBoth_fresh written port
      have hrest := refreshBoth_rest written port
      exact ⟨hrest.1, hrest.2, hfresh.room hlimit, hfresh.req⟩

/-! ## SNAPSHOT and CANCEL (R183, R184) -/

@[simp] theorem timeBytes_length (v : Nat) : (timeBytes v).length = 13 := by simp [timeBytes]

@[simp] theorem nibbles_length (lo hi : Nat) : (nibbles lo hi).length = 1 := by simp [nibbles]

theorem systemView_length (s : State) : (systemView s).length = 32 := by simp [systemView]

theorem portView_length (l : LinkPort) : (portView l).length = 32 := by simp [portView]

/-- R184: CANCEL of an order held in the store. -/
theorem exec_cancel {src : OrderSrc} {target : Byte} {cookie : BitVec 16} {e : StoreEntry} (hfree : canTake s src.slot.val = true)
    (hlow : target.toNat ≤ 31) (hne : target.toNat ≠ src.slot.val) (he : storeEntry s target.toNat = some e)
    (hcookie : e.cookie = cookie) :
    exec (.cancel src target cookie) s = .next (cancelEntry e target.toNat src.slot.val
      (takeOrder src.slot.val src.cookie (.cancel target cookie) s)) := by
  refine congrArg Host.Outcome.next ((handOver_run _ _ hfree).trans ?_)
  rw [orderCancel, if_neg (by omega), storeEntry_takeOrder_ne _ _ _ hne, he]
  exact if_pos hcookie

/-- A completion of one slot and the taking of another's order commute. -/
theorem complete_takeOrder {slot target : Nat} (cookie : BitVec 16) (o : Order) (r : ResultCode) (data : List Byte) (s : State)
    (hne : target ≠ slot) :
    complete target r data (takeOrder slot cookie o s) = takeOrder slot cookie o (complete target r data s) := by
  have hstore (xs : List (Option StoreEntry)) (f : Option StoreEntry → Option StoreEntry) (e : Option StoreEntry) :
      (xs.set slot e).modify target f = (xs.modify target f).set slot e := by
    apply List.ext_getElem?
    intro i
    simp only [List.getElem?_modify, List.getElem?_set, List.length_modify]
    by_cases h1 : slot = i <;> by_cases h2 : target = i <;> simp_all
  simp only [complete, takeOrder, modXch, hstore]

theorem servoCode_le (x : ServoState) : servoCode x ≤ 3 := by cases x <;> decide

theorem activeCode_le (x : Option RefInput) : activeCode x ≤ 2 := by
  cases x with
  | none => decide
  | some i => cases i <;> decide

theorem qualCode_le (x : Qual) : qualCode x ≤ 3 := by cases x <;> decide

theorem portStateCode_le (x : PortState) : portStateCode x ≤ 2 := by cases x <;> decide

/-- R183: the fields of the SYSTEM view. -/
theorem systemView_fields (s : State) :
    let data := systemView s
    fieldLe data 0 8 = s.tbs.time.six / 16000000000 % 2 ^ 64 ∧
    fieldLe data 8 4 = s.tbs.time.six % 16000000000 / 16 ∧ fieldLe data 12 1 = s.tbs.time.six % 16 ∧
    fieldLe data 13 1 = s.dsv.cls % 256 ∧ fieldLe data 14 1 = servoCode s.dsv.state ∧
    fieldLe data 15 1 = activeCode s.rfi.active ∧ (fieldLe data 16 4 : Int) = s.tbs.phi % 2 ^ 32 ∧
    fieldLe data 20 4 = s.dsv.eps % 2 ^ 32 ∧
    fieldLe data 24 1 = qualCode s.rfi.inputs.a.qual + 16 * qualCode s.rfi.inputs.b.qual ∧
    fieldLe data 25 1 = portStateCode s.lnk.a.state + 16 * portStateCode s.lnk.b.state ∧
    fieldLe data 26 1 = s.crs.newcomers.length % 256 ∧ fieldLe data 28 4 = s.xch.lost % 2 ^ 32 := by
  have hservo := servoCode_le s.dsv.state
  have hactive := activeCode_le s.rfi.active
  have hqa := qualCode_le s.rfi.inputs.a.qual
  have hqb := qualCode_le s.rfi.inputs.b.qual
  have hpa := portStateCode_le s.lnk.a.state
  have hpb := portStateCode_le s.lnk.b.state
  have hphi := leVal_leInt 4 s.tbs.phi
  simp [systemView, timeBytes, nibbles, fieldLe_skip, fieldLe_here, fieldLe_all]
  simp only [now, Timebase.now, secOf, nsOf, sixOf, sixPerSec]
  exact ⟨trivial, by omega, by omega, by omega, by omega, hphi, by omega, by omega⟩

/-- R183: the fields of a port's view. -/
theorem portView_fields (l : LinkPort) :
    let data := portView l
    fieldLe data 0 1 = portStateCode l.state ∧ fieldLe data 4 4 = l.counters.beacons % 2 ^ 32 ∧
    fieldLe data 8 4 = l.counters.ranges % 2 ^ 32 ∧ fieldLe data 12 4 = l.counters.echoes % 2 ^ 32 ∧
    fieldLe data 16 4 = l.counters.stray % 2 ^ 32 ∧ fieldLe data 20 4 = l.counters.hails % 2 ^ 32 ∧
    fieldLe data 24 4 = l.counters.foreign % 2 ^ 32 ∧ fieldLe data 28 4 = l.counters.dropped % 2 ^ 32 := by
  have hstate := portStateCode_le l.state
  simp [portView, fieldLe_skip, fieldLe_here, fieldLe_all]
  omega

/-- R183: a view that exists is reported. -/
theorem exec_snapshot_view {src : OrderSrc} {view : Byte} {data : List Byte} (hfree : canTake s src.slot.val = true)
    (hview : ∀ u : State, u = takeOrder src.slot.val src.cookie (.snapshot view) s →
      orderSnapshot view src.slot.val u = complete src.slot.val .ok data u) :
    exec (.snapshot src view) s = .next (answered src (.snapshot view) .ok data s) := by
  refine congrArg Host.Outcome.next ((handOver_run _ _ hfree).trans ?_)
  rw [hview _ rfl, complete_take]

theorem orderSnapshot_port {port : Port} {view : Byte} (hview : portOf (view - 1) = some port) (slot : Nat) (u : State) :
    orderSnapshot view slot u = complete slot .ok (portView (link u port)) u := by
  have hcode : port = .a ∧ view = 1 ∨ port = .b ∧ view = 2 := by
    unfold portOf at hview
    split at hview
    next h => exact .inl ⟨(Option.some.inj hview).symm, by rw [sub_eq_zero] at h; exact h⟩
    next =>
      split at hview
      next h => exact .inr ⟨(Option.some.inj hview).symm, by rw [sub_eq_iff_eq_add] at h; exact h⟩
      next => cases hview
  obtain ⟨rfl, rfl⟩ | ⟨rfl, rfl⟩ := hcode <;> rfl

theorem orderSnapshot_unknown {view : Byte} (hview : 2 < view.toNat) (slot : Nat) (u : State) :
    orderSnapshot view slot u = finish slot .badField u := by
  unfold orderSnapshot
  split
  next h => omega
  next h => omega
  next h => omega
  next => rfl

/-- R184: a held order that its owner withdraws. -/
theorem cancelEntry_withdrawn {src : OrderSrc} {e : StoreEntry} {target : Nat} {f : State → State} (o : Order)
    (hheld : e.status = .held) (hne : target ≠ src.slot.val) (hwithdraw : ∀ u, withdraw e.order target u = some (f u))
    (hf : f (takeOrder src.slot.val src.cookie o s) = takeOrder src.slot.val src.cookie o (f s)) :
    cancelEntry e target src.slot.val (takeOrder src.slot.val src.cookie o s) =
      answered src o .ok [] (complete target .cancelled [] (f s)) := by
  unfold cancelEntry
  rw [hheld]
  dsimp only
  rw [hwithdraw]
  dsimp only
  rw [hf, finish, finish, complete_takeOrder _ _ _ _ _ hne, complete_take]

/-- Settles O55: the views by their fields, and CANCEL by the standing of its target. -/
theorem snapshotAndCancel : Obligations.SnapshotAndCancel := by
  intro s src hfree
  refine ⟨?_, fun port view hview => ?_, fun view hview => ?_, fun target cookie => ⟨fun hbad => ?_, fun hlow hne => ⟨fun hnone => ?_, fun e he hcookie => ⟨fun r data written hdone => ?_, fun hheld => ⟨fun p ho => ?_, fun p ho => ?_, fun p ho => ?_, fun h1 h2 h3 => ?_⟩⟩⟩⟩⟩
  · exact ⟨systemView s, exec_snapshot_view hfree fun u hu => hu ▸ rfl, systemView_length s, systemView_fields s⟩
  · exact ⟨portView (link s port), exec_snapshot_view hfree fun u hu => hu ▸ orderSnapshot_port hview _ _,
      portView_length _, portView_fields _⟩
  · refine congrArg Host.Outcome.next ((handOver_run _ _ hfree).trans ?_)
    rw [orderSnapshot_unknown hview, finish_take]
  · refine congrArg Host.Outcome.next ((handOver_run _ _ hfree).trans ?_)
    rw [orderCancel, if_pos hbad, finish_take]
  · refine congrArg Host.Outcome.next ((handOver_run _ _ hfree).trans ?_)
    rw [orderCancel, if_neg (by omega), storeEntry_takeOrder_ne _ _ _ hne]
    split
    · exact finish_take ..
    next e he => rw [if_neg (hnone e he), finish_take]
  · rw [exec_cancel hfree hlow hne he hcookie, cancelEntry, hdone]
    simp only [finish_take, tookEffect, Bool.or_eq_true, beq_iff_eq]
  · rw [exec_cancel hfree hlow hne he hcookie,
      cancelEntry_withdrawn _ hheld hne (f := withdrawStep target.toNat) (fun u => by rw [ho]; rfl) rfl]
    rfl
  · rw [exec_cancel hfree hlow hne he hcookie,
      cancelEntry_withdrawn _ hheld hne (f := dropPending target.toNat) (fun u => by rw [ho]; rfl) rfl]
    rfl
  · rw [exec_cancel hfree hlow hne he hcookie,
      cancelEntry_withdrawn _ hheld hne (f := dropArm target.toNat) (fun u => by rw [ho]; rfl) rfl]
    simp only [dropArm, beq_iff_eq]
    rfl
  · have hstands (u : State) : withdraw e.order target.toNat u = none := by
      cases ho : e.order <;> first | exact absurd ho (h1 _) | exact absurd ho (h2 _) | exact absurd ho (h3 _) | rfl
    rw [exec_cancel hfree hlow hne he hcookie, cancelEntry, hheld]
    simp only [hstands, finish_take]

end Sys2Proof.Machine

/-! ## Registers (ch. 10.1, ch. 11.2) -/

namespace Sys2Proof.Machine

/-- R191: lane n covers the bits 8n+7..8n. -/
theorem laneMask_getLsbD : ∀ (lanes : BitVec 4) (k : Fin 32), (laneMask lanes).getLsbD k = lanes.getLsbD (k / 8) := by
  decide

/-- R191: a bit after a write of the bytes covered. -/
theorem writeOver_getLsbD (w : RegWrite) (old : BitVec 32) {k : Nat} (h : k < 32) :
    (writeOver w old).getLsbD k = if w.lanes.getLsbD (k / 8) then w.value.getLsbD k else old.getLsbD k := by
  have hlane := laneMask_getLsbD w.lanes ⟨k, h⟩
  dsimp only at hlane
  simp only [writeOver, BitVec.getLsbD_or, BitVec.getLsbD_and, BitVec.getLsbD_not, hlane, h, decide_true, Bool.true_and]
  cases w.lanes.getLsbD (k / 8) <;> simp

/-- R191: a bit of a write whose uncovered bytes are 0. -/
theorem writeWhole_getLsbD (w : RegWrite) {k : Nat} (h : k < 32) :
    (writeWhole w).getLsbD k = (w.lanes.getLsbD (k / 8) && w.value.getLsbD k) := by
  have hlane := laneMask_getLsbD w.lanes ⟨k, h⟩
  dsimp only at hlane
  rw [writeWhole, BitVec.getLsbD_and, hlane, Bool.and_comm]

/-- Ch. 11.2: the bits below XBASE_LO bit 12 read 0. -/
theorem pageMask_getLsbD : ∀ k : Fin 32, (0xFFFFF000 : BitVec 32).getLsbD k = decide (12 ≤ k.val) := by decide

/-- The causes in bits 4..0. -/
theorem causesBits_getLsbD_low : ∀ o j c st l : Bool, ∀ k : Fin 5,
    (causesBits ⟨o, j, c, st, l⟩).getLsbD k = ([o, j, c, st, l].getD k false) := by decide

/-- No bit above them. -/
theorem causesBits_getLsbD_high (cs : Causes) {k : Nat} (h : 5 ≤ k) : (causesBits cs).getLsbD k = false := by
  have hlt : (causesBits cs).toNat < 2 ^ 5 := by
    obtain ⟨o, j, c, st, l⟩ := cs
    revert o j c st l
    decide
  exact Nat.testBit_lt_two_pow (hlt.trans_le (Nat.pow_le_pow_right (by decide) h))

/-- R172: the word of causes, bit by bit. -/
theorem causesBits_getLsbD (cs : Causes) :
    (causesBits cs).getLsbD 0 = cs.order ∧ (causesBits cs).getLsbD 1 = cs.journal ∧ (causesBits cs).getLsbD 2 = cs.cls ∧
    (causesBits cs).getLsbD 3 = cs.stall ∧ (causesBits cs).getLsbD 4 = cs.layout := by
  have hlow := causesBits_getLsbD_low cs.order cs.journal cs.cls cs.stall cs.layout
  exact ⟨hlow 0, hlow 1, hlow 2, hlow 3, hlow 4⟩

/-- The state field of XSTAT leaves the causes alone. -/
theorem xstatValue_getLsbD (x : Controller) {k : Nat} (h : k < 5) :
    (xstatValue x).getLsbD k = (causesBits x.causes).getLsbD k := by
  have hfield : ∀ (st : ExchangeState) (k : Fin 5), (BitVec.ofNat 32 (256 * exchangeStateCode st)).getLsbD k = false := by
    intro st
    cases st <;> decide
  have := hfield x.state ⟨k, h⟩
  dsimp only at this
  simp only [xstatValue, BitVec.getLsbD_or, this, Bool.or_false]

/-- R170: XBASE after a write. -/
theorem exec_xbaseWrite (hi : Bool) (w : RegWrite) (s : State) : ∃ base : BitVec 32,
    exec (.xbaseWrite hi w) s = .next { s with xch :=
      if hi then { s.xch with baseHi := base } else { s.xch with baseLo := base } } ∧
    (s.xch.state ≠ .halted → base = if hi then s.xch.baseHi else s.xch.baseLo) ∧
    (s.xch.state = .halted → ∀ k < 32, base.getLsbD k = ((hi || decide (12 ≤ k)) &&
      if w.lanes.getLsbD (k / 8) then w.value.getLsbD k else (if hi then s.xch.baseHi else s.xch.baseLo).getLsbD k)) := by
  have hexec : exec (.xbaseWrite hi w) s = .next (modXch (writeBase hi w) s) := rfl
  by_cases hs : s.xch.state = .halted
  · cases hi with
    | true =>
      refine ⟨writeOver w s.xch.baseHi, ?_, fun h => absurd hs h, fun _ k hk => ?_⟩
      · rw [hexec]
        simp [modXch, writeBase, hs]
      · simpa using writeOver_getLsbD w s.xch.baseHi hk
    | false =>
      refine ⟨writeOver w s.xch.baseLo &&& 0xFFFFF000, ?_, fun h => absurd hs h, fun _ k hk => ?_⟩
      · rw [hexec]
        simp [modXch, writeBase, hs]
      · rw [BitVec.getLsbD_and, pageMask_getLsbD ⟨k, hk⟩, writeOver_getLsbD w _ hk, Bool.and_comm]
        rfl
  · refine ⟨if hi then s.xch.baseHi else s.xch.baseLo, ?_, fun _ => rfl, fun h => absurd h hs⟩
    rw [hexec]
    cases hi <;> simp [modXch, writeBase, hs]

/-- R172: XSTAT after a write. -/
theorem exec_xstatClear (w : RegWrite) (s : State) :
    let stands := fun (old : Bool) (k : Nat) => old && !(w.lanes.getLsbD (k / 8) && w.value.getLsbD k)
    exec (.xstatClear w) s = .next { s with xch := { s.xch with
      causes :=
        { order := stands s.xch.causes.order 0, journal := stands s.xch.causes.journal 1
          cls := stands s.xch.causes.cls 2, stall := stands s.xch.causes.stall 3
          layout := stands s.xch.causes.layout 4 } } } := by
  have hexec : exec (.xstatClear w) s = .next (modXch (writeStatus w) s) := rfl
  have hbits : causesOf (writeWhole w) = ⟨w.lanes.getLsbD 0 && w.value.getLsbD 0, w.lanes.getLsbD 0 && w.value.getLsbD 1,
      w.lanes.getLsbD 0 && w.value.getLsbD 2, w.lanes.getLsbD 0 && w.value.getLsbD 3,
      w.lanes.getLsbD 0 && w.value.getLsbD 4⟩ := by
    simp only [causesOf, writeWhole_getLsbD w (show 0 < 32 by decide), writeWhole_getLsbD w (show 1 < 32 by decide),
      writeWhole_getLsbD w (show 2 < 32 by decide), writeWhole_getLsbD w (show 3 < 32 by decide),
      writeWhole_getLsbD w (show 4 < 32 by decide)]
  rw [hexec, modXch, writeStatus, hbits]
  rfl

/-- R172: XMASK after a write. -/
theorem exec_xmaskWrite (w : RegWrite) (s : State) :
    exec (.xmaskWrite w) s = .next { s with xch := { s.xch with
      mask := if w.lanes.getLsbD 0 then
          { order := w.value.getLsbD 0, journal := w.value.getLsbD 1, cls := w.value.getLsbD 2, stall := w.value.getLsbD 3
            layout := w.value.getLsbD 4 }
        else s.xch.mask } } := by
  have hexec : exec (.xmaskWrite w) s = .next (modXch (writeMask w) s) := rfl
  obtain ⟨h0, h1, h2, h3, h4⟩ := causesBits_getLsbD s.xch.mask
  have hbits : causesOf (writeOver w (causesBits s.xch.mask)) = if w.lanes.getLsbD 0 then
      { order := w.value.getLsbD 0, journal := w.value.getLsbD 1, cls := w.value.getLsbD 2, stall := w.value.getLsbD 3
        layout := w.value.getLsbD 4 } else s.xch.mask := by
    have hbit : ∀ k < 5, (writeOver w (causesBits s.xch.mask)).getLsbD k =
        if w.lanes.getLsbD 0 then w.value.getLsbD k else (causesBits s.xch.mask).getLsbD k := fun k hk => by
      rw [writeOver_getLsbD w _ (by omega), show k / 8 = 0 by omega]
    rw [causesOf, hbit 0 (by decide), hbit 1 (by decide), hbit 2 (by decide), hbit 3 (by decide), hbit 4 (by decide),
      h0, h1, h2, h3, h4]
    cases w.lanes.getLsbD 0 <;> rfl
  rw [hexec, modXch, writeMask, hbits]

/-- Bit 0, being set, stays where it is forced to 1. -/
theorem or_one_of_set {v : BitVec 32} (h : v.getLsbD 0 = true) : v ||| 1 = v := by
  refine BitVec.eq_of_getLsbD_eq fun i hi => ?_
  have hone : ∀ k : Fin 32, (1 : BitVec 32).getLsbD k = decide (k.val = 0) := by decide
  rw [BitVec.getLsbD_or, hone ⟨i, hi⟩]
  rcases Nat.eq_zero_or_pos i with rfl | hpos
  · rw [h]; rfl
  · simp [Nat.ne_of_gt hpos]

/-- Bit 0, being clear, stays where it is forced to 0. -/
theorem and_rest_of_clear {v : BitVec 32} (h : v.getLsbD 0 = false) : v &&& 0xFFFFFFFE = v := by
  refine BitVec.eq_of_getLsbD_eq fun i hi => ?_
  have hmask : ∀ k : Fin 32, (0xFFFFFFFE : BitVec 32).getLsbD k = decide (k.val ≠ 0) := by decide
  rw [BitVec.getLsbD_and, hmask ⟨i, hi⟩]
  rcases Nat.eq_zero_or_pos i with rfl | hpos
  · rw [h]; rfl
  · simp [Nat.ne_of_gt hpos]

/-- R191: a write of the register window is the write of the register of its word. -/
theorem exec_registerWrite (offset : Fin 32) (w : RegWrite) (s : State) :
    (24 ≤ offset.val → exec (.registerWrite offset w) s = .next s) ∧
    (offset.val / 4 = 0 → exec (.registerWrite offset w) s = exec (.xbaseWrite false w) s) ∧
    (offset.val / 4 = 1 → exec (.registerWrite offset w) s = exec (.xbaseWrite true w) s) ∧
    (offset.val / 4 = 2 → exec (.registerWrite offset w) s =
      if (writeWhole w).getLsbD 0 then exec (.runSet w) s else exec (.runClear w) s) ∧
    (offset.val / 4 = 3 → exec (.registerWrite offset w) s = exec (.xnudge w []) s) ∧
    (offset.val / 4 = 4 → exec (.registerWrite offset w) s = exec (.xstatClear w) s) ∧
    (offset.val / 4 = 5 → exec (.registerWrite offset w) s = exec (.xmaskWrite w) s) := by
  have hexec : exec (.registerWrite offset w) s = .next (writeRegister offset w s) := rfl
  rw [hexec, writeRegister]
  refine ⟨fun h => ?_, fun h => ?_, fun h => ?_, fun h => ?_, fun h => ?_, fun h => ?_, fun h => ?_⟩
  · have hword : offset.val / 4 = 6 ∨ offset.val / 4 = 7 := by omega
    rcases hword with hword | hword <;> rw [hword] <;> rfl
  · rw [h]; rfl
  · rw [h]; rfl
  · have hrunSet : exec (.runSet w) s = .next (writeControl (writeWhole w ||| 1) s) := rfl
    have hrunClear : exec (.runClear w) s = .next (writeControl (writeWhole w &&& 0xFFFFFFFE) s) := rfl
    rw [h]
    change Host.Outcome.next (writeControl (writeWhole w) s) = _
    cases hb : (writeWhole w).getLsbD 0 with
    | true => rw [if_pos rfl, hrunSet, or_one_of_set hb]
    | false => rw [if_neg Bool.false_ne_true, hrunClear, and_rest_of_clear hb]
  · rw [h]; rfl
  · rw [h]; rfl
  · rw [h]; rfl

/-- R172: XIRQ and the words of XSTAT and XMASK. -/
theorem xirq_iff (x : Controller) : xirq x = true ↔
    ∃ k < 5, (registerWord 16 x).getLsbD k = true ∧ (registerWord 20 x).getLsbD k = true := by
  have hstat : registerWord 16 x = xstatValue x := rfl
  have hmask : registerWord 20 x = causesBits x.mask := rfl
  obtain ⟨c0, c1, c2, c3, c4⟩ := causesBits_getLsbD x.causes
  obtain ⟨m0, m1, m2, m3, m4⟩ := causesBits_getLsbD x.mask
  rw [hstat, hmask]
  constructor
  · intro h
    simp only [xirq, Bool.or_eq_true, Bool.and_eq_true] at h
    rcases h with (((h | h) | h) | h) | h
    · exact ⟨0, by decide, by rwa [xstatValue_getLsbD x (by decide), c0, m0]⟩
    · exact ⟨1, by decide, by rwa [xstatValue_getLsbD x (by decide), c1, m1]⟩
    · exact ⟨2, by decide, by rwa [xstatValue_getLsbD x (by decide), c2, m2]⟩
    · exact ⟨3, by decide, by rwa [xstatValue_getLsbD x (by decide), c3, m3]⟩
    · exact ⟨4, by decide, by rwa [xstatValue_getLsbD x (by decide), c4, m4]⟩
  · rintro ⟨k, hk, hc, hm⟩
    rw [xstatValue_getLsbD x hk] at hc
    interval_cases k <;> simp_all [xirq]

/-- R191: a read returns the bytes it covers. -/
theorem registerRead_getLsbD (offset : Fin 32) (lanes : BitVec 4) (x : Controller) {k : Nat} (h : k < 32) :
    (registerRead offset lanes x).getLsbD k = (lanes.getLsbD (k / 8) && (registerWord offset x).getLsbD k) := by
  have hlane := laneMask_getLsbD lanes ⟨k, h⟩
  dsimp only at hlane
  rw [registerRead, BitVec.getLsbD_and, hlane, Bool.and_comm]

/-- The exchange state field of XSTAT (ch. 11.2). -/
theorem xstatValue_eq (x : Controller) : xstatValue x = causesBits x.causes ||| (match x.state with
    | .halted => 0 | .starting => 0x100 | .running => 0x200 | .stalled => 0x300) := by
  unfold xstatValue
  cases x.state <;> rfl

/-- Settles O58: the register window, word by word and bit by bit. -/
theorem registersReadAndWritten : Obligations.RegistersReadAndWritten := by
  intro s w
  refine ⟨fun hi => exec_xbaseWrite hi w s, exec_xstatClear w s, exec_xmaskWrite w s,
    fun offset => exec_registerWrite offset w s, fun cs => ?_, xirq_iff s.xch, fun offset lanes => ⟨fun k hk =>
      registerRead_getLsbD offset lanes s.xch hk, ?_⟩⟩
  · obtain ⟨h0, h1, h2, h3, h4⟩ := causesBits_getLsbD cs
    exact ⟨h0, h1, h2, h3, h4, fun k => causesBits_getLsbD_high cs⟩
  · unfold registerWord
    rw [xstatValue_eq]
    rfl

end Sys2Proof.Machine

/-! ## Sweeps, starts, halts and resets (ch. 10.1 to 10.6) -/

namespace Sys2Proof.Machine

section
variable {s t : State}

/-- R180: what the going on of a sweep leaves of memory and of the controller. -/
theorem SweepGoesOn.leaves (h : SweepGoesOn s t) : t.mem = s.mem ∧ t.xch = { s.xch with
    access := t.xch.access, sweep := t.xch.sweep, causes := t.xch.causes, timer := t.xch.timer, store := t.xch.store
    sweeps := t.xch.sweeps } := by
  induction h with
  | refuse s t k0 k o en r _ _ _ _ _ _ ih => exact ⟨ih.1, ih.2⟩
  | first s t k _ _ _ ih => exact ⟨ih.1, ih.2⟩
  | taken s t k _ _ _ ih => exact ⟨ih.1, ih.2⟩
  | completed s t k _ _ _ ih => exact ⟨ih.1, ih.2⟩
  | _ => exact ⟨rfl, rfl⟩

/-- R180: the sweep reaches its next access, unless it stood at its end. -/
theorem SweepGoesOn.reaches (h : SweepGoesOn s t) (hs : s.xch.sweep ≠ some .header) :
    t.xch.access.isSome = true ∧ t.xch.sweep.isSome = true := by
  induction h with
  | refuse s t k0 k o en r _ _ _ _ _ _ ih => exact ih (by simp [standing])
  | first s t k _ _ _ ih => exact ih (by simp [sweepStarted])
  | taken s t k _ _ _ ih => exact ih (by simp [standing])
  | completed s t k _ _ _ ih => exact ih (by simp [standing])
  | ended s hend => exact absurd hend hs
  | _ => exact ⟨rfl, rfl⟩

/-- R180: past the orders handed again, the timer and the store stand. -/
theorem SweepGoesOn.timer_store (h : SweepGoesOn s t) (hs : ∀ k, s.xch.sweep ≠ some (.retry k)) :
    t.xch.timer = s.xch.timer ∧ t.xch.store = s.xch.store := by
  induction h with
  | refuse s t k0 k o en r hat _ _ _ _ _ ih => exact absurd hat (hs k0)
  | readAgain s k0 k o hat _ _ _ => exact absurd hat (hs k0)
  | first s t k hat _ _ ih => exact absurd hat (hs k)
  | taken s t k _ _ _ ih => exact ih (by simp [standing])
  | completed s t k _ _ _ ih => exact ih (by simp [standing])
  | _ => exact ⟨rfl, rfl⟩

end

/-- R179: what the beginning of a sweep leaves. -/
theorem beginSweep_begins (s : State) :
    SweepGoesOn (sweepStarted s) (beginSweep s) ∧ (beginSweep s).mem = s.mem ∧
    (beginSweep s).xch.access.isSome = true ∧ (beginSweep s).xch.sweep.isSome = true ∧
    (beginSweep s).xch.timer = some (s.xch.period.getD 0 * 125) ∧ (beginSweep s).xch.store = s.xch.store ∧
    (beginSweep s).xch.staging = s.xch.staging := by
  have hgoes := beginSweep_goes s
  obtain ⟨hmem, hrest⟩ := hgoes.leaves
  obtain ⟨haccess, hsweep⟩ := hgoes.reaches (by simp [sweepStarted])
  obtain ⟨htimer, hstore⟩ := hgoes.timer_store (by simp [sweepStarted])
  exact ⟨hgoes, hmem, haccess, hsweep, htimer, hstore, by rw [hrest]; rfl⟩

/-- R179: a RUNNING exchange that is not being stopped sweeps. -/
theorem sweeping_iff (x : Controller) :
    sweeping x = true ↔ x.state = .running ∧ x.haltAsked = false ∧ x.resetAsked = false := by
  simp [sweeping, stopping]

/-- R179: a sweep asked for with none in progress begins. -/
theorem askSweep_none {s : State} (h : s.xch.sweep = none) : askSweep s = beginSweep s := by
  simp [askSweep, h]

/-- R179: one asked for with one in progress is pending. -/
theorem askSweep_some {s : State} (h : s.xch.sweep ≠ none) :
    askSweep s = { s with xch := { s.xch with sweepPending := true } } := by
  rw [askSweep, if_pos (Option.isSome_iff_ne_none.2 h)]
  rfl

section
variable (s : State) (host : HostWrites) (w : RegWrite)

/-- The SWEEP_PERIOD_EXPIRY command, where it does nothing beside the host's stores. -/
theorem exec_expiry_idle (h : ¬ (sweeping s.xch = true ∧ s.xch.timer = some 0)) :
    exec (.sweepPeriodExpiry host) s = .next (modMem (Memory.writeAll host) s) := by
  have hexec : exec (.sweepPeriodExpiry host) s = execSweepPeriodExpiry host s := rfl
  rw [hexec, execSweepPeriodExpiry]
  have hoff : ¬ (sweeping s.xch && s.xch.timer == some 0) = true := by simpa using h
  exact congrArg _ (if_neg hoff)

/-- The SWEEP_PERIOD_EXPIRY command, where the timer has expired. -/
theorem exec_expiry (hon : sweeping s.xch = true) (ht : s.xch.timer = some 0) :
    exec (.sweepPeriodExpiry host) s = .next (askSweep (modXch (fun x => { x with timer := none, timeUp := true })
      (modMem (Memory.writeAll host) s))) := by
  have hexec : exec (.sweepPeriodExpiry host) s = execSweepPeriodExpiry host s := rfl
  rw [hexec, execSweepPeriodExpiry]
  exact congrArg _ (if_pos (by simp [modMem, hon, ht]))

/-- The PENDING_SWEEP_START command, where it does nothing beside the host's stores. -/
theorem exec_pendingSweep_idle (h : ¬ (sweeping s.xch = true ∧ s.xch.sweepPending = true ∧ s.xch.sweep = none)) :
    exec (.pendingSweepStart host) s = .next (modMem (Memory.writeAll host) s) := by
  have hexec : exec (.pendingSweepStart host) s = execPendingSweepStart host s := rfl
  rw [hexec, execPendingSweepStart]
  have hoff : ¬ (sweeping s.xch && s.xch.sweepPending && s.xch.sweep.isNone) = true := by simpa [and_assoc] using h
  exact congrArg _ (if_neg hoff)

/-- The PENDING_SWEEP_START command, where a pending sweep begins. -/
theorem exec_pendingSweep (hon : sweeping s.xch = true) (hp : s.xch.sweepPending = true) (hn : s.xch.sweep = none) :
    exec (.pendingSweepStart host) s = .next (beginSweep (modXch (fun x => { x with sweepPending := false })
      (modMem (Memory.writeAll host) s))) := by
  have hexec : exec (.pendingSweepStart host) s = execPendingSweepStart host s := rfl
  rw [hexec, execPendingSweepStart]
  exact congrArg _ (if_pos (by simp [modMem, hon, hp, hn]))

/-- The XNUDGE command, where it does nothing beside the host's stores. -/
theorem exec_xnudge_idle (h : ¬ (sweeping s.xch = true ∧ s.xch.timeUp = false)) :
    exec (.xnudge w host) s = .next (modMem (Memory.writeAll host) s) := by
  have hexec : exec (.xnudge w host) s = .next (nudge (modMem (Memory.writeAll host) s)) := rfl
  have hoff : ¬ (sweeping s.xch && !s.xch.timeUp) = true := by simpa using h
  rw [hexec, nudge]
  exact congrArg _ (if_neg hoff)

/-- The XNUDGE command, where it asks for a sweep. -/
theorem exec_xnudge (hon : sweeping s.xch = true) (ht : s.xch.timeUp = false) :
    exec (.xnudge w host) s = .next (askSweep (modMem (Memory.writeAll host) s)) := by
  have hexec : exec (.xnudge w host) s = .next (nudge (modMem (Memory.writeAll host) s)) := rfl
  rw [hexec, nudge]
  exact congrArg _ (if_pos (by simp [modMem, hon, ht]))

end

/-- Settles O56: each of the three commands idles, asks for a sweep, or begins one. -/
theorem sweepsBegin : Obligations.SweepsBegin := by
  rintro s m host w rfl
  have hbegins : ∀ (c : Instr) (u : State), exec c s = .next (beginSweep u) → u.mem = (modMem (Memory.writeAll host) s).mem →
      u.xch.period = s.xch.period → u.xch.store = s.xch.store → u.xch.staging = s.xch.staging →
      ∃ t, exec c s = .next t ∧ SweepGoesOn (sweepStarted u) t ∧ t.mem = (modMem (Memory.writeAll host) s).mem ∧
        t.xch.access.isSome = true ∧ t.xch.sweep.isSome = true ∧ t.xch.timer = some (s.xch.period.getD 0 * 125) ∧
        t.xch.store = s.xch.store ∧ t.xch.staging = s.xch.staging := by
    intro c u hexec hmem hperiod hstore hstaging
    have hspec := beginSweep_begins u
    rw [hmem, hperiod, hstore, hstaging] at hspec
    exact ⟨_, hexec, hspec⟩
  refine ⟨fun hoff => ?_, fun ht => ?_, fun hp => ?_, fun ht => ?_, fun hon hn => ⟨fun ht => ?_, fun ht => ?_, fun hp => ?_⟩,
    fun hon hn => ⟨fun ht => ?_, fun ht => ?_⟩⟩
  · rw [← sweeping_iff] at hoff
    exact ⟨exec_expiry_idle s host fun h => hoff h.1, exec_pendingSweep_idle s host fun h => hoff h.1,
      exec_xnudge_idle s host w fun h => hoff h.1⟩
  · exact exec_expiry_idle s host fun h => ht h.2
  · refine exec_pendingSweep_idle s host fun ⟨_, hpending, hnone⟩ => ?_
    rcases hp with hp | hp
    · exact Bool.false_ne_true (hp.symm.trans hpending)
    · exact hp hnone
  · exact exec_xnudge_idle s host w fun h => Bool.false_ne_true (h.2.symm.trans ht)
  · refine hbegins _ _ ?_ rfl rfl rfl rfl
    rw [exec_xnudge s host w ((sweeping_iff _).2 hon) ht, askSweep_none (by exact hn)]
  · refine hbegins _ _ ?_ rfl rfl rfl rfl
    rw [exec_expiry s host ((sweeping_iff _).2 hon) ht, askSweep_none (by exact hn)]
    rfl
  · refine hbegins _ _ ?_ rfl rfl rfl rfl
    rw [exec_pendingSweep s host ((sweeping_iff _).2 hon) hp hn]
    rfl
  · rw [exec_xnudge s host w ((sweeping_iff _).2 hon) ht, askSweep_some (by exact hn)]
  · rw [exec_expiry s host ((sweeping_iff _).2 hon) ht, askSweep_some (by exact hn)]
    rfl

/-- R94: the non-VACANT slots in their order. -/
theorem occupied_eq (s : State) :
    occupied s = (List.range s.crs.clients.length).filter (fun n => (client s n).state != .vacant) := by
  have hzip : s.crs.clients.zipIdx = (List.range s.crs.clients.length).map (fun n => (client s n, n)) := by
    refine List.ext_getElem (by simp) fun n h1 h2 => ?_
    have hn : n < s.crs.clients.length := by simpa using h1
    simp [client, List.getD, hn]
  rw [occupied, hzip, List.filter_map, List.map_map]
  exact List.map_id _

/-- R91: the slots of a run that are not queued join the queue in its order. -/
theorem forEach_queuePub {xs : List Nat} (hn : xs.Nodup) (s : State) :
    forEach xs queuePub s = modCrs (fun r => { r with
      queue := r.queue ++ xs.filter (fun n => !r.queue.contains n) }) s := by
  induction xs generalizing s with
  | nil => simp [forEach, modCrs]
  | cons n xs ih =>
    obtain ⟨hnew, hrest⟩ := List.nodup_cons.1 hn
    have hstep : forEach (n :: xs) queuePub s = forEach xs queuePub (queuePub n s) := rfl
    rw [hstep, ih hrest]
    by_cases hq : n ∈ s.crs.queue
    · simp [queuePub, modCrs, hq]
    · have hfilter : xs.filter (fun k => !(s.crs.queue ++ [n]).contains k) = xs.filter (fun k => !s.crs.queue.contains k) := by
        refine List.filter_congr fun k hk => ?_
        have : k ≠ n := fun e => hnew (e ▸ hk)
        simp [this]
      simp [queuePub, modCrs, hq] at hfilter ⊢
      exact hfilter

/-- R17: only a servo step stays posted. -/
theorem abandonStep_eq (t : Timebase) :
    abandonStep t = { t with posted := t.posted.filter (fun p => p.origin == .servo) } := by
  obtain hp | ⟨⟨delta, target, origin⟩, hp⟩ : t.posted = none ∨ ∃ p, t.posted = some p := by
    cases t.posted <;> simp
  · obtain ⟨⟩ := t
    cases hp
    rfl
  · obtain ⟨⟩ := t
    cases hp
    cases origin <;> rfl

/-- R94, R188: what the exchange reset leaves. -/
theorem exchangeReset_eq (s : State) : exchangeReset s = { s with
    tbs := { s.tbs with posted := s.tbs.posted.filter (fun p => p.origin == .servo) }
    pou := { s.pou with channels := s.pou.channels.map (fun ch =>
      { ch with pending := none, arm := none, state := if ch.state = .waiting then .ready else ch.state }) }
    crs := { s.crs with queue := s.crs.queue ++ (List.range s.crs.clients.length).filter (fun n =>
      (client s n).state != .vacant && !s.crs.queue.contains n) }
    xch := resetController s.xch } := by
  have hnodup : (occupied (modXch resetController (modPou (fun u => { u with channels := u.channels.map abandonChannel })
      (modTbs abandonStep s)))).Nodup := by
    rw [occupied_eq]
    exact List.nodup_range.filter _
  rw [exchangeReset, requeueClients, forEach_queuePub hnodup, occupied_eq]
  simp only [modTbs, modPou, modXch, modCrs, abandonStep_eq, List.filter_filter]
  congr 3
  exact List.filter_congr fun n _ => Bool.and_comm _ _

section
variable {v : BitVec 32} {s : State}

/-- R171: a write of XCTL with XRST 1. -/
theorem writeControl_reset (h : v.getLsbD 2 = true) :
    writeControl v s = { s with xch := { s.xch with resetAsked := true } } := by
  rw [writeControl, if_pos h]
  rfl

/-- R175, R178: a write of XCTL with RUN 1. -/
theorem writeControl_run (hreset : v.getLsbD 2 = false) (h : v.getLsbD 0 = true) :
    writeControl v s = { s with xch := if s.xch.state = .halted ∨ s.xch.state = .stalled ∧ v.getLsbD 1 = true then
      { s.xch with state := .starting, run := true, access := some .headerStart } else s.xch } := by
  rw [writeControl, if_neg (by rw [hreset]; exact Bool.false_ne_true), if_pos h]
  cases hs : s.xch.state with
  | halted => simp [modXch, beginStart]
  | stalled => cases v.getLsbD 1 <;> simp [modXch, beginStart]
  | starting => simp
  | running => simp

/-- R176: a write of XCTL with RUN 0. -/
theorem writeControl_stop (hreset : v.getLsbD 2 = false) (h : v.getLsbD 0 = false) :
    writeControl v s = { s with xch := if s.xch.state = .halted then s.xch
      else if s.xch.state = .stalled then { s.xch with
        state := .halted, run := false, haltAsked := false, timer := none, timeUp := false, sweepPending := false
        sweep := none, access := none }
      else { s.xch with run := false, haltAsked := true } } := by
  rw [writeControl, if_neg (by rw [hreset]; exact Bool.false_ne_true), if_neg (by rw [h]; exact Bool.false_ne_true)]
  cases hs : s.xch.state with
  | halted => simp
  | stalled => simp [toHalted, modXch]
  | starting => simp [modXch]
  | running => simp [modXch]

end
/-- R176, R188: a halt or a reset waits for no access. -/
theorem mayStop_iff (x : Controller) : mayStop x = true ↔ x.access = none ∨ x.access = some .headerStart := by
  simp [mayStop]

/-- R174: the header is usable. -/
theorem headerUsable_iff (ws : List Byte) : headerUsable ws = true ↔
    fieldLe ws 0 4 = 0x4B575845 ∧ fieldLe ws 4 2 = 1 ∧ fieldLe ws 8 4 ∈ [64, 128, 256, 512, 1024, 2048, 4096] := by
  rw [headerUsable, Bool.and_eq_true, Bool.and_eq_true, beq_iff_eq, beq_iff_eq, decide_eq_true_iff, and_assoc]

/-- The HEADER_READ command with no header read in progress. -/
theorem exec_headerRead_idle (s : State) (host : HostWrites) (h : s.xch.access ≠ some .headerStart) :
    exec (.headerRead host) s = .next (modMem (Memory.writeAll host) s) := by
  have hexec : exec (.headerRead host) s = .next (headerRead (modMem (Memory.writeAll host) s)) := rfl
  rw [hexec, headerRead]
  exact congrArg _ (if_neg h)

section
variable {m : State}

/-- R174: a header that is not usable. -/
theorem headerRead_unusable (h : m.xch.access = some .headerStart) (hgo : stopping m.xch = false)
    (hu : headerUsable (hostWords m) = false) : headerRead m = { m with xch := { m.xch with
      state := .halted, run := false, access := none, causes := { m.xch.causes with layout := true } } } := by
  rw [headerRead, if_pos h]
  exact (if_neg (by rw [hgo]; exact Bool.false_ne_true)).trans
    (if_neg (by rw [hu]; exact Bool.false_ne_true))

/-- R174, R175: a usable header sets the exchange RUNNING and goes on to the orders held. -/
theorem headerRead_usable (h : m.xch.access = some .headerStart) (hgo : stopping m.xch = false)
    (hu : headerUsable (hostWords m) = true) :
    headerRead m = goRetry 32 0 (modXch (fun x => takeHostWords (fieldLe (hostWords m) 8 4) (hostWords m)
      { x with capacity := some (fieldLe (hostWords m) 8 4), state := .running, sweep := some (.retry 0) }) (clearAccess m)) := by
  rw [headerRead, if_pos h]
  exact (if_neg (by rw [hgo]; exact Bool.false_ne_true)).trans (if_pos hu)

end

/-- R174: the sweep period as the controller uses it. -/
theorem periodOf_eq (v : Nat) : periodOf v = if v = 0 then 1000 else max 125 (min 8000 v) := by
  rw [periodOf, clampNat_eq]

/-- The controller with a usable header taken, before the orders held are handed again (R174, R175). -/
def headerTaken (ws : List Byte) (x : Controller) : Controller := { x with
  state := .running, access := none, sweep := some (.retry 0), capacity := some (fieldLe ws 8 4)
  consumed := some (fieldLe ws 0x0C 4)
  threshold := some (if fieldLe ws 0x10 4 = 0 then 1 else min (fieldLe ws 0x10 4) (fieldLe ws 8 4))
  period := some (if fieldLe ws 0x14 4 = 0 then 1000 else max 125 (min 8000 (fieldLe ws 0x14 4))) }

/-- The model's taking of a usable header. -/
theorem takeHostWords_headerTaken (ws : List Byte) (x : Controller) :
    takeHostWords (fieldLe ws 8 4) ws { x with
      access := none, capacity := some (fieldLe ws 8 4), state := .running, sweep := some (.retry 0) } = headerTaken ws x := by
  rw [takeHostWords, periodOf_eq]
  rfl

/-- R174, R175, R178: a usable header sets the exchange RUNNING, and the sweep goes on from the orders held. -/
theorem headerRead_running {m : State} (h : m.xch.access = some .headerStart) (hgo : stopping m.xch = false)
    (hu : headerUsable (hostWords m) = true) :
    let x := headerTaken (hostWords m) m.xch
    let t := headerRead m
    SweepGoesOn { m with xch := x } t ∧ t.mem = m.mem ∧ t.xch.state = .running ∧ t.xch.run = m.xch.run ∧
    t.xch.capacity = x.capacity ∧ t.xch.consumed = x.consumed ∧ t.xch.threshold = x.threshold ∧ t.xch.period = x.period ∧
    t.xch.produced = m.xch.produced ∧ t.xch.sweep.isSome = true := by
  intro x t
  have ht : t = goRetry 32 0 { m with xch := x } :=
    (headerRead_usable h hgo hu).trans (congrArg (fun y => goRetry 32 0 { m with xch := y })
      (takeHostWords_headerTaken (hostWords m) m.xch))
  have hgoes : SweepGoesOn { m with xch := x } t := by
    rw [ht]
    exact goRetry_goes 32 0 _ 0 rfl le_rfl rfl hgo rfl (fun n o h1 h2 => by omega)
  obtain ⟨hmem, hrest⟩ := hgoes.leaves
  obtain ⟨-, hsweep⟩ := hgoes.reaches (fun hs : some (SweepStep.retry 0) = some .header => by cases hs)
  refine ⟨hgoes, hmem, ?_, ?_, ?_, ?_, ?_, ?_, ?_, hsweep⟩ <;> rw [hrest] <;> rfl

/-- A bit of XCTL's that no command forces, or that one does. -/
theorem getLsbD_or_other {v m : BitVec 32} {k : Nat} (h : m.getLsbD k = false) : (v ||| m).getLsbD k = v.getLsbD k := by
  rw [BitVec.getLsbD_or, h, Bool.or_false]

theorem getLsbD_or_forced {v m : BitVec 32} {k : Nat} (h : m.getLsbD k = true) : (v ||| m).getLsbD k = true := by
  rw [BitVec.getLsbD_or, h, Bool.or_true]

theorem getLsbD_and_other {v m : BitVec 32} {k : Nat} (h : m.getLsbD k = true) : (v &&& m).getLsbD k = v.getLsbD k := by
  rw [BitVec.getLsbD_and, h, Bool.and_true]

/-- R171: with XRST 1 written, every command of XCTL asks for the reset. -/
theorem exec_control_reset (s : State) (w : RegWrite) (h : (writeWhole w).getLsbD 2 = true) :
    exec (.runSet w) s = exec (.xrst w) s ∧ exec (.runClear w) s = exec (.xrst w) s ∧
    exec (.resume w) s = exec (.xrst w) s := by
  have hrunSet : exec (.runSet w) s = .next (writeControl (writeWhole w ||| 1) s) := rfl
  have hrunClear : exec (.runClear w) s = .next (writeControl (writeWhole w &&& 0xFFFFFFFE) s) := rfl
  have hresume : exec (.resume w) s = .next (writeControl (writeWhole w ||| 2) s) := rfl
  have hxrst : exec (.xrst w) s = .next (writeControl (writeWhole w ||| 4) s) := rfl
  rw [hrunSet, hrunClear, hresume, hxrst, writeControl_reset (v := writeWhole w ||| 4) (getLsbD_or_forced (by decide)),
    writeControl_reset (v := writeWhole w ||| 1) ((getLsbD_or_other (by decide)).trans h),
    writeControl_reset (v := writeWhole w &&& 0xFFFFFFFE) ((getLsbD_and_other (by decide)).trans h),
    writeControl_reset (v := writeWhole w ||| 2) ((getLsbD_or_other (by decide)).trans h)]
  exact ⟨rfl, rfl, rfl⟩

/-- Settles O57: XCTL by the bits its commands force, and the header read by whether the header is usable. -/
theorem controlMovesExchange : Obligations.ControlMovesExchange := by
  intro s w
  dsimp only
  refine ⟨fun hp => ?_, fun hp => ?_, fun hp => ?_, ?_, fun hp => ?_, ?_, fun h => ?_, fun hr hfree => ?_, fun host =>
    ⟨fun h => exec_headerRead_idle s host h, fun h hh hr => ⟨fun hu => ?_, fun hu => ?_⟩⟩⟩
  · have hexec : exec (.runSet w) s = .next (writeControl (writeWhole w ||| 1) s) := rfl
    rw [hexec, writeControl_run ((getLsbD_or_other (by decide)).trans hp) (getLsbD_or_forced (by decide)),
      getLsbD_or_other (by decide)]
    by_cases h1 : s.xch.state = .halted
    · simp [h1]
    · simp [h1]
  · have hexec : exec (.resume w) s = .next (writeControl (writeWhole w ||| 2) s) := rfl
    have h2 := (getLsbD_or_other (v := writeWhole w) (m := 2) (k := 2) (by decide)).trans hp
    have h0 := getLsbD_or_other (v := writeWhole w) (m := 2) (k := 0) (by decide)
    rw [hexec]
    cases hb : (writeWhole w).getLsbD 0 with
    | true => rw [if_pos rfl, writeControl_run h2 (h0.trans hb), getLsbD_or_forced (k := 1) (by decide)]; simp
    | false => rw [if_neg Bool.false_ne_true, writeControl_stop h2 (h0.trans hb)]
  · have hexec : exec (.runClear w) s = .next (writeControl (writeWhole w &&& 0xFFFFFFFE) s) := rfl
    rw [hexec, writeControl_stop ((getLsbD_and_other (by decide)).trans hp)
      (by rw [BitVec.getLsbD_and, show (0xFFFFFFFE : BitVec 32).getLsbD 0 = false by decide, Bool.and_false])]
  · have hexec : exec (.xrst w) s = .next (writeControl (writeWhole w ||| 4) s) := rfl
    rw [hexec, writeControl_reset (getLsbD_or_forced (by decide))]
  · exact exec_control_reset s w (by simpa using hp)
  · have hexec : exec .halt s = .next (if s.xch.haltAsked && mayStop s.xch then toHalted s else s) := rfl
    have hiff : (s.xch.haltAsked && mayStop s.xch) = true ↔
        s.xch.haltAsked = true ∧ (s.xch.access = none ∨ s.xch.access = some .headerStart) := by
      rw [Bool.and_eq_true, mayStop_iff]
    rw [hexec]
    by_cases hc : s.xch.haltAsked = true ∧ (s.xch.access = none ∨ s.xch.access = some .headerStart)
    · rw [if_pos (hiff.2 hc), if_pos hc]
      rfl
    · rw [if_neg (fun h => hc (hiff.1 h)), if_neg hc]
  · have hexec : exec .exchangeReset s = .next (if s.xch.resetAsked && mayStop s.xch then exchangeReset s else s) := rfl
    rw [hexec, if_neg (by rwa [Bool.and_eq_true, mayStop_iff])]
  · have hexec : exec .exchangeReset s = .next (if s.xch.resetAsked && mayStop s.xch then exchangeReset s else s) := rfl
    refine ⟨exchangeReset s, by rw [hexec, if_pos (by rw [Bool.and_eq_true, mayStop_iff]; exact ⟨hr, hfree⟩)], ?_⟩
    rw [exchangeReset_eq]
    exact ⟨rfl, rfl, rfl, rfl⟩
  · have hexec : exec (.headerRead host) s = .next (headerRead (modMem (Memory.writeAll host) s)) := rfl
    rw [hexec, headerRead_unusable (m := modMem (Memory.writeAll host) s) h (by simp [stopping, modMem, hh, hr])
      (by rw [← Bool.not_eq_true, headerUsable_iff]; exact hu)]
    rfl
  · have hexec : exec (.headerRead host) s = .next (headerRead (modMem (Memory.writeAll host) s)) := rfl
    exact ⟨_, hexec, headerRead_running (m := modMem (Memory.writeAll host) s) h (by simp [stopping, modMem, hh, hr])
      ((headerUsable_iff _).2 hu)⟩

end Sys2Proof.Machine

/-! ## The Roster's orders (ch. 5.2) -/

namespace Sys2Proof.Machine

section
variable {n : Nat} {s₀ s t : State}

/-! ### Work on one slot -/

/-- Of the Roster, `t` differs from `s` in slot `n` and in the publication queue alone. -/
structure OnSlot (n : Nat) (s t : State) : Prop where
  others : ∀ k, k ≠ n → client t k = client s k
  length : t.crs.clients.length = s.crs.clients.length
  newcomers : t.crs.newcomers = s.crs.newcomers

theorem OnSlot.refl (s : State) : OnSlot n s s := ⟨fun _ _ => rfl, rfl, rfl⟩

theorem OnSlot.trans (h : OnSlot n s₀ s) (k : OnSlot n s t) : OnSlot n s₀ t :=
  ⟨fun m hm => (k.others m hm).trans (h.others m hm), k.length.trans h.length, k.newcomers.trans h.newcomers⟩

theorem OnSlot.of_crs (h : t.crs = s.crs) : OnSlot n s t :=
  ⟨fun _ _ => by rw [client, h]; rfl, by rw [h], by rw [h]⟩

theorem modClient_onSlot (f : Client → Client) (s : State) : OnSlot n s (modClient n f s) :=
  ⟨fun _ hk => client_modClient_ne f s hk, by simp, rfl⟩

theorem modPath_onSlot (p : Port) (f : Path → Path) (s : State) : OnSlot n s (modPath n p f s) := modClient_onSlot _ s

theorem queuePub_onSlot (s : State) : OnSlot n s (queuePub n s) := ⟨fun _ _ => rfl, rfl, rfl⟩

/-- R84: a change of state works on its slot and on the publication queue. -/
theorem changeState_crs (n : Nat) (st : ClientState) (cause : ClientCause) (s : State) :
    (changeState n st cause s).crs = (queuePub n (modClient n (fun c => { c with state := st }) s)).crs := by
  simp only [changeState]
  (repeat' split) <;> simp [queuePub] <;> rfl

theorem changeState_onSlot (st : ClientState) (cause : ClientCause) (s : State) : OnSlot n s (changeState n st cause s) :=
  ((modClient_onSlot _ s).trans (queuePub_onSlot _)).trans (.of_crs (changeState_crs n st cause s))

theorem evaluate_onSlot (cause : ClientCause) (s : State) : OnSlot n s (evaluate n cause s) := by
  obtain e | ⟨-, -, e⟩ := evaluate_cases n cause s <;> rw [e]
  · exact .refl s
  · exact changeState_onSlot _ cause s

/-- R84: a client none of whose paths is VALID joins no roll-call queue as its state changes. -/
theorem changeState_unannounced {st : ClientState} {cause : ClientCause} (ha : (client s n).paths.a.state ≠ .valid)
    (hb : (client s n).paths.b.state ≠ .valid) : (changeState n st cause s).bcu = s.bcu := by
  simp only [changeState, if_neg ha, if_neg hb]
  split <;> simp

/-! ### Traces of a path (R108, R132) -/

/-- A path changed by nothing. -/
theorem modPath_self {p : Port} {f : Path → Path} (h : ∀ q, f q = q) (s : State) : modPath n p f s = s := by
  have hid : (fun c : Client => { c with paths := modPort p f c.paths }) = id := by
    funext c
    cases p <;> simp [modPort, h]
  simp [modPath, modClient, hid]

/-- A table without the slot is not changed by taking the slot out of it. -/
theorem modRange_filter_self {p : Port} (h : hasEntry s p n = false) :
    modRange p (fun r => { r with table := r.table.filter (·.slot != n) }) s = s := by
  have hnone : (rangePort s p).table.filter (·.slot != n) = (rangePort s p).table := by
    refine List.filter_eq_self.2 fun x hx => ?_
    have := List.any_eq_false.1 h x hx
    simpa using this
  have hport : modPort p (fun r : RangePort => { r with table := r.table.filter (·.slot != n) }) s.rng.ports = s.rng.ports := by
    cases p
    · exact congrArg (fun t => (⟨{ s.rng.ports.a with table := t }, s.rng.ports.b⟩ : Pair RangePort)) hnone
    · exact congrArg (fun t => (⟨s.rng.ports.a, { s.rng.ports.b with table := t }⟩ : Pair RangePort)) hnone
  rw [modRange, hport]

/-- R108: what the voiding of a path's exchange leaves. -/
theorem voidPath_eq (n : Nat) (p : Port) (s : State) : voidPath n p s =
    modPath n p (fun q => { q with lastExpired := if hasEntry s p n then none else q.lastExpired })
      (modRange p (fun r => { r with table := r.table.filter (·.slot != n) }) s) := by
  unfold voidPath
  cases h : hasEntry s p n with
  | true => rfl
  | false =>
    rw [modRange_filter_self h]
    exact (modPath_self (fun _ => rfl) s).symm

theorem voidPath_onSlot (p : Port) (s : State) : OnSlot n s (voidPath n p s) := by
  rw [voidPath_eq]
  have hrange : OnSlot n s (modRange p (fun r => { r with table := r.table.filter (·.slot != n) }) s) := .of_crs rfl
  exact hrange.trans (modPath_onSlot p _ _)

/-- R108: no exchange of the path is left, and the other port's stand. -/
theorem voidPath_table (n : Nat) (p : Port) (s : State) : ∀ x ∈ (rangePort (voidPath n p s) p).table, x.slot ≠ n := by
  rw [voidPath_eq]
  intro x hx
  have hx' : x ∈ (rangePort (modRange p (fun r => { r with table := r.table.filter (·.slot != n) }) s) p).table := hx
  rw [rangePort_modRange] at hx'
  simpa using (List.mem_filter.1 hx').2

theorem voidPath_table_ne {p q : Port} (h : q ≠ p) (n : Nat) (s : State) :
    rangePort (voidPath n p s) q = rangePort s q := by
  rw [voidPath_eq]
  exact rangePort_modRange_ne h _ s

/-- R132: no roll-call entry of the client is left, and the other port's stand. -/
theorem leaveRoll_none (p : Port) (n : Nat) (s : State) : ∀ e ∈ (beaconPort (leaveRoll p n s) p).roll, e.slot ≠ n := by
  intro e he
  rw [leaveRoll_roll] at he
  simpa using (List.mem_filter.1 he).2

theorem leaveRoll_ne {p q : Port} (h : q ≠ p) (n : Nat) (s : State) : beaconPort (leaveRoll p n s) q = beaconPort s q :=
  beaconPort_modBeacon_ne h _ s

/-- R80, R82: both paths' exchanges are voided and the client leaves both roll-call queues. -/
def dropTraces (n : Nat) (s : State) : State := leaveRoll .b n (leaveRoll .a n (voidPath n .b (voidPath n .a s)))

/-- Port `p` holds no exchange and no roll-call entry of slot `n`. -/
def traceless (n : Nat) (s : State) (p : Port) : Prop :=
  (∀ x ∈ (rangePort s p).table, x.slot ≠ n) ∧ (∀ e ∈ (beaconPort s p).roll, e.slot ≠ n)

theorem dropTraces_traceless (n : Nat) (s : State) (p : Port) : traceless n (dropTraces n s) p := by
  have hrng : ∀ u, (leaveRoll .b n (leaveRoll .a n u)).rng = u.rng := fun u => by simp
  have hroll : ∀ u, ∀ e ∈ (beaconPort (leaveRoll .b n (leaveRoll .a n u)) p).roll, e.slot ≠ n := by
    intro u
    cases p
    · rw [leaveRoll_ne (by decide)]
      exact leaveRoll_none .a n u
    · exact leaveRoll_none .b n _
  refine ⟨?_, hroll _⟩
  rw [dropTraces, rangePort, hrng]
  cases p
  · change ∀ x ∈ (rangePort (voidPath n .b (voidPath n .a s)) .a).table, x.slot ≠ n
    rw [voidPath_table_ne (by decide)]
    exact voidPath_table n .a s
  · exact voidPath_table n .b _

theorem dropTraces_onSlot (s : State) : OnSlot n s (dropTraces n s) :=
  ((voidPath_onSlot .a s).trans (voidPath_onSlot .b _)).trans (.of_crs (by simp [dropTraces]))

/-- The client keeps everything but its paths. -/
theorem dropTraces_client (n : Nat) (s : State) : ∃ ps, client (dropTraces n s) n = { client s n with paths := ps } := by
  have hvoid : ∀ p u, ∃ ps, client (voidPath n p u) n = { client u n with paths := ps } := by
    intro p u
    rw [voidPath_eq]
    obtain e | ⟨-, -, e⟩ := client_modClient_cases n n (fun c => { c with
      paths := modPort p (fun q => { q with lastExpired := if hasEntry u p n then none else q.lastExpired }) c.paths })
      (modRange p (fun r => { r with table := r.table.filter (·.slot != n) }) u)
    · exact ⟨(client u n).paths, e⟩
    · exact ⟨_, e⟩
  obtain ⟨pa, ha⟩ := hvoid .a s
  obtain ⟨pb, hb⟩ := hvoid .b (voidPath n .a s)
  have hcrs : client (dropTraces n s) n = client (voidPath n .b (voidPath n .a s)) n := by simp [dropTraces, client]
  exact ⟨pb, by rw [hcrs, hb, ha]⟩

theorem dropTraces_rest (n : Nat) (s : State) :
    (dropTraces n s).tbs = s.tbs ∧ (dropTraces n s).xch = s.xch ∧ (dropTraces n s).mem = s.mem ∧
    (dropTraces n s).crs.queue = s.crs.queue := by
  have hqueue : ∀ p u, (voidPath n p u).crs.queue = u.crs.queue := fun p u => by rw [voidPath_eq]; rfl
  exact ⟨by simp [dropTraces], by simp [dropTraces], by simp [dropTraces], by simp [dropTraces, hqueue]⟩

/-! ### Judging the Range requests anew leaves the rest -/

theorem client_refreshBoth (s : State) (k : Nat) : client (refreshBoth s) k = client s k := rfl

theorem refreshBoth_roster (s : State) : (refreshBoth s).crs = s.crs ∧ (refreshBoth s).bcu = s.bcu ∧ (refreshBoth s).xch = s.xch ∧
    (refreshBoth s).tbs = s.tbs ∧ (refreshBoth s).mem = s.mem := ⟨rfl, rfl, rfl, rfl, rfl⟩

theorem traceless_refreshBoth {p : Port} (h : traceless n s p) : traceless n (refreshBoth s) p := by
  refine ⟨?_, h.2⟩
  rw [(refreshBoth_rest s p).1]
  exact h.1

/-! ### Orders that complete (R181, R182) -/

/-- An order taken on, worked off and completed has the entry of one that is answered. -/
theorem storeEntry_worked {src : OrderSrc} {o : Order} {r : ResultCode} {data : List Byte} {m u : State}
    (hm : m.xch = s.xch) (h : u.xch.store = (takeOrder src.slot.val src.cookie o m).xch.store) :
    storeEntry (complete src.slot.val r data u) src.slot.val = storeEntry (answered src o r data s) src.slot.val := by
  rw [storeEntry_complete, ← complete_take, storeEntry_complete, storeEntry, storeEntry, h, takeOrder, takeOrder, modXch, modXch, hm]

/-! ### RETIRE (R82) -/

theorem reconfigCheck_eq (c : BitVec 16) (s : State) : reconfigCheck c s =
    if 256 ≤ c.toNat then .error .badField
    else if (client s c.toNat).state = .vacant then .error .vacant else .ok c.toNat := by
  unfold reconfigCheck clientSlot
  by_cases h : c.toNat < 256
  · simp [h, Nat.not_le.2 h]
  · simp [h, Nat.le_of_not_lt h]

/-- R82: what RETIRE leaves of the slot, of its traces and of the staging queue. -/
theorem removeClient_spec {n : Nat} {s : State} (hn : n < s.crs.clients.length) :
    let t := removeClient n s
    client t n = { Client.reset with config := (client s n).config, version := (client s n).version } ∧
    OnSlot n s t ∧ n ∈ t.crs.queue ∧ (∀ p, traceless n t p) ∧ t.mem = s.mem ∧
    t.xch = (stage (.clientState n (client s n).config.addr (client s n).state .vacant .retire .none .none
      .idle .idle) s).xch := by
  intro t
  obtain ⟨ps, hclient⟩ := dropTraces_client n s
  obtain ⟨htbs, hxch, hmem, -⟩ := dropTraces_rest n s
  have hlen : n < (dropTraces n s).crs.clients.length := by rw [(dropTraces_onSlot s).length]; exact hn
  have hretired : client (modClient n retiredClient (dropTraces n s)) n = retiredClient (client s n) := by
    rw [client_modClient _ hlen, hclient]; rfl
  obtain ⟨hchanged, hstaged, hqueue, -⟩ := changeState_spec n .vacant .retire (modClient n retiredClient (dropTraces n s))
  have hslot : OnSlot n s (changeState n .vacant .retire (modClient n retiredClient (dropTraces n s))) :=
    ((dropTraces_onSlot s).trans (modClient_onSlot _ _)).trans (changeState_onSlot _ _ _)
  rw [hretired] at hchanged hstaged
  have hquiet : (changeState n .vacant .retire (modClient n retiredClient (dropTraces n s))).bcu = (dropTraces n s).bcu :=
    changeState_unannounced (by rw [hretired]; exact fun h => by cases h) (by rw [hretired]; exact fun h => by cases h)
  have hrng : (changeState n .vacant .retire (modClient n retiredClient (dropTraces n s))).rng = (dropTraces n s).rng := by simp
  have hstands : (changeState n .vacant .retire (modClient n retiredClient (dropTraces n s))).mem = (dropTraces n s).mem := by simp
  have ht : t = refreshBoth (changeState n .vacant .retire (modClient n retiredClient (dropTraces n s))) := rfl
  clear_value t
  subst ht
  generalize changeState n .vacant .retire (modClient n retiredClient (dropTraces n s)) = u at *
  obtain ⟨hcrs, -, hxchU, -, hmemU⟩ := refreshBoth_roster u
  rw [client_refreshBoth, hcrs, hxchU, hmemU]
  refine ⟨hchanged (by simpa using hlen), hslot.trans (.of_crs hcrs), hqueue, fun p => traceless_refreshBoth ?_,
    hstands.trans hmem, hstaged.trans (stage_xch_congr _ hxch htbs)⟩
  have htraces := dropTraces_traceless n s p
  rwa [traceless, rangePort, beaconPort, ← hrng, ← hquiet] at htraces

end

theorem orderRetire_refused {c : BitVec 16} {slot : Nat} {s : State} {r : ResultCode} (h : reconfigCheck c s = .error r) :
    orderRetire c slot s = finish slot r s := by rw [orderRetire, h]

theorem orderRetire_passed {c : BitVec 16} {slot n : Nat} {s : State} (h : reconfigCheck c s = .ok n) :
    orderRetire c slot s = finish slot .ok (removeClient n s) := by rw [orderRetire, h]

/-- Settles O45: the two refusals, and `removeClient_spec` under the taking and completion of the order. -/
theorem retireClearsContext : Obligations.RetireClearsContext := by
  intro s src c hfree hlen n
  have hexec : exec (.retire src c) s = .next (orderRetire c src.slot.val (takeOrder src.slot.val src.cookie (.retire c) s)) :=
    congrArg _ (handOver_run (.retire c) (orderRetire c) hfree)
  have hcheck := reconfigCheck_eq c (takeOrder src.slot.val src.cookie (.retire c) s)
  refine ⟨fun h => ?_, fun h hv => ?_, fun h hv => ?_⟩
  · rw [hexec, orderRetire_refused (hcheck.trans (if_pos h)), finish_take]
  · rw [hexec, orderRetire_refused (hcheck.trans ((if_neg (Nat.not_le.2 h)).trans (if_pos hv))), finish_take]
  · obtain ⟨hclient, hslot, hqueue, htraces, hmem, hxch⟩ :=
      removeClient_spec (n := n) (s := takeOrder src.slot.val src.cookie (.retire c) s) (by rw [← hlen] at h; exact h)
    rw [hexec, orderRetire_passed (hcheck.trans ((if_neg (Nat.not_le.2 h)).trans (if_neg hv)))]
    refine ⟨_, rfl, hmem, storeEntry_worked rfl (by rw [hxch, stage_store]), hclient, hslot.others, hqueue, hslot.newcomers,
      htraces, ?_⟩
    have hstaged : (finish src.slot.val .ok (removeClient n (takeOrder src.slot.val src.cookie (.retire c) s))).xch.staging =
        (removeClient n (takeOrder src.slot.val src.cookie (.retire c) s)).xch.staging := rfl
    rw [hstaged, hxch, stage_takeOrder]
    rfl

/-! ### Fields byte by byte (R190) -/

theorem field_length (bs : List Byte) (off n : Nat) : (field bs off n).length = n :=
  padTo_length (by simp)

/-- The bytes of a field, missing ones reading 0. -/
theorem field_getElem {bs : List Byte} {off n k : Nat} (h : k < (field bs off n).length) :
    (field bs off n)[k] = bs.getD (off + k) 0 := by
  have hk : k < n := by rwa [field_length] at h
  by_cases hin : off + k < bs.length
  · have hlen : k < ((bs.drop off).take n).length := by simp; omega
    simp [field, padTo, List.getElem_append_left hlen, hin]
  · have hlen : ((bs.drop off).take n).length ≤ k := by simp; omega
    simp [field, padTo, zeros, List.getElem_append_right hlen, Nat.le_of_not_lt hin]

/-- A field and its first byte. -/
theorem field_succ (bs : List Byte) (off n : Nat) : field bs off (n + 1) = bs.getD off 0 :: field bs (off + 1) n := by
  refine List.ext_getElem (by simp [field_length]) fun k h1 h2 => ?_
  rw [field_getElem]
  cases k with
  | zero => rfl
  | succ k => rw [List.getElem_cons_succ, field_getElem, Nat.add_right_comm, Nat.add_assoc]

/-- A field and its last byte. -/
theorem field_snoc (bs : List Byte) (off n : Nat) : field bs off (n + 1) = field bs off n ++ [bs.getD (off + n) 0] := by
  refine List.ext_getElem (by simp [field_length]) fun k h1 h2 => ?_
  rw [field_getElem]
  by_cases hk : k < n
  · rw [List.getElem_append_left (by rwa [field_length]), field_getElem]
  · have hlast : k = n := by rw [field_length] at h1; omega
    subst hlast
    rw [List.getElem_append_right (by rw [field_length])]
    simp [field_length]

theorem fieldLe_zero (bs : List Byte) (off : Nat) : fieldLe bs off 0 = 0 := by
  rw [fieldLe, List.eq_nil_of_length_eq_zero (field_length bs off 0)]; rfl

theorem fieldBe_zero (bs : List Byte) (off : Nat) : fieldBe bs off 0 = 0 := by
  rw [fieldBe, List.eq_nil_of_length_eq_zero (field_length bs off 0)]; rfl

theorem fieldLe_succ (bs : List Byte) (off n : Nat) :
    fieldLe bs off (n + 1) = (bs.getD off 0).toNat + 256 * fieldLe bs (off + 1) n := by
  rw [fieldLe, field_succ]; rfl

theorem fieldBe_succ (bs : List Byte) (off n : Nat) :
    fieldBe bs off (n + 1) = 256 * fieldBe bs off n + (bs.getD (off + n) 0).toNat := by
  rw [fieldBe, field_snoc, beVal, List.reverse_append, Nat.add_comm (256 * _)]; rfl

/-- A field of one byte. -/
theorem fieldLe_one (bs : List Byte) (off : Nat) : fieldLe bs off 1 = (byteAt bs off).toNat := by
  rw [fieldLe_succ, fieldLe_zero]; rfl

theorem fieldLe_lt (bs : List Byte) (off n : Nat) : fieldLe bs off n < 256 ^ n := by
  induction n generalizing off with
  | zero => rw [fieldLe_zero]; decide
  | succ n ih =>
    have := ih (off + 1)
    have hb : (bs.getD off 0).toNat < 256 := (bs.getD off 0).isLt
    rw [fieldLe_succ, Nat.pow_succ]; omega

/-- A number read as signed. -/
theorem signed_eq {w v : Nat} (hw : 0 < w) (h : v < 2 ^ w) : signed w v = if v < 2 ^ (w - 1) then (v : Int) else v - 2 ^ w := by
  have hpow : 2 ^ w = 2 * 2 ^ (w - 1) := by
    rw [← Nat.pow_succ']; congr 1; omega
  rw [signed, BitVec.toInt_eq_toNat_cond, BitVec.toNat_ofNat, Nat.mod_eq_of_lt h]
  by_cases hv : v < 2 ^ (w - 1)
  · rw [if_pos hv, if_pos (by omega)]
  · rw [if_neg hv, if_neg (by omega)]; simp

/-! ### The configuration group (ch. 11.5) -/

theorem clampSym_eq (limit x : Int) : clampSym limit x = max (-limit) (min limit x) := rfl

/-- A byte code below a bound, as a byte. -/
theorem byte_eq_iff (b : Byte) (k : Nat) (hk : k < 256) : b = BitVec.ofNat 8 k ↔ b.toNat = k := by
  rw [← BitVec.toNat_inj, BitVec.toNat_ofNat, Nat.mod_eq_of_lt hk]

theorem clientKindOf_eq (b : Byte) : clientKindOf b = if b.toNat ≤ 3 then
    some (if b.toNat = 0 then .relay else if b.toNat = 1 then .meter else if b.toNat = 2 then .mergingUnit else .other)
    else none := by
  revert b
  decide

theorem allowedOf_eq (b : Byte) : allowedOf b = if b.toNat ∈ [1, 2, 3] then
    some (if b.toNat = 1 then .a else if b.toNat = 2 then .b else .both) else none := by
  revert b
  decide

theorem captureOf_eq (b : Byte) : captureOf b = if b.toNat ≤ 4 then
    some (if h : b.toNat < 4 then some ⟨b.toNat, h⟩ else none) else none := by
  revert b
  decide

theorem adjust_snd (lo hi v : Nat) (h : lo ≤ hi) : (adjust lo hi v).2 = decide (v < lo ∨ hi < v) := by
  rw [adjust, clampNat_eq, Bool.eq_iff_iff, bne_iff_ne, decide_eq_true_iff]
  omega

/-- R76: the settings of a path, and whether one was adjusted. -/
theorem parsePathConfig_eq (bs : List Byte) (off : Nat) :
    let asym : Int := if fieldLe bs off 4 < 2 ^ 31 then (fieldLe bs off 4 : Int) else fieldLe bs off 4 - 2 ^ 32
    parsePathConfig bs off = ({
      asymmetry := max (-1600000) (min 1600000 asym)
      gate := if fieldLe bs (off + 4) 2 = 0 then 200 else fieldLe bs (off + 4) 2
      shift := min 7 (fieldLe bs (off + 6) 1) },
      decide (1600000 < asym.natAbs ∨ 7 < fieldLe bs (off + 6) 1)) := by
  intro asym
  have hraw : signed 32 (fieldLe bs off 4) = asym := signed_eq (by decide) (fieldLe_lt bs off 4)
  have hshift : (adjust 0 7 (fieldLe bs (off + 6) 1)).1 = min 7 (fieldLe bs (off + 6) 1) := Nat.zero_max _
  have hadjusted : (clampSym 1600000 asym != asym) = decide (1600000 < asym.natAbs) := by
    rw [clampSym_eq, Bool.eq_iff_iff, bne_iff_ne, decide_eq_true_iff]
    omega
  rw [parsePathConfig, hraw]
  simp only [hshift, adjust_snd 0 7 _ (by decide), hadjusted]
  rw [← Bool.decide_or]
  simp [clampSym_eq]

/-- R76: a configuration group that passes the checks of its enumerated fields. -/
def groupValid (bs : List Byte) : Prop :=
  (BitVec.ofNat 48 (fieldBe bs 0 6) : MacAddr).getLsbD 40 = false ∧ (BitVec.ofNat 48 (fieldBe bs 0 6) : MacAddr) ≠ 0 ∧
  fieldLe bs 6 1 ≤ 3 ∧ fieldLe bs 7 1 ∈ [1, 2, 3] ∧ fieldLe bs 9 1 ≤ 4

theorem parseConfig_invalid {bs : List Byte} (h : ¬ groupValid bs) : parseConfig bs = none := by
  by_cases haddr : isMulticast (BitVec.ofNat 48 (fieldBe bs 0 6)) = true ∨ (BitVec.ofNat 48 (fieldBe bs 0 6) : MacAddr) = 0
  · rw [parseConfig, if_pos (by simpa using haddr)]
  · rw [parseConfig, if_neg (by simpa using haddr), clientKindOf_eq, allowedOf_eq, captureOf_eq, ← fieldLe_one, ← fieldLe_one,
      ← fieldLe_one]
    have hfields : ¬ (fieldLe bs 6 1 ≤ 3 ∧ fieldLe bs 7 1 ∈ [1, 2, 3] ∧ fieldLe bs 9 1 ≤ 4) := fun hf => by
      obtain ⟨hm, hz⟩ := not_or.1 haddr
      exact h ⟨by simpa [isMulticast] using hm, hz, hf⟩
    by_cases hkind : fieldLe bs 6 1 ≤ 3
    · by_cases hallowed : fieldLe bs 7 1 ∈ [1, 2, 3]
      · have hcapture : ¬ fieldLe bs 9 1 ≤ 4 := fun hc => hfields ⟨hkind, hallowed, hc⟩
        rw [if_pos hkind, if_pos hallowed, if_neg hcapture]
      · rw [if_pos hkind, if_neg hallowed]
    · rw [if_neg hkind]

theorem parseConfig_valid {bs : List Byte} (h : groupValid bs) :
    let n := fieldLe bs
    let asym := fun off : Nat => if n off 4 < 2 ^ 31 then (n off 4 : Int) else n off 4 - 2 ^ 32
    let port := fun off : Nat =>
      ({ asymmetry := max (-1600000) (min 1600000 (asym off)), gate := if n (off + 4) 2 = 0 then 200 else n (off + 4) 2
         shift := min 7 (n (off + 6) 1) } : PathConfig)
    parseConfig bs = some (
      { addr := BitVec.ofNat 48 (fieldBe bs 0 6)
        kind := if n 6 1 = 0 then .relay else if n 6 1 = 1 then .meter else if n 6 1 = 2 then .mergingUnit else .other
        allowed := if n 7 1 = 1 then .a else if n 7 1 = 2 then .b else .both
        period := min 7 (n 8 1), offsetTol := max 1 (min 1000000 (n 16 4)), pulseTol := max 1 (min 1000000 (n 20 4))
        capture := if h : n 9 1 < 4 then some ⟨n 9 1, h⟩ else none
        announceThreshold := n 12 2, announceAge := if n 10 1 = 0 then 8 else min 64 (n 10 1)
        path := ⟨port 24, port 32⟩ },
      decide (7 < n 8 1 ∨ 64 < n 10 1 ∨ n 16 4 = 0 ∨ 1000000 < n 16 4 ∨ n 20 4 = 0 ∨ 1000000 < n 20 4 ∨
        1600000 < (asym 24).natAbs ∨ 7 < n 30 1 ∨ 1600000 < (asym 32).natAbs ∨ 7 < n 38 1)) := by
  obtain ⟨hmulti, hzero, hkind, hallowed, hcapture⟩ := h
  have haddr : ¬ ((isMulticast (BitVec.ofNat 48 (fieldBe bs 0 6)) || decide ((BitVec.ofNat 48 (fieldBe bs 0 6) : MacAddr) = 0)) =
      true) := by
    rw [isMulticast, hmulti]
    simpa using hzero
  intro n asym port
  have hfst (hi v : Nat) : (adjust 0 hi v).1 = min hi v := Nat.zero_max _
  have hfst1 (hi v : Nat) : (adjust 1 hi v).1 = max 1 (min hi v) := rfl
  rw [parseConfig, if_neg haddr, clientKindOf_eq, allowedOf_eq, captureOf_eq, ← fieldLe_one, ← fieldLe_one, ← fieldLe_one,
    if_pos hkind, if_pos hallowed, if_pos hcapture]
  simp only [parsePathConfig_eq, hfst, hfst1, adjust_snd 0 7 _ (by decide), adjust_snd 0 64 _ (by decide),
    adjust_snd 1 1000000 _ (by decide), ← Bool.decide_or]
  refine congrArg some (Prod.ext rfl (decide_eq_decide.2 ?_))
  simp only [n, asym, Nat.reduceAdd, Nat.not_lt_zero, false_or]
  omega

/-! ### ADMIT (R78, R79) -/

/-- R78: another slot that holds a client has the address. -/
theorem duplicateAddr_iff (addr : MacAddr) (n : Nat) (s : State) : duplicateAddr addr n s = true ↔
    ∃ k, k ≠ n ∧ (client s k).state ≠ .vacant ∧ (client s k).config.addr = addr := by
  simp only [duplicateAddr, List.any_eq_true, mem_occupied, Bool.and_eq_true, bne_iff_ne, beq_iff_eq]
  exact exists_congr fun k => by tauto

theorem admitCheck_eq (c : BitVec 16) (s : State) : admitCheck c s =
    if 256 ≤ c.toNat then .error .badField
    else if (client s c.toNat).state = .vacant then .ok c.toNat else .error .occupied := by
  unfold admitCheck clientSlot
  by_cases h : c.toNat < 256
  · simp [h, Nat.not_le.2 h]
  · simp [h, Nat.le_of_not_lt h]

theorem orderAdmit_refused {c : BitVec 16} {slot : Nat} {s : State} {r : ResultCode} (h : admitCheck c s = .error r) :
    orderAdmit c slot s = finish slot r s := by rw [orderAdmit, h]

theorem orderAdmit_passed {c : BitVec 16} {slot n : Nat} {s : State} (h : admitCheck c s = .ok n) :
    orderAdmit c slot s = admitRead n (configGroup n s) slot s := by rw [orderAdmit, h]

theorem admitRead_invalid {n slot : Nat} {bytes : List Byte} {s : State} (h : parseConfig bytes = none) :
    admitRead n bytes slot s = finish slot .badField s := by rw [admitRead, h]

theorem admitRead_duplicate {n slot : Nat} {bytes : List Byte} {s : State} {cfg : ClientConfig} {adj : Bool}
    (h : parseConfig bytes = some (cfg, adj)) (hd : duplicateAddr cfg.addr n s = true) :
    admitRead n bytes slot s = finish slot .duplicate s := by
  rw [admitRead, h]
  exact if_pos hd

theorem admitRead_passed {n slot : Nat} {bytes : List Byte} {s : State} {cfg : ClientConfig} {adj : Bool}
    (h : parseConfig bytes = some (cfg, adj)) (hd : ¬ duplicateAddr cfg.addr n s = true) :
    admitRead n bytes slot s = finish slot (okOr adj) (makeClient n cfg s) := by
  rw [admitRead, h]
  exact if_neg hd

/-- R79: a path as ADMIT leaves it, by the port allowed. -/
theorem freshPaths_eq (al : Allowed) : freshPaths al =
    ⟨if al = .b then Path.idle else Path.seeding, if al = .a then Path.idle else Path.seeding⟩ := by
  cases al <;> rfl

/-- R83: a client just made is ADMITTED. -/
theorem derivedState_admitted (cfg : ClientConfig) (old : Client) : derivedState (admittedClient cfg old) = .admitted := by
  unfold derivedState allowedPaths admittedClient
  cases cfg.allowed <;> rfl

/-- R79: what ADMIT leaves. -/
theorem makeClient_spec {n : Nat} {s : State} (cfg : ClientConfig) (hn : n < s.crs.clients.length) :
    let t := makeClient n cfg s
    let ps := freshPaths cfg.allowed
    client t n = { Client.reset with config := cfg, state := .admitted, version := (client s n).version, paths := ps } ∧
    (∀ k, k ≠ n → client t k = client s k) ∧ n ∈ t.crs.queue ∧
    t.crs.newcomers = s.crs.newcomers.filter (fun e => e.addr != cfg.addr) ∧ t.mem = s.mem ∧
    t.xch = (stage (.clientState n cfg.addr .vacant .admitted .admitted .none .none ps.a.state ps.b.state) s).xch ∧
    ∀ p, (link t p).rangeReq = true ↔ launchHolds t p := by
  intro t ps
  have hmade : client (dropNewcomer cfg.addr (modClient n (admittedClient cfg) s)) n = admittedClient cfg (client s n) :=
    client_modClient _ hn
  have hlen : n < (dropNewcomer cfg.addr (modClient n (admittedClient cfg) s)).crs.clients.length := by
    simpa [dropNewcomer] using hn
  have hslot := changeState_onSlot (n := n) .admitted .admitted (dropNewcomer cfg.addr (modClient n (admittedClient cfg) s))
  obtain ⟨hchanged, hstaged, hqueue, -⟩ := changeState_spec n .admitted .admitted
    (dropNewcomer cfg.addr (modClient n (admittedClient cfg) s))
  have hfresh := hchanged hlen
  rw [hmade] at hfresh hstaged
  have hmem : (changeState n .admitted .admitted (dropNewcomer cfg.addr (modClient n (admittedClient cfg) s))).mem = s.mem := by
    simp [dropNewcomer]
  have ht : t = refreshBoth (changeState n .admitted .admitted (dropNewcomer cfg.addr (modClient n (admittedClient cfg) s))) := by
    have hstate : derivedState (client (dropNewcomer cfg.addr (modClient n (admittedClient cfg) s)) n) = .admitted := by
      rw [hmade, derivedState_admitted]
    have hsettle : settleState n .admitted .admitted (dropNewcomer cfg.addr (modClient n (admittedClient cfg) s)) =
        changeState n .admitted .admitted (dropNewcomer cfg.addr (modClient n (admittedClient cfg) s)) :=
      if_neg (by rw [hmade]; exact fun h => by cases h)
    simp only [t, makeClient, hstate, hsettle]
  have hothers : ∀ k, k ≠ n → client (dropNewcomer cfg.addr (modClient n (admittedClient cfg) s)) k = client s k :=
    fun k hk => client_modClient_ne _ s hk
  clear_value t
  subst ht
  generalize changeState n .admitted .admitted (dropNewcomer cfg.addr (modClient n (admittedClient cfg) s)) = u at *
  obtain ⟨hcrs, -, hxch, -, hmemU⟩ := refreshBoth_roster u
  rw [client_refreshBoth, hcrs, hmemU, hxch]
  exact ⟨hfresh, fun k hk => (client_refreshBoth u k).trans ((hslot.others k hk).trans (hothers k hk)), hqueue, hslot.newcomers,
    hmem, hstaged.trans (stage_xch_congr _ rfl rfl), fun p => (refreshBoth_fresh u p).req⟩

/-- Settles O43: the configuration group by its checks, then ADMIT's checks in their order and `makeClient_spec`. -/
theorem admitMakesClient : Obligations.AdmitMakesClient := by
  refine ⟨fun bs => ⟨parseConfig_invalid, parseConfig_valid⟩, fun s src c host hfree hlen => ?_⟩
  intro m n refused
  have hexec : exec (.admitClient src c host) s =
      .next (orderAdmit c src.slot.val (takeOrder src.slot.val src.cookie (.admitClient c) m)) :=
    congrArg _ (handOver_run (s := m) (.admitClient c) (orderAdmit c) hfree)
  have hrefused (r : ResultCode) (h : orderAdmit c src.slot.val (takeOrder src.slot.val src.cookie (.admitClient c) m) =
      finish src.slot.val r (takeOrder src.slot.val src.cookie (.admitClient c) m)) : refused r :=
    hexec.trans (congrArg Host.Outcome.next (h.trans (finish_take src _ r m)))
  have hcheck := admitCheck_eq c (takeOrder src.slot.val src.cookie (.admitClient c) m)
  have hpassed (h : n < 256) (hv : (client s n).state = .vacant) :
      orderAdmit c src.slot.val (takeOrder src.slot.val src.cookie (.admitClient c) m) =
        admitRead n (configGroup n m) src.slot.val (takeOrder src.slot.val src.cookie (.admitClient c) m) :=
    orderAdmit_passed (hcheck.trans ((if_neg (Nat.not_le.2 h)).trans (if_pos hv)))
  have hdup (a : MacAddr) : duplicateAddr a n (takeOrder src.slot.val src.cookie (.admitClient c) m) = true ↔
      ∃ k, k ≠ n ∧ (client s k).state ≠ .vacant ∧ (client s k).config.addr = a := duplicateAddr_iff a n _
  refine ⟨fun h => ?_, fun h hv => ?_, fun h hv hnone => ?_, fun cfg adj h hv hsome => ⟨fun hd => ?_, fun hd => ?_⟩⟩
  · exact hrefused _ (orderAdmit_refused (hcheck.trans (if_pos h)))
  · exact hrefused _ (orderAdmit_refused (hcheck.trans ((if_neg (Nat.not_le.2 h)).trans (if_neg hv))))
  · exact hrefused _ ((hpassed h hv).trans (admitRead_invalid hnone))
  · exact hrefused _ ((hpassed h hv).trans (admitRead_duplicate hsome ((hdup _).2 hd)))
  · obtain ⟨hclient, hothers, hqueue, hnew, hmem, hxch, hreq⟩ :=
      makeClient_spec (n := n) (s := takeOrder src.slot.val src.cookie (.admitClient c) m) cfg (by rw [← hlen] at h; exact h)
    rw [hexec, hpassed h hv, admitRead_passed hsome (fun hc => by
      obtain ⟨k, hk, hkv, hka⟩ := (hdup _).1 hc
      exact hd k hk hkv hka)]
    refine ⟨_, rfl, hmem, ?_, ⟨?_, ?_⟩, hothers, hqueue, hnew, hreq⟩
    · exact storeEntry_worked (s := s) (m := m) rfl (by rw [hxch, stage_store])
    · rw [freshPaths_eq] at hclient
      exact hclient
    · have hstaged : (finish src.slot.val (okOr adj) (makeClient n cfg
          (takeOrder src.slot.val src.cookie (.admitClient c) m))).xch.staging =
          (makeClient n cfg (takeOrder src.slot.val src.cookie (.admitClient c) m)).xch.staging := rfl
      rw [hstaged, hxch, stage_takeOrder, freshPaths_eq]
      change (stage _ m).xch.staging = (stage _ s).xch.staging
      exact congrArg Controller.staging (stage_xch_congr _ rfl rfl)

/-! ### What an evaluation leaves (R83, R84) -/

section
variable {n : Nat} {s t : State}

theorem evaluate_client (n : Nat) (cause : ClientCause) (s : State) :
    ∃ st, client (evaluate n cause s) n = { client s n with state := st } := by
  obtain e | ⟨hv, -, e⟩ := evaluate_cases n cause s <;> rw [e]
  · exact ⟨(client s n).state, rfl⟩
  · exact ⟨_, (changeState_spec n _ cause s).1 (lt_of_occupied hv)⟩

/-- R84: a port on which the path is not VALID has its roll-call queue left. -/
theorem evaluate_unannounced {p : Port} {cause : ClientCause} (h : (path s n p).state ≠ .valid) :
    beaconPort (evaluate n cause s) p = beaconPort s p := by
  obtain e | ⟨-, -, e⟩ := evaluate_cases n cause s <;> rw [e]
  simp only [changeState]
  cases p with
  | a =>
    have ha : (client s n).paths.a.state ≠ .valid := h
    rw [if_neg ha]
    (repeat' split) <;> simp [beaconPort, joinRoll, modBeacon, atPort]
  | b =>
    have hb : (client s n).paths.b.state ≠ .valid := h
    rw [if_neg hb]
    (repeat' split) <;> simp [beaconPort, joinRoll, modBeacon, atPort]

/-- R83, R84: an evaluation made in `u`, where the state and the staging queue of `s` stand, is one made since `s`, and it
shows in what leaves the client, the staging queue and the roll-call queues. -/
theorem stateFollows_between {u v : State} {cause : ClientCause} (h : stateFollows n cause u v)
    (hstate : (client u n).state = (client s n).state) (hstaging : u.xch.staging = s.xch.staging)
    (hclient : client t n = client v n) (hafter : t.xch.staging = v.xch.staging) (hqueue : ∀ k ∈ v.crs.queue, k ∈ t.crs.queue)
    (hroll : t.bcu = v.bcu) : stateFollows n cause s t := by
  obtain ⟨htable, hrecord⟩ := h
  rw [hstate] at hrecord
  refine ⟨by rw [hclient]; exact htable, ?_⟩
  rw [hclient]
  intro hne
  obtain ⟨hhanded, hq, hjoin⟩ := hrecord hne
  refine ⟨?_, hqueue _ hq, fun hf port hv => ?_⟩
  · rw [handedOn, hafter, ← hstaging]; exact hhanded
  · rw [beaconPort, hroll]; exact hjoin hf port hv

end

/-! ### RECONFIG (R80, R81) -/

section
variable {n : Nat} {s t : State} {p : Port} {old new : ClientConfig}

/-- R81: whether a setting of the port's path changed. -/
def pathChanged (p : Port) (old new : ClientConfig) : Bool := atPort old.path p != atPort new.path p

/-- R81: what RECONFIG with the address unchanged leaves of port `p` from `s` to `t`. -/
structure PathReconfigured (n : Nat) (p : Port) (old new : ClientConfig) (s t : State) : Prop where
  stands : (path s n p).state = .idle ∨ allows new.allowed p = true →
    path t n p = reconfigured (allows new.allowed p) (pathChanged p old new) (path s n p)
  removed : (path s n p).state ≠ .idle → allows new.allowed p = false →
    ∃ e, path t n p = { reconfigured false (pathChanged p old new) (path s n p) with lastExpired := e }
  voided : (path s n p).state ≠ .idle → allows new.allowed p = false → traceless n t p
  joined : allows new.allowed p = true → pathChanged p old new = true → (path s n p).state = .valid → inRoll t p n

/-- What the work on one port's path leaves: everything but that path and that port's exchanges and roll-call queue. -/
structure OnPath (n : Nat) (p : Port) (s t : State) : Prop where
  slot : OnSlot n s t
  client : ∃ q, client t n = { client s n with paths := modPort p (fun _ => q) (client s n).paths }
  range : ∀ q, q ≠ p → rangePort t q = rangePort s q
  beacon : ∀ q, q ≠ p → beaconPort t q = beaconPort s q
  rest : t.tbs = s.tbs ∧ t.xch = s.xch ∧ t.mem = s.mem ∧ t.crs.queue = s.crs.queue

theorem modPath_onPath (hn : n < s.crs.clients.length) (f : Path → Path) : OnPath n p s (modPath n p f s) where
  slot := modPath_onSlot p f s
  client := ⟨f (path s n p), by
    rw [modPath, client_modClient _ hn]
    cases p <;> rfl⟩
  range := fun _ _ => rfl
  beacon := fun _ _ => rfl
  rest := ⟨rfl, rfl, rfl, rfl⟩

theorem OnPath.trans {u : State} (h : OnPath n p s t) (k : OnPath n p t u) : OnPath n p s u where
  slot := h.slot.trans k.slot
  client := by
    obtain ⟨q, hq⟩ := h.client
    obtain ⟨r, hr⟩ := k.client
    refine ⟨r, ?_⟩
    rw [hr, hq]
    cases p <;> rfl
  range := fun q hq => (k.range q hq).trans (h.range q hq)
  beacon := fun q hq => (k.beacon q hq).trans (h.beacon q hq)
  rest := ⟨k.rest.1.trans h.rest.1, k.rest.2.1.trans h.rest.2.1, k.rest.2.2.1.trans h.rest.2.2.1,
    k.rest.2.2.2.trans h.rest.2.2.2⟩

/-- The path of another port is left. -/
theorem OnPath.path_ne {q : Port} (h : OnPath n p s t) (hq : q ≠ p) : path t n q = path s n q := by
  obtain ⟨r, hr⟩ := h.client
  rw [path, hr]
  exact atPort_modPort_ne hq _ _

theorem onPath_of_ports (hcrs : t.crs = s.crs) (hrange : ∀ q, q ≠ p → rangePort t q = rangePort s q)
    (hbeacon : ∀ q, q ≠ p → beaconPort t q = beaconPort s q) (hrest : t.tbs = s.tbs ∧ t.xch = s.xch ∧ t.mem = s.mem) :
    OnPath n p s t where
  slot := .of_crs hcrs
  client := ⟨path s n p, by rw [client, hcrs]; cases p <;> rfl⟩
  range := hrange
  beacon := hbeacon
  rest := ⟨hrest.1, hrest.2.1, hrest.2.2, by rw [hcrs]⟩

theorem voidPath_onPath (hn : n < s.crs.clients.length) : OnPath n p s (voidPath n p s) := by
  rw [voidPath_eq]
  have hrange : OnPath n p s (modRange p (fun r => { r with table := r.table.filter (·.slot != n) }) s) :=
    onPath_of_ports rfl (fun q hq => rangePort_modRange_ne hq _ s) (fun _ _ => rfl) ⟨rfl, rfl, rfl⟩
  exact hrange.trans (modPath_onPath (by exact hn) _)

theorem leaveRoll_onPath : OnPath n p s (leaveRoll p n s) :=
  onPath_of_ports rfl (fun _ _ => rfl) (fun _ hq => leaveRoll_ne hq n s) ⟨rfl, rfl, rfl⟩

theorem joinRoll_onPath : OnPath n p s (joinRoll p n s) :=
  onPath_of_ports rfl (fun _ _ => rfl) (fun _ hq => joinRoll_other hq n s) ⟨rfl, rfl, rfl⟩

/-- R81: one port's path. -/
theorem reconfigPath_spec (hn : n < s.crs.clients.length) :
    OnPath n p s (reconfigPath n p old new s) ∧ PathReconfigured n p old new s (reconfigPath n p old new s) := by
  have hmod : OnPath n p s (modPath n p (reconfigured (allows new.allowed p) (pathChanged p old new)) s) := modPath_onPath hn _
  have hpath : path (modPath n p (reconfigured (allows new.allowed p) (pathChanged p old new)) s) n p =
      reconfigured (allows new.allowed p) (pathChanged p old new) (path s n p) := path_modPath p _ hn
  have hlen : n < (modPath n p (reconfigured (allows new.allowed p) (pathChanged p old new)) s).crs.clients.length := by
    rw [hmod.slot.length]; exact hn
  have heq : reconfigPath n p old new s =
      if (path s n p).state = .idle then modPath n p (reconfigured (allows new.allowed p) (pathChanged p old new)) s
      else if !allows new.allowed p then
        leaveRoll p n (voidPath n p (modPath n p (reconfigured (allows new.allowed p) (pathChanged p old new)) s))
      else if pathChanged p old new && (path s n p).state == .valid then
        joinRoll p n (modPath n p (reconfigured (allows new.allowed p) (pathChanged p old new)) s)
      else modPath n p (reconfigured (allows new.allowed p) (pathChanged p old new)) s := rfl
  rw [heq]
  by_cases hidle : (path s n p).state = .idle
  · rw [if_pos hidle]
    exact ⟨hmod, fun _ => hpath, fun h => absurd hidle h, fun h => absurd hidle h, fun _ _ h => by rw [hidle] at h; cases h⟩
  rw [if_neg hidle]
  by_cases hal : allows new.allowed p = true
  · have hno : ¬ allows new.allowed p = false := by rw [hal]; decide
    rw [if_neg (by rw [hal]; decide)]
    by_cases hjoin : (pathChanged p old new && (path s n p).state == .valid) = true
    · rw [if_pos hjoin]
      exact ⟨hmod.trans joinRoll_onPath, fun _ => hpath, fun _ h => absurd h hno, fun _ h => absurd h hno,
        fun _ _ _ => joinRoll_mem p n _⟩
    · rw [if_neg hjoin]
      exact ⟨hmod, fun _ => hpath, fun _ h => absurd h hno, fun _ h => absurd h hno,
        fun _ hc hv => absurd (by simp [hc, hv]) hjoin⟩
  · have hno : allows new.allowed p = false := by simpa using hal
    rw [if_pos (by rw [hno]; rfl)]
    have hvoid := voidPath_onPath (p := p) hlen
    refine ⟨(hmod.trans hvoid).trans leaveRoll_onPath, fun h => absurd h (by simp [hidle, hal]), fun _ _ => ?_, fun _ _ => ⟨?_, ?_⟩,
      fun h => absurd h hal⟩
    · rw [hno] at hpath hlen ⊢
      generalize hu : modPath n p (reconfigured false (pathChanged p old new)) s = u at *
      refine ⟨if hasEntry u p n then none else (path u n p).lastExpired, ?_⟩
      have hleft : path (leaveRoll p n (voidPath n p u)) n p = path (voidPath n p u) n p := rfl
      rw [hleft, voidPath_eq]
      refine (path_modPath (s := modRange p _ u) p _ (by exact hlen)).trans ?_
      exact congrArg (fun q : Path => { q with lastExpired := if hasEntry u p n then none else (path u n p).lastExpired }) hpath
    · exact voidPath_table n p _
    · exact leaveRoll_none p n _

/-- R81: one port's path stays as it is through what leaves that port. -/
theorem PathReconfigured.after {u : State} (h : PathReconfigured n p old new s t) (hpath : path u n p = path t n p)
    (htrace : traceless n t p → traceless n u p) (hroll : inRoll t p n → inRoll u p n) : PathReconfigured n p old new s u where
  stands := fun hc => hpath.trans (h.stands hc)
  removed := fun hc ha => by rw [hpath]; exact h.removed hc ha
  voided := fun hc ha => htrace (h.voided hc ha)
  joined := fun ha hc hv => hroll (h.joined ha hc hv)

/-- R81: both ports' paths. -/
theorem reconfigPaths_spec (hn : n < s.crs.clients.length) :
    let t := reconfigPath n .b old new (reconfigPath n .a old new s)
    (∀ p, PathReconfigured n p old new s t) ∧ OnSlot n s t ∧ (∃ ps, client t n = { client s n with paths := ps }) ∧
    t.tbs = s.tbs ∧ t.xch = s.xch ∧ t.mem = s.mem ∧ t.crs.queue = s.crs.queue := by
  intro t
  obtain ⟨hona, ha⟩ := reconfigPath_spec (p := .a) (old := old) (new := new) hn
  obtain ⟨honb, hb⟩ := reconfigPath_spec (p := .b) (old := old) (new := new) (s := reconfigPath n .a old new s)
    (by rw [hona.slot.length]; exact hn)
  refine ⟨fun p => ?_, hona.slot.trans honb.slot, ?_, honb.rest.1.trans hona.rest.1, honb.rest.2.1.trans hona.rest.2.1,
    honb.rest.2.2.1.trans hona.rest.2.2.1, honb.rest.2.2.2.trans hona.rest.2.2.2⟩
  · cases p with
    | a =>
      refine ha.after (honb.path_ne (by decide)) (fun h => ?_) fun h => ?_
      · rw [traceless, honb.range _ (by decide), honb.beacon _ (by decide)]; exact h
      · rw [inRoll, honb.beacon _ (by decide)]; exact h
    | b =>
      have hq : path (reconfigPath n .a old new s) n .b = path s n .b := hona.path_ne (by decide)
      exact ⟨fun h => by rw [← hq] at h ⊢; exact hb.stands h, fun h => by rw [← hq] at h ⊢; exact hb.removed h,
        fun h => by rw [← hq] at h; exact hb.voided h, fun h hc hv => by rw [← hq] at hv; exact hb.joined h hc hv⟩
  · obtain ⟨qa, hqa⟩ := hona.client
    obtain ⟨qb, hqb⟩ := honb.client
    exact ⟨_, by rw [hqb, hqa]⟩

end

section
variable {n : Nat} {s t : State} {p : Port} {new : ClientConfig}

/-- R80: what a changed capture association leaves. -/
def dropPulse (n : Nat) (old new : ClientConfig) (s : State) : State :=
  if old.capture != new.capture then modClient n (fun c => { c with pulseV := Judged.reset, pulseError := none }) s else s

theorem dropPulse_client {old : ClientConfig} (hn : n < s.crs.clients.length) : client (dropPulse n old new s) n =
    { client s n with
      pulseV := if new.capture = old.capture then (client s n).pulseV else Judged.reset
      pulseError := if new.capture = old.capture then (client s n).pulseError else none } := by
  by_cases h : new.capture = old.capture
  · rw [dropPulse, if_neg (by simp [h]), if_pos h, if_pos h]
  · rw [dropPulse, if_pos (by simpa using Ne.symm h), client_modClient _ hn, if_neg h, if_neg h]

/-- Between `s` and `t` nothing but one slot's context, its exchanges and its roll-call entries changed. -/
structure OnlyClient (n : Nat) (s t : State) : Prop where
  others : ∀ k, k ≠ n → client t k = client s k
  length : t.crs.clients.length = s.crs.clients.length
  rest : t.tbs = s.tbs ∧ t.xch = s.xch ∧ t.mem = s.mem

theorem OnlyClient.trans {u : State} (h : OnlyClient n s t) (k : OnlyClient n t u) : OnlyClient n s u :=
  ⟨fun m hm => (k.others m hm).trans (h.others m hm), k.length.trans h.length, k.rest.1.trans h.rest.1,
    k.rest.2.1.trans h.rest.2.1, k.rest.2.2.trans h.rest.2.2⟩

theorem modClient_only (f : Client → Client) (s : State) : OnlyClient n s (modClient n f s) :=
  ⟨(modClient_onSlot f s).others, (modClient_onSlot f s).length, rfl, rfl, rfl⟩

theorem dropPulse_only (old new : ClientConfig) (s : State) : OnlyClient n s (dropPulse n old new s) := by
  unfold dropPulse
  split
  · exact modClient_only _ s
  · exact ⟨fun _ _ => rfl, rfl, rfl, rfl, rfl⟩

theorem dropPulse_ports (old new : ClientConfig) (s : State) :
    (dropPulse n old new s).rng = s.rng ∧ (dropPulse n old new s).bcu = s.bcu ∧
    (dropPulse n old new s).crs.newcomers = s.crs.newcomers := by
  unfold dropPulse
  split <;> exact ⟨rfl, rfl, rfl⟩

/-- R80: the configuration copy installed, before the evaluation of the state. -/
def installed (n : Nat) (new : ClientConfig) (s : State) : State :=
  let old := (client s n).config
  let s1 := modClient n (fun c => { c with config := new }) s
  dropPulse n old new (if old.addr != new.addr then readdress n new s1
    else reconfigPath n .b old new (reconfigPath n .a old new s1))

theorem installConfig_eq (n : Nat) (new : ClientConfig) (s : State) :
    installConfig n new s = refreshBoth (queuePub n (evaluate n .reconfig (installed n new s))) := rfl

/-- R80: RECONFIG to another address. -/
theorem installed_readdressed (hn : n < s.crs.clients.length) (ha : new.addr ≠ (client s n).config.addr) :
    let t := installed n new s
    OnlyClient n s t ∧ client t n = { client s n with
      config := new, paths := freshPaths new.allowed, offsetV := Judged.reset, pulseV := Judged.reset, offset := none
      pulseError := none, selfStatus := none, lastHail := none } ∧ (∀ p, traceless n t p) ∧
    t.crs.newcomers = s.crs.newcomers.filter (fun e => e.addr != new.addr) := by
  intro t
  let u := modClient n (fun c => { c with config := new }) s
  let v := dropTraces n u
  let cleared := fun c : Client => { c with
    paths := freshPaths new.allowed, offsetV := Judged.reset, pulseV := Judged.reset, offset := none
    pulseError := none, selfStatus := none, lastHail := none }
  have ht : t = dropPulse n (client s n).config new (dropNewcomer new.addr (modClient n cleared v)) :=
    congrArg (dropPulse n (client s n).config new) (if_pos (by simpa using Ne.symm ha))
  obtain ⟨ps, hps⟩ := dropTraces_client n u
  obtain ⟨htbs, hxch, hmem, -⟩ := dropTraces_rest n u
  have hv : OnlyClient n s v :=
    (modClient_only _ s).trans ⟨(dropTraces_onSlot u).others, (dropTraces_onSlot u).length, htbs, hxch, hmem⟩
  have hw : OnlyClient n s (dropNewcomer new.addr (modClient n cleared v)) :=
    hv.trans ((modClient_only cleared v).trans ⟨fun _ _ => rfl, rfl, rfl, rfl, rfl⟩)
  have hclient : client (dropNewcomer new.addr (modClient n cleared v)) n = cleared { client s n with config := new } := by
    have h1 : client (dropNewcomer new.addr (modClient n cleared v)) n = cleared (client v n) :=
      client_modClient _ (by rw [hv.length]; exact hn)
    rw [h1, hps, client_modClient _ hn]
  obtain ⟨hrng, hbcu, hnew⟩ := dropPulse_ports (n := n) (client s n).config new (dropNewcomer new.addr (modClient n cleared v))
  rw [ht]
  refine ⟨hw.trans (dropPulse_only _ _ _), ?_, fun p => ?_, ?_⟩
  · rw [dropPulse_client (by rw [hw.length]; exact hn), hclient]
    simp [cleared]
  · rw [traceless, rangePort, beaconPort, hrng, hbcu]
    exact dropTraces_traceless n u p
  · have hkept : v.crs.newcomers = s.crs.newcomers := (dropTraces_onSlot u).newcomers
    rw [hnew, ← hkept]
    rfl

/-- R81: RECONFIG with the address unchanged. -/
theorem installed_same (hn : n < s.crs.clients.length) (ha : new.addr = (client s n).config.addr) :
    let t := installed n new s
    OnlyClient n s t ∧ (∃ ps, client t n = { client s n with
      config := new, paths := ps
      pulseV := if new.capture = (client s n).config.capture then (client s n).pulseV else Judged.reset
      pulseError := if new.capture = (client s n).config.capture then (client s n).pulseError else none }) ∧
    (∀ p, PathReconfigured n p (client s n).config new s t) ∧ t.crs.newcomers = s.crs.newcomers := by
  intro t
  let u := modClient n (fun c => { c with config := new }) s
  have hlen : n < u.crs.clients.length := by simpa [u] using hn
  have hu : client u n = { client s n with config := new } := client_modClient _ hn
  obtain ⟨hpaths, hslot, ⟨ps, hps⟩, htbs, hxch, hmem, -⟩ :=
    reconfigPaths_spec (old := (client s n).config) (new := new) (s := u) hlen
  generalize hv : reconfigPath n .b (client s n).config new (reconfigPath n .a (client s n).config new u) = v at *
  have ht : t = dropPulse n (client s n).config new v :=
    congrArg (dropPulse n (client s n).config new) ((if_neg (by simp [ha])).trans hv)
  have hvOnly : OnlyClient n s v := (modClient_only _ s).trans ⟨hslot.others, hslot.length, htbs, hxch, hmem⟩
  have hvlen : n < v.crs.clients.length := by rw [hslot.length]; exact hlen
  obtain ⟨hrng, hbcu, hnew⟩ := dropPulse_ports (n := n) (client s n).config new v
  have hclient := dropPulse_client (old := (client s n).config) (new := new) hvlen
  rw [ht]
  refine ⟨hvOnly.trans (dropPulse_only _ _ _), ⟨ps, ?_⟩, fun p => ?_, ?_⟩
  · rw [hclient, hps, hu]
  · have hq : path u n p = path s n p := by rw [path, hu]; rfl
    have hleft : PathReconfigured n p (client s n).config new u (dropPulse n (client s n).config new v) :=
      (hpaths p).after (by rw [path, hclient]; rfl) (fun h => by rw [traceless, rangePort, beaconPort, hrng, hbcu]; exact h)
        (fun h => by rw [inRoll, beaconPort, hbcu]; exact h)
    exact ⟨fun h => by rw [← hq] at h ⊢; exact hleft.stands h, fun h => by rw [← hq] at h ⊢; exact hleft.removed h,
      fun h => by rw [← hq] at h; exact hleft.voided h, fun h hc hv => by rw [← hq] at hv; exact hleft.joined h hc hv⟩
  · exact hnew.trans hslot.newcomers

end

section
variable {n : Nat} {s t : State} {p : Port} {new : ClientConfig}

/-- R80, R83, R84: what the evaluation after an installed configuration leaves. -/
structure Settled (n : Nat) (i t : State) : Prop where
  client : ∃ st, client t n = { client i n with state := st }
  others : ∀ k, k ≠ n → Machine.client t k = Machine.client i k
  queued : n ∈ t.crs.queue
  newcomers : t.crs.newcomers = i.crs.newcomers
  rest : t.mem = i.mem ∧ t.xch.store = i.xch.store
  table : ∀ p, (rangePort t p).table = (rangePort i p).table
  unannounced : ∀ p, (path i n p).state ≠ .valid → (beaconPort t p).roll = (beaconPort i p).roll
  roll : ∀ p, inRoll i p n → inRoll t p n

theorem evaluate_settled (n : Nat) (cause : ClientCause) (i : State) : Settled n i (refreshBoth (queuePub n (evaluate n cause i))) := by
  have hslot := evaluate_onSlot (n := n) cause i
  have hhands := evaluate_hands (n := n) (cause := cause) (Hands.refl i)
  have hmem : (evaluate n cause i).mem = i.mem := by simp
  have hrng : (evaluate n cause i).rng = i.rng := by simp
  have hclient := evaluate_client n cause i
  have hquiet := fun p (hp : (path i n p).state ≠ .valid) => evaluate_unannounced (cause := cause) hp
  generalize evaluate n cause i = v at *
  have hstore : v.xch.store = i.xch.store := by rw [hhands.staged.2]
  exact {
    client := hclient
    others := hslot.others
    queued := mem_queuePub n v
    newcomers := hslot.newcomers
    rest := ⟨hmem, hstore⟩
    table := fun p => by
      rw [(refreshBoth_rest _ p).1]
      exact congrArg (fun r : Ranging => (atPort r.ports p).table) hrng
    unannounced := fun p hp => congrArg BeaconPort.roll (hquiet p hp)
    roll := fun p h => hhands.roll p n h }

theorem evaluate_settled_follows {cause : ClientCause} {i : State} (hstate : (client i n).state = (client s n).state)
    (hv : (client s n).state ≠ .vacant) (hx : i.xch = s.xch) :
    stateFollows n cause s (refreshBoth (queuePub n (evaluate n cause i))) := by
  have hfollows := evaluate_follows n cause i (by rw [hstate]; exact hv)
  generalize evaluate n cause i = v at *
  exact stateFollows_between hfollows hstate (by rw [hx]) rfl rfl (fun k hk => mem_queuePub_of_mem n hk) rfl

theorem orderReconfig_refused {c : BitVec 16} {slot : Nat} {r : ResultCode} (h : reconfigCheck c s = .error r) :
    orderReconfig c slot s = finish slot r s := by rw [orderReconfig, h]

theorem orderReconfig_passed {c : BitVec 16} {slot : Nat} (h : reconfigCheck c s = .ok n) :
    orderReconfig c slot s = reconfigRead n (configGroup n s) slot s := by rw [orderReconfig, h]

theorem reconfigRead_invalid {slot : Nat} {bytes : List Byte} (h : parseConfig bytes = none) :
    reconfigRead n bytes slot s = finish slot .badField s := by rw [reconfigRead, h]

theorem reconfigRead_duplicate {slot : Nat} {bytes : List Byte} {adj : Bool}
    (h : parseConfig bytes = some (new, adj)) (hd : duplicateAddr new.addr n s = true) :
    reconfigRead n bytes slot s = finish slot .duplicate s := by
  rw [reconfigRead, h]
  exact if_pos hd

theorem reconfigRead_passed {slot : Nat} {bytes : List Byte} {adj : Bool}
    (h : parseConfig bytes = some (new, adj)) (hd : ¬ duplicateAddr new.addr n s = true) :
    reconfigRead n bytes slot s = finish slot (okOr adj) (installConfig n new s) := by
  rw [reconfigRead, h]
  exact if_neg hd

/-- R81: the path that RECONFIG leaves on an allowed port. -/
theorem reconfigured_allowed (changed : Bool) (q : Path) : reconfigured true changed q = match q.state with
    | .idle => Path.seeding
    | .lost => if changed then { q with delay := none, seeds := 0 } else q
    | .seeding | .valid => if changed then { q with state := .seeding, delay := none, seeds := 0, outlierRun := 0 } else q := by
  unfold reconfigured
  cases q.state <;> rfl

/-- R81: the path of a port that is not allowed any more. -/
theorem reconfigured_removed {changed : Bool} {q : Path} (h : q.state ≠ .idle) : reconfigured false changed q =
    { q with state := .idle, debt := 0, delay := none, seeds := 0, outlierRun := 0, urgent := false
             announcedDelay := none, announcedAt := none } := by
  unfold reconfigured
  cases hs : q.state with
  | idle => exact absurd hs h
  | _ => rfl

theorem pathChanged_iff (p : Port) (old new : ClientConfig) :
    pathChanged p old new = true ↔ ¬ atPort new.path p = atPort old.path p := by
  rw [pathChanged, bne_iff_ne, ne_comm]

/-- R81: what RECONFIG with the address unchanged leaves of a port, as the table says it. -/
def pathTable (n : Nat) (p : Port) (old new : ClientConfig) (s t : State) : Prop :=
  let q := path s n p
  let same := atPort new.path p = atPort old.path p
  let removed : Path → Prop := fun r => r.state = .idle ∧ r.debt = 0 ∧ r.delay = none ∧ r.seeds = 0 ∧
    r.outlierRun = 0 ∧ r.urgent = false ∧ r.accepted = q.accepted ∧ r.outliers = q.outliers ∧
    r.rejects = q.rejects ∧ r.timeouts = q.timeouts ∧ r.late = q.late ∧ r.clamps = q.clamps
  (allows new.allowed p = true → ¬ same → q.state = .valid → inRoll t p n) ∧
  if allows new.allowed p then
    path t n p = (match q.state with
      | .idle => { Path.idle with state := .seeding, debt := 1 }
      | .lost => if same then q else { q with delay := none, seeds := 0 }
      | .seeding | .valid =>
        if same then q else { q with state := .seeding, delay := none, seeds := 0, outlierRun := 0 })
  else if q.state = .idle then path t n p = q
  else removed (path t n p) ∧ (∀ x ∈ (rangePort t p).table, x.slot ≠ n) ∧ (∀ e ∈ (beaconPort t p).roll, e.slot ≠ n)

theorem PathReconfigured.pathTable {old : ClientConfig} {i : State} (h : PathReconfigured n p old new s i) (k : Settled n i t) :
    pathTable n p old new s t := by
  obtain ⟨st, hst⟩ := k.client
  have hpath : path t n p = path i n p := by rw [path, hst]; rfl
  have hsame : ∀ x y : Path, (if pathChanged p old new = true then x else y) =
      if atPort new.path p = atPort old.path p then y else x := fun x y => by
    by_cases hc : atPort new.path p = atPort old.path p
    · rw [if_neg (fun hp => (pathChanged_iff p old new).1 hp hc), if_pos hc]
    · rw [if_pos ((pathChanged_iff p old new).2 hc), if_neg hc]
  refine ⟨fun ha hc hv => k.roll p (h.joined ha ((pathChanged_iff p old new).2 hc) hv), ?_⟩
  by_cases ha : allows new.allowed p = true
  · rw [if_pos ha, hpath, h.stands (.inr ha), ha, reconfigured_allowed, hsame, hsame]
    rfl
  · have hno : allows new.allowed p = false := by simpa using ha
    rw [if_neg ha]
    by_cases hidle : (path s n p).state = .idle
    · rw [if_pos hidle, hpath, h.stands (.inl hidle), hno, reconfigured]
      simp [hidle]
    · rw [if_neg hidle, hpath]
      obtain ⟨e, he⟩ := h.removed hidle hno
      rw [reconfigured_removed hidle] at he
      obtain ⟨htable, hroll⟩ := h.voided hidle hno
      refine ⟨by rw [he]; exact ⟨rfl, rfl, rfl, rfl, rfl, rfl, rfl, rfl, rfl, rfl, rfl, rfl⟩, ?_, ?_⟩
      · rw [k.table]; exact htable
      · rw [k.unannounced p (by rw [he]; exact fun h => by cases h)]; exact hroll

/-- R80: a client moved to another address has no traces on either port. -/
theorem traceless_of_settled {i : State} (k : Settled n i t) (h : ∀ p, traceless n i p)
    (hp : (client i n).paths = freshPaths new.allowed) (p : Port) : traceless n t p := by
  have hfresh : (path i n p).state ≠ .valid := by
    rw [path, hp, freshPaths_eq]
    cases p <;> cases new.allowed <;> exact fun h => by cases h
  exact ⟨by rw [k.table]; exact (h p).1, by rw [k.unannounced p hfresh]; exact (h p).2⟩

end

/-- Settles O44: the checks in their order; then the evaluation of the state that `installed` leaves. -/
theorem reconfigActsFieldByField : Obligations.ReconfigActsFieldByField := by
  intro s src c host hfree hlen m n old refused
  have hexec : exec (.reconfig src c host) s =
      .next (orderReconfig c src.slot.val (takeOrder src.slot.val src.cookie (.reconfig c) m)) :=
    congrArg _ (handOver_run (s := m) (.reconfig c) (orderReconfig c) hfree)
  have hrefused (r : ResultCode) (h : orderReconfig c src.slot.val (takeOrder src.slot.val src.cookie (.reconfig c) m) =
      finish src.slot.val r (takeOrder src.slot.val src.cookie (.reconfig c) m)) : refused r :=
    hexec.trans (congrArg Host.Outcome.next (h.trans (finish_take src _ r m)))
  have hcheck := reconfigCheck_eq c (takeOrder src.slot.val src.cookie (.reconfig c) m)
  have hpassed (h : n < 256) (hv : old.state ≠ .vacant) :
      orderReconfig c src.slot.val (takeOrder src.slot.val src.cookie (.reconfig c) m) =
        reconfigRead n (configGroup n m) src.slot.val (takeOrder src.slot.val src.cookie (.reconfig c) m) :=
    orderReconfig_passed (hcheck.trans ((if_neg (Nat.not_le.2 h)).trans (if_neg hv)))
  have hdup (a : MacAddr) : duplicateAddr a n (takeOrder src.slot.val src.cookie (.reconfig c) m) = true ↔
      ∃ k, k ≠ n ∧ (client s k).state ≠ .vacant ∧ (client s k).config.addr = a := duplicateAddr_iff a n _
  refine ⟨fun h => ?_, fun h hv => ?_, fun h hv hnone => ?_, fun cfg adj h hv hsome => ⟨fun hd => ?_, fun hd => ?_⟩⟩
  · exact hrefused _ (orderReconfig_refused (hcheck.trans (if_pos h)))
  · exact hrefused _ (orderReconfig_refused (hcheck.trans ((if_neg (Nat.not_le.2 h)).trans (if_pos hv))))
  · exact hrefused _ ((hpassed h hv).trans (reconfigRead_invalid hnone))
  · exact hrefused _ ((hpassed h hv).trans (reconfigRead_duplicate hsome ((hdup _).2 hd)))
  · let u := takeOrder src.slot.val src.cookie (.reconfig c) m
    have hn : n < u.crs.clients.length := by rw [← hlen] at h; exact h
    have hnodup : ¬ duplicateAddr cfg.addr n u = true := fun hc => by
      obtain ⟨k, hk, hkv, hka⟩ := (hdup _).1 hc
      exact hd k hk hkv hka
    rw [hexec, hpassed h hv, reconfigRead_passed hsome hnodup, installConfig_eq]
    have hsettled := evaluate_settled n .reconfig (installed n cfg u)
    obtain ⟨st, hst⟩ := hsettled.client
    by_cases ha : cfg.addr = old.config.addr
    · obtain ⟨honly, ⟨ps, hps⟩, hpaths, hnew⟩ := installed_same (s := u) hn ha
      have hfollows := evaluate_settled_follows (cause := .reconfig) (s := u) (by rw [hps]) hv honly.rest.2.1
      generalize refreshBoth (queuePub n (evaluate n .reconfig (installed n cfg u))) = t at *
      generalize installed n cfg u = i at *
      rw [hps] at hst
      have htable := fun p => (hpaths p).pathTable hsettled
      have hclient : client (finish src.slot.val (okOr adj) t) n = _ := hst
      have hboth : ∀ q : Prop, (cfg.addr = old.config.addr ∧ q) ↔ q := fun q => and_iff_right ha
      refine ⟨finish src.slot.val (okOr adj) t, rfl, ?_⟩
      simp only [hboth, hclient]
      exact ⟨hsettled.rest.1.trans honly.rest.2.2,
        storeEntry_worked (s := s) (m := m) rfl (hsettled.rest.2.trans (congrArg Controller.store honly.rest.2.1)),
        by trivial, by trivial, by trivial, hsettled.queued, fun k hk => (hsettled.others k hk).trans (honly.others k hk), by trivial, by trivial, hfollows,
        fun hc => absurd ha hc, fun _ => ⟨by trivial, by trivial, hsettled.newcomers.trans hnew, htable⟩⟩
    · obtain ⟨honly, hps, htraces, hnew⟩ := installed_readdressed (s := u) hn ha
      have hfollows := evaluate_settled_follows (cause := .reconfig) (s := u) (by rw [hps]) hv honly.rest.2.1
      generalize refreshBoth (queuePub n (evaluate n .reconfig (installed n cfg u))) = t at *
      generalize installed n cfg u = i at *
      have htraceless := fun p => traceless_of_settled hsettled htraces (by rw [hps]) p
      rw [hps] at hst
      have hclient : client (finish src.slot.val (okOr adj) t) n = _ := hst
      have hnot : ∀ q : Prop, ¬ (cfg.addr = old.config.addr ∧ q) := fun q hq => ha hq.1
      have hpath : ∀ p, path (finish src.slot.val (okOr adj) t) n p = freshPath cfg.allowed p := fun p => by
        rw [path, hclient]
        cases p <;> rfl
      refine ⟨finish src.slot.val (okOr adj) t, rfl, ?_⟩
      simp only [hnot, hclient, if_false]
      exact ⟨hsettled.rest.1.trans honly.rest.2.2,
        storeEntry_worked (s := s) (m := m) rfl (hsettled.rest.2.trans (congrArg Controller.store honly.rest.2.1)),
        by trivial, by trivial, by trivial, hsettled.queued, fun k hk => (hsettled.others k hk).trans (honly.others k hk), by trivial, by trivial, hfollows,
        fun _ => ⟨fun p => ⟨hpath p, (htraceless p).1, (htraceless p).2⟩, by trivial, by trivial, by trivial, by trivial, by trivial,
          hsettled.newcomers.trans hnew⟩,
        fun hc => absurd hc ha⟩

end Sys2Proof.Machine

/-! ## Notices (ch. 7.4) -/

namespace Sys2Proof.Machine

section
variable {s : State} {p : NoticePostP} {mode : NoticeMode}

/-- R138: the modes that a NOTICE-POST does not have. -/
theorem noticeModeOf_none_iff (p : NoticePostP) : noticeModeOf p = none ↔
    3 < p.mode.toNat ∨ p.mode = 2 ∧ (p.param.toNat % 256 < 2 ∨ 16 < p.param.toNat % 256) := by
  have htwo : p.mode = 2 ↔ p.mode.toNat = 2 := BitVec.toNat_inj.symm
  rw [htwo, noticeModeOf]
  split
  case h_1 h => simp [h]
  case h_2 h => simp [h]
  case h_3 h =>
    dsimp only
    split
    · simp [h]; omega
    · simp [h]; omega
  case h_4 h => simp [h]
  case h_5 h0 h1 h2 h3 =>
    have hpast : 3 < p.mode.toNat := by
      by_contra hle
      have : p.mode.toNat = 0 ∨ p.mode.toNat = 1 ∨ p.mode.toNat = 2 ∨ p.mode.toNat = 3 := by omega
      tauto
    simp [hpast]

/-- R138: the epoch of an UNTIL block has been reached. -/
theorem untilPast_iff (h : noticeModeOf p = some mode) (s : State) :
    untilPast mode s = true ↔ p.mode = 3 ∧ p.param.toNat ≤ s.tbs.time.sec := by
  have hthree : p.mode = 3 ↔ p.mode.toNat = 3 := BitVec.toNat_inj.symm
  rw [hthree]
  unfold noticeModeOf at h
  split at h
  case h_1 hm => cases h; simp [untilPast, hm]
  case h_2 hm => cases h; simp [untilPast, hm]
  case h_3 hm =>
    dsimp only at h
    split at h
    · cases h; simp [untilPast, hm]
    · cases h
  case h_4 hm => cases h; simp [untilPast, hm]
  case h_5 => cases h

theorem noticeAt_putNotice {i : Nat} (n : Option Notice) (hi : i < s.bcu.notices.length) :
    noticeAt (putNotice i n s) i = n := by
  simp [noticeAt, putNotice, modBcu, hi]

theorem noticeAt_putNotice_ne {i j : Nat} (n : Option Notice) (s : State) (h : j ≠ i) :
    noticeAt (putNotice i n s) j = noticeAt s j := by
  simp [noticeAt, putNotice, modBcu, List.getD_eq_getElem?_getD, Ne.symm h]

/-- R136: freeing a block. -/
theorem freeNotice_spec {i : Nat} (n : Notice) (cause : NoticeCause) (s : State) (hi : i < s.bcu.notices.length) :
    let t := freeNotice i n cause s
    noticeAt t i = none ∧ (∀ j, j ≠ i → noticeAt t j = noticeAt s j) ∧ t.mem = s.mem ∧
    t.xch = (stage (.noticeDone i n.mode n.carried cause) s).xch := by
  have hbcu : (freeNotice i n cause s).bcu = (putNotice i none s).bcu := by simp [freeNotice]
  refine ⟨?_, fun j hj => ?_, by simp [freeNotice, putNotice], stage_xch_congr _ rfl rfl⟩
  · rw [noticeAt, hbcu]; exact noticeAt_putNotice none hi
  · rw [noticeAt, hbcu]; exact noticeAt_putNotice_ne none s hj

/-- R136: the ports that owe a block as it is posted. -/
theorem freshNotice_eq (mode : NoticeMode) (payload : List Byte) (s : State) :
    let up := fun port => (link s port).state == .up && mode == .once
    freshNotice mode payload s = { mode := mode, payload := payload, owed := ⟨up .a, up .b⟩, owedAtPost := ⟨up .a, up .b⟩
                                   wait := ⟨0, 0⟩, carried := ⟨false, false⟩ } := by
  unfold freshNotice
  by_cases h : mode = .once <;> simp [h]

/-- R136: a ONCE block posted with no port in UP is owed by none. -/
theorem nobodyOwes_fresh (payload : List Byte) (s : State) :
    (freshNotice .once payload s).mode = .once ∧ nobodyOwes (freshNotice .once payload s) = true ↔
      (link s .a).state ≠ .up ∧ (link s .b).state ≠ .up := by
  rw [freshNotice_eq]
  simp [nobodyOwes]

/-- R134, R136: a block put at its index, and freed where no port owes it. -/
theorem settleOnce_put {i : Nat} (payload : List Byte) (hi : i < s.bcu.notices.length) :
    let n := freshNotice mode payload s
    let t := settleOnce i (putNotice i (some n) s)
    (∀ j, j ≠ i → noticeAt t j = noticeAt s j) ∧ t.mem = s.mem ∧
    if mode = .once ∧ (link s .a).state ≠ .up ∧ (link s .b).state ≠ .up then
      noticeAt t i = none ∧ t.xch = (stage (.noticeDone i .once ⟨false, false⟩ .noneUp) s).xch
    else noticeAt t i = some n ∧ t.xch = s.xch := by
  intro n t
  have hmode : n.mode = mode := by simp [n, freshNotice_eq]
  have hput : noticeAt (putNotice i (some n) s) i = some n := noticeAt_putNotice (some n) hi
  have ht : t = if n.mode = .once ∧ nobodyOwes n = true then freeNotice i n (onceCause n) (putNotice i (some n) s)
      else putNotice i (some n) s := by
    simp only [t, settleOnce, hput]
  by_cases hfree : mode = .once ∧ (link s .a).state ≠ .up ∧ (link s .b).state ≠ .up
  · obtain ⟨rfl, hup⟩ := hfree
    have hn : n = { mode := .once, payload := payload, owed := ⟨false, false⟩, owedAtPost := ⟨false, false⟩
                    wait := ⟨0, 0⟩, carried := ⟨false, false⟩ } := by
      simp [n, freshNotice_eq, hup.1, hup.2]
    rw [if_pos ((nobodyOwes_fresh payload s).2 hup)] at ht
    obtain ⟨hnone, hothers, hmem, hxch⟩ := freeNotice_spec n (onceCause n) (putNotice i (some n) s)
      (by simpa [putNotice, modBcu] using hi)
    rw [if_pos ⟨rfl, hup⟩, ht]
    refine ⟨fun j hj => (hothers j hj).trans (noticeAt_putNotice_ne _ s hj), hmem, hnone, hxch.trans ?_⟩
    rw [hn]
    exact stage_xch_congr _ rfl rfl
  · have hkept : ¬ (n.mode = .once ∧ nobodyOwes n = true) := by
      rintro ⟨hm, ho⟩
      rw [hmode] at hm
      subst hm
      exact hfree ⟨rfl, (nobodyOwes_fresh payload s).1 ⟨hmode, ho⟩⟩
    rw [if_neg hkept] at ht
    rw [if_neg hfree, ht]
    exact ⟨fun j hj => noticeAt_putNotice_ne _ s hj, rfl, hput, rfl⟩

end

/-- Settles O46: NOTICE-POST by its checks and `settleOnce_put`, NOTICE-WITHDRAW by whether a block is held. -/
theorem noticesPostedAndWithdrawn : Obligations.NoticesPostedAndWithdrawn := by
  intro s src hfree hlen
  refine ⟨fun p => ?_, fun index => ?_⟩
  · intro i bad past
    let u := takeOrder src.slot.val src.cookie (.noticePost p) s
    have hexec : exec (.noticePost src p) s = .next (orderNoticePost p src.slot.val u) :=
      congrArg _ (handOver_run (.noticePost p) (orderNoticePost p) hfree)
    rw [hexec]
    have hbadIff : bad ↔ noticeModeOf p = none ∨ 7 < p.index.toNat ∨ p.length.toNat < 1 ∨ 16 < p.length.toNat := by
      rw [noticeModeOf_none_iff]
      simp only [bad, i]
      tauto
    cases hmode : noticeModeOf p with
    | none =>
      have hbad : bad := hbadIff.2 (.inl hmode)
      refine ⟨fun _ => ?_, fun h => absurd hbad h, fun h => absurd hbad h⟩
      rw [orderNoticePost, hmode]
      exact congrArg _ (finish_take src _ _ s)
    | some mode =>
      have hcheck : bad ↔ 7 < p.index.toNat ∨ p.length.toNat < 1 ∨ 16 < p.length.toNat := by
        rw [hbadIff, hmode]; simp
      have hpast : untilPast mode u = true ↔ past := untilPast_iff hmode u
      have horder : orderNoticePost p src.slot.val u =
          if 7 < p.index.toNat ∨ p.length.toNat < 1 ∨ 16 < p.length.toNat then finish src.slot.val .badField u
          else if untilPast mode u = true then finish src.slot.val .past u
          else finish src.slot.val .ok (settleOnce p.index.toNat (putNotice p.index.toNat
            (some (freshNotice mode (p.payload.take p.length.toNat) u)) u)) := by
        rw [orderNoticePost, hmode]
      rw [horder]
      refine ⟨fun hb => ?_, fun hb hp => ?_, fun hb hp => ?_⟩
      · rw [if_pos (hcheck.1 hb)]
        exact congrArg _ (finish_take src _ _ s)
      · rw [if_neg (fun h => hb (hcheck.2 h)), if_pos (hpast.2 hp)]
        exact congrArg _ (finish_take src _ _ s)
      · have hi : i < u.bcu.notices.length := by
          have : u.bcu.notices.length = 8 := hlen
          have : ¬ 7 < p.index.toNat := fun h => hb (hcheck.2 (.inl h))
          omega
        obtain ⟨hothers, hmem, hput⟩ := settleOnce_put (mode := mode) (p.payload.take p.length.toNat) hi
        rw [if_neg (fun h => hb (hcheck.2 h)), if_neg (fun h => hp (hpast.1 h))]
        by_cases hnone : mode = .once ∧ (link s .a).state ≠ .up ∧ (link s .b).state ≠ .up
        · obtain ⟨hat, hxch⟩ := (if_pos hnone).mp hput
          refine ⟨_, mode, rfl, hmem, rfl, storeEntry_worked rfl (by rw [hxch, stage_store]), hothers, ?_⟩
          rw [if_pos hnone]
          refine ⟨hat, (congrArg Controller.staging hxch).trans ?_⟩
          rw [stage_takeOrder]
          rfl
        · obtain ⟨hat, hxch⟩ := (if_neg hnone).mp hput
          refine ⟨_, mode, rfl, hmem, rfl, storeEntry_worked rfl (by rw [hxch]), hothers, ?_⟩
          rw [if_neg hnone]
          have hstaged : u.xch.staging = s.xch.staging := rfl
          exact ⟨hat.trans (congrArg some (freshNotice_eq mode _ u)), (congrArg Controller.staging hxch).trans hstaged⟩
  · let u := takeOrder src.slot.val src.cookie (.noticeWithdraw index) s
    have hexec : exec (.noticeWithdraw src index) s = .next (orderNoticeWithdraw index src.slot.val u) :=
      congrArg _ (handOver_run (.noticeWithdraw index) (orderNoticeWithdraw index) hfree)
    rw [hexec, orderNoticeWithdraw]
    refine ⟨fun h => ?_, fun h hnone => ?_, fun h hsome => ?_⟩
    · rw [if_pos h]
      exact congrArg _ (finish_take src _ _ s)
    · rw [if_neg (Nat.not_lt.2 h), if_pos (Option.isNone_iff_eq_none.2 (by exact hnone))]
      exact congrArg _ (finish_take src _ _ s)
    · have hi : index.toNat < s.bcu.notices.length := by omega
      rw [if_neg (Nat.not_lt.2 h), if_neg (by rw [Option.isNone_iff_eq_none]; exact hsome)]
      refine ⟨_, rfl, noticeAt_putNotice none hi, fun j hj => noticeAt_putNotice_ne none s hj, ?_, rfl, rfl⟩
      exact (complete_worked src (.noticeWithdraw index) .ok [] (putNotice index.toNat none) rfl).trans rfl

end Sys2Proof.Machine

/-! ## Reference Intake (ch. 2) -/

namespace Sys2Proof.Machine

section
variable {i : RefInput} {s : State}

/-! ### Pulses (R20 to R22, R25, R26) -/

/-- R20: a rising edge. -/
theorem pulseRise_eq (i : RefInput) (at_ : Instant) (s : State) : pulseRise i at_ s = modRef i (fun r => { r with
    line := true
    pulse := if r.line = false ∧ r.qual ≠ .disabled ∧ r.pulse = none ∧ r.stuckEpisode = false then
        some { rise := s.tbs.stamp at_, stuckAt := s.tbs.stamp at_ + 3200000000 }
      else r.pulse }) s := by
  have hcond : ((refIn s i).line || decide ((refIn s i).qual = .disabled) || (refIn s i).pulse.isSome ||
      (refIn s i).stuckEpisode) = true ↔ ¬ ((refIn s i).line = false ∧ (refIn s i).qual ≠ .disabled ∧
        (refIn s i).pulse = none ∧ (refIn s i).stuckEpisode = false) := by
    cases (refIn s i).line <;> cases (refIn s i).pulse <;> cases (refIn s i).stuckEpisode <;> simp
  unfold pulseRise
  by_cases h : (refIn s i).line = false ∧ (refIn s i).qual ≠ .disabled ∧ (refIn s i).pulse = none ∧
      (refIn s i).stuckEpisode = false
  · rw [if_neg (fun hc => hcond.1 hc h), modRef_modRef]
    exact modRef_congr (by simp [h, stuckSpan])
  · rw [if_pos (hcond.2 h)]
    exact modRef_congr (by simp [h])

/-- R20: a falling edge with no pulse in progress. -/
theorem pulseFall_none {at_ : Instant} (h : (refIn s i).pulse = none) :
    pulseFall i at_ s = modRef i (fun r => { r with line := false, stuckEpisode := false, pulse := none }) s := by
  rw [pulseFall, h]
  exact modRef_congr (by rw [← h])

/-- R21: the falling edge of a pulse that is not past its stuck deadline: a glitch, or a pulse classified by its width. -/
theorem pulseFall_some {at_ : Instant} {p : RefPulse} (h : (refIn s i).pulse = some p)
    (hw : s.tbs.stamp at_ - p.rise ≤ 3200000000) :
    let fallen := modRef i (fun r => { r with line := false, stuckEpisode := false, pulse := none }) s
    pulseFall i at_ s = if s.tbs.stamp at_ - p.rise < (refIn s i).settings.minWidth * 16 then fallen
      else classifiedPulse i p.rise
        (if s.tbs.stamp at_ - p.rise < (refIn s i).settings.longWidth * 16000000 then .good else .degraded) fallen := by
  intro fallen
  have hfallen : modRef i (fun r => { r with pulse := none }) (modRef i (fun r => { r with line := false, stuckEpisode := false }) s) =
      fallen := modRef_modRef i _ _ s
  have hsettings : (refIn (modRef i (fun r => { r with line := false, stuckEpisode := false }) s) i).settings =
      (refIn s i).settings := by rw [refIn_modRef]
  rw [pulseFall, h]
  simp only [endPulse, hfallen, hsettings]
  rw [if_neg (show ¬ stuckSpan < s.tbs.stamp at_ - p.rise from Nat.not_lt.2 hw)]
  by_cases hlong : s.tbs.stamp at_ - p.rise < (refIn s i).settings.longWidth * 16000000
  · rw [if_pos hlong, if_pos hlong]
  · rw [if_neg hlong, if_neg hlong]

/-- Settles O22: a rising edge as `pulseRise_eq` says, a fall without a pulse or of a glitch. -/
theorem pulseStartsAndGlitchLeavesNoTrace : Obligations.PulseStartsAndGlitchLeavesNoTrace := by
  intro s i at_
  refine ⟨congrArg Host.Outcome.next (pulseRise_eq i at_ s), fun h => congrArg Host.Outcome.next ?_⟩
  rcases h with h | ⟨p, h, hglitch, hw⟩
  · exact pulseFall_none h
  · exact (pulseFall_some h hw).trans (if_pos hglitch)

/-- R25: the messages still fresh at a mark. -/
def freshMsgs (rise : Nat) (r : RefIn) : List RefMsg := r.fifo.filter (fun m => decide (rise ≤ m.completed + 19200000000))

/-- R25: the message that labels a mark. -/
def labelling (rise : Nat) (r : RefIn) : Option RefMsg := (freshMsgs rise r).find? (fun m => decide (m.completed ≤ rise))

/-- R25, R26: an input as a mark is paired: stale messages gone and counted, the label used up, the interval reference moved. -/
def paired (rise : Nat) (r : RefIn) : RefIn := { r with
  interval := some rise
  fifo := match labelling rise r with
    | none => freshMsgs rise r
    | some m => (freshMsgs rise r).erase m
  counters := { r.counters with stale := min (r.counters.stale + (r.fifo.length - (freshMsgs rise r).length)) 65535 } }

/-- R25, R26: a classified pulse is paired, and then accepted or counted as misplaced. -/
theorem classifiedPulse_eq (rise : Nat) (cls : WidthClass) (s : State) : classifiedPulse i rise cls s =
    if intervalOk rise (refIn s i) = true then acceptMark i rise cls (labelling rise (refIn s i)) (modRef i (paired rise) s)
    else modRef i (fun r => { r with counters := { r.counters with misplaced := min (r.counters.misplaced + 1) 65535 } })
      (modRef i (paired rise) s) := by
  have hlabel : labelFor rise (refIn (modRef i (dropStale rise) s) i) = labelling rise (refIn s i) := by
    rw [refIn_modRef]; rfl
  have hok : intervalOk rise (refIn (modRef i (dropStale rise) s) i) = intervalOk rise (refIn s i) := by
    rw [refIn_modRef]; rfl
  have hpaired : modRef i (fun r => { r with
      fifo := match labelling rise (refIn s i) with | none => r.fifo | some m => r.fifo.erase m
      interval := some rise }) (modRef i (dropStale rise) s) = modRef i (paired rise) s := by
    rw [modRef_modRef]
    refine modRef_congr ?_
    simp only [paired, dropStale]
    rfl
  simp only [classifiedPulse, hlabel, hok]
  exact congrArg (fun u => if intervalOk rise (refIn s i) = true then acceptMark i rise cls (labelling rise (refIn s i)) u
    else modRef i (fun r => { r with counters := { r.counters with misplaced := min (r.counters.misplaced + 1) 65535 } }) u) hpaired

theorem intervalOk_iff (rise : Nat) (r : RefIn) : intervalOk rise r = true ↔
    ∀ v, r.interval = some v → v + 15984000000 ≤ rise ∧ rise ≤ v + 16016000000 := by
  unfold intervalOk
  cases r.interval with
  | none => simp
  | some v => simp

/-- Settles O23. -/
theorem misplacedMarkOnlyMovesReference : Obligations.MisplacedMarkOnlyMovesReference := by
  intro s i at_ p v hp hv hout hmin hw
  have hexec : exec (.refPulseFall i at_) s = .next (pulseFall i at_ s) := rfl
  rw [hexec, pulseFall_some hp hw, if_neg (Nat.not_lt.2 hmin), classifiedPulse_eq, if_neg, modRef_modRef, modRef_modRef]
  · rfl
  · rw [intervalOk_iff, refIn_modRef]
    intro h
    have := h v hv
    omega

end

section
variable {i : RefInput} {s t : State}

/-! ### What a selection leaves (R31, R36) -/

theorem selected_rest {mode : SelMode} {active : Option RefInput} {cause : RefChangeCause} (h : selected mode active cause s t) :
    t.mem = s.mem ∧ t.rfi.inputs = s.rfi.inputs ∧ t.rfi.preference = s.rfi.preference ∧ t.crs = s.crs ∧ t.evc = s.evc := by
  obtain ⟨hframe, hrfi, -⟩ := h
  refine ⟨?_, ?_, ?_, ?_, ?_⟩
  · rw [hframe]
  · rw [hrfi]
  · rw [hrfi]
  · rw [hframe]
  · rw [hframe]

theorem reselected_rest {cause : RefChangeCause} (h : reselected cause s t) :
    t.mem = s.mem ∧ t.rfi.inputs = s.rfi.inputs ∧ t.rfi.preference = s.rfi.preference ∧ t.crs = s.crs ∧ t.evc = s.evc := by
  unfold reselected at h
  split at h
  · exact selected_rest h
  next i _ =>
    by_cases hq : (refIn s i).qual = .qualified
    · rw [h.1 hq]
      exact ⟨rfl, rfl, rfl, rfl, rfl⟩
    · exact selected_rest (h.2 hq)

/-! ### Deadlines (R22, R23, R29, R32) -/

/-- R22: a pulse found STUCK. -/
theorem makeStuck_eq (high : Bool) (rise : Nat) (s : State) :
    let counters := { (refIn s i).counters with stuck := min ((refIn s i).counters.stuck + 1) 65535 }
    makeStuck i high rise s = stage (.pulseStuck i rise counters)
      (modRef i (fun r => { r with pulse := none, stuckEpisode := high, counters := counters }) s) := by
  intro counters
  have hmod : modRef i (fun r => { r with
      pulse := none, stuckEpisode := high, counters := { r.counters with stuck := incSat16 r.counters.stuck } }) s =
      modRef i (fun r => { r with pulse := none, stuckEpisode := high, counters := counters }) s := modRef_congr rfl
  rw [makeStuck, hmod, refIn_modRef]

/-- R28, R29: an input that enters ABSENT. -/
theorem changeQual_absent (cause : RefStateCause) (s : State) :
    changeQual i .absent cause s = stage (.refState i (refIn s i).qual .absent cause (refIn s i).counters)
      (modRef i (fun _ => { refIn s i with
        qual := .absent, goodRun := 0, nonGoodRun := 0, interval := none, labelMem := none, lossAt := none }) s) := by
  have hmod : modRef i (fun r => { r with
      qual := .absent, goodRun := 0, nonGoodRun := 0, interval := none, labelMem := none, lossAt := none }) s =
      modRef i (fun _ => { refIn s i with
        qual := .absent, goodRun := 0, nonGoodRun := 0, interval := none, labelMem := none, lossAt := none }) s := modRef_congr rfl
  have hunfold : changeQual i .absent cause s = stage (.refState i (refIn s i).qual .absent cause
      (refIn (modRef i (fun r => { r with
        qual := .absent, goodRun := 0, nonGoodRun := 0, interval := none, labelMem := none, lossAt := none }) s) i).counters)
      (modRef i (fun r => { r with
        qual := .absent, goodRun := 0, nonGoodRun := 0, interval := none, labelMem := none, lossAt := none }) s) := rfl
  rw [hunfold, hmod, refIn_modRef]

theorem refIn_stage (body : JournalBody) (s : State) (j : RefInput) : refIn (stage body s) j = refIn s j := by
  rw [refIn, (stage_frame body s).2.1]; rfl

theorem qualified_iff (s : State) (i : RefInput) : qualified s i = true ↔ (refIn s i).qual = .qualified := by
  simp [qualified]

/-- R31: the inputs of a state whose inputs stand. -/
theorem refIn_of_inputs (h : t.rfi.inputs = s.rfi.inputs) (j : RefInput) : refIn t j = refIn s j := by
  rw [refIn, h]; rfl

/-- Settles O25: each deadline reached and not reached. -/
theorem referenceDeadlinesAct : Obligations.ReferenceDeadlinesAct := by
  intro s
  refine ⟨fun i => ⟨?_, ?_, fun h => ?_, fun h => ?_⟩, fun h => ?_, fun hat hmode hactive hpref => ?_⟩
  · have hexec : exec (.stuckDeadline i) s = execStuckDeadline i s := rfl
    rw [hexec, execStuckDeadline]
    cases hp : (refIn s i).pulse with
    | none => rfl
    | some p =>
      by_cases hr : s.tbs.reaches p.stuckAt = true
      · simp only [hr, if_true, makeStuck_eq]
      · simp only [hr, Bool.false_eq_true, if_false]
  · have hexec : exec (.msgGapExpiry i) s = execMsgGapExpiry i s := rfl
    rw [hexec, execMsgGapExpiry]
    cases ha : (refIn s i).assembly with
    | none => rfl
    | some a => rfl
  · have hexec : exec (.lossDeadline i) s = execLossDeadline i s := rfl
    rw [hexec, execLossDeadline, h]
    rfl
  · intro lost
    have hexec : exec (.lossDeadline i) s = .next (reselectIfChanged i (qualified s i) (changeQual i .absent .loss s)) := by
      have hcmd : exec (.lossDeadline i) s = execLossDeadline i s := rfl
      rw [hcmd, execLossDeadline, h]
      rfl
    have habsent : refIn (changeQual i .absent .loss s) i = lost := by
      rw [changeQual_absent, refIn_stage, refIn_modRef]
    have hother : refIn (changeQual i .absent .loss s) (otherInput i) = refIn s (otherInput i) := by
      rw [changeQual_absent, refIn_stage, refIn_modRef_other]
    have hunq : qualified (changeQual i .absent .loss s) i = false := by
      rw [qualified, habsent]
      rfl
    have hmem : (changeQual i .absent .loss s).mem = s.mem := by simp
    rw [hexec]
    by_cases hq : (refIn s i).qual = .qualified
    · have hresel : reselectIfChanged i (qualified s i) (changeQual i .absent .loss s) =
          reselect .qualification (changeQual i .absent .loss s) := by
        rw [reselectIfChanged, hunq, (qualified_iff s i).2 hq]
        rfl
      have hsel := reselect_reselected .qualification (changeQual i .absent .loss s)
      obtain ⟨hm, hin, -⟩ := reselected_rest hsel
      rw [hresel]
      refine ⟨_, rfl, (refIn_of_inputs hin i).trans habsent, (refIn_of_inputs hin _).trans hother, hm.trans hmem,
        fun hne => absurd hq hne, fun _ => ?_⟩
      rw [changeQual_absent, hq] at hsel ⊢
      exact hsel
    · have hresel : reselectIfChanged i (qualified s i) (changeQual i .absent .loss s) = changeQual i .absent .loss s := by
        have hwas : qualified s i = false := by
          rw [← Bool.not_eq_true, qualified_iff]; exact hq
        rw [reselectIfChanged, hunq, hwas]
        rfl
      rw [hresel]
      exact ⟨_, rfl, habsent, hother, hmem, fun _ => changeQual_absent .loss s, fun hc => absurd hc hq⟩
  · have hexec : exec .revertDeadline s = execRevertDeadline s := rfl
    rw [hexec, execRevertDeadline]
    rcases h with h | h <;> rw [h] <;> simp
  · have hexec : exec .revertDeadline s = .next (applySelection .auto (some s.rfi.preference) .revert s) := by
      have hcmd : exec .revertDeadline s = execRevertDeadline s := rfl
      rw [hcmd, execRevertDeadline, hat, if_pos]
      simp [revertArrangement, qualified, hmode, hactive, hpref]
    have hsel := applySelection_selected .auto (some s.rfi.preference) .revert s
    refine ⟨_, hexec, (selected_rest hsel).1, hsel, ?_⟩
    have hne : s.rfi.preference ≠ otherInput s.rfi.preference := by cases s.rfi.preference <;> decide
    rw [hsel.2.1]
    simp [hactive, hne, hmode]

end

/-! ### SET-REF (R33) -/

section
variable {s v : State} {src : OrderSrc}

/-- R31: what a taken order's selection leaves, the order completed, is the selection made of the state before the order. -/
theorem selected_order {m : SelMode} {active : Option RefInput} {cause : RefChangeCause} {o : Order} {r : ResultCode}
    (h : selected m active cause (takeOrder src.slot.val src.cookie o s) v) :
    selected m active cause s (finish src.slot.val r v) := by
  obtain ⟨hframe, hrest⟩ := h
  refine ⟨?_, hrest⟩
  rw [hframe]
  rfl

/-! What a selection stages and queues. -/

theorem takeNotice_hands {s₀ : State} {prev new : Option RefInput} (h : Hands s₀ s) : Hands s₀ (takeNotice prev new s) := by
  unfold takeNotice
  split
  · exact enterServo_hands h
  · exact enterServo_hands h
  · exact enterServo_hands h
  · exact enterServo_hands h
  · exact modDsv_hands h
  · exact modDsv_hands h
  · exact h

theorem modRfi_hands {s₀ : State} {f : RefIntake → RefIntake} (h : Hands s₀ s) : Hands s₀ (modRfi f s) := h.same rfl rfl fun _ => rfl

theorem modRef_hands {s₀ : State} {i : RefInput} {f : RefIn → RefIn} (h : Hands s₀ s) : Hands s₀ (modRef i f s) :=
  h.same rfl rfl fun _ => rfl

theorem applySelection_hands {s₀ : State} {mode : SelMode} {active : Option RefInput} {cause : RefChangeCause} (h : Hands s₀ s) :
    Hands s₀ (applySelection mode active cause s) := by
  have hrevert : Hands s₀ (updateRevert (modRfi (fun r => { r with mode := mode, active := active }) s)) :=
    h.same rfl rfl fun _ => rfl
  simp only [applySelection]
  split_ifs
  · exact hrevert
  · exact stage_hands hrevert
  · exact takeNotice_hands (modDsv_hands (modRfi_hands hrevert))
  · exact takeNotice_hands (modDsv_hands (modRfi_hands (stage_hands hrevert)))

theorem reselect_hands {s₀ : State} {cause : RefChangeCause} (h : Hands s₀ s) : Hands s₀ (reselect cause s) := by
  unfold reselect
  repeat' split
  · exact applySelection_hands h
  · exact h
  · exact applySelection_hands h

/-- R182: what hands on records alone leaves the order store. -/
theorem Hands.store {t : State} (h : Hands s t) : t.xch.store = s.xch.store := by rw [h.staged.2]

end

theorem orderSetRef_auto (slot : Nat) (s : State) :
    orderSetRef 0 slot s = finish slot .ok (applySelection .auto (autoChoice s) .order s) := rfl

theorem orderSetRef_force (i : RefInput) (slot : Nat) (s : State) : orderSetRef (if i = .a then 1 else 2) slot s =
    if qualified s i then finish slot .ok (applySelection (.force i) (some i) .order s) else finish slot .notQualified s := by
  cases i <;> rfl

/-- R33: a mode that is not one of the three. -/
theorem orderSetRef_bad {mode : Byte} (h : 2 < mode.toNat) (slot : Nat) (s : State) :
    orderSetRef mode slot s = finish slot .badField s := by
  unfold orderSetRef
  split
  · omega
  · omega
  · omega
  · rfl

/-- R31: the active input after SET-REF AUTO, as its table says it. -/
theorem autoInput_table (s : State) :
    let pref := s.rfi.preference
    let other := otherInput pref
    let up := fun i => (refIn s i).qual = .qualified
    let stays := s.rfi.active = some other
    autoInput s = if stays ∧ up other then some other else if up pref then some pref
      else if up other ∧ ¬ stays then some other else none := by
  intro pref other up stays
  unfold autoInput
  by_cases hfirst : stays ∧ up other
  · exact (if_pos hfirst).trans (if_pos hfirst).symm
  refine (if_neg hfirst).trans (Eq.trans ?_ (if_neg hfirst).symm)
  by_cases hpref : up pref
  · exact (if_pos hpref).trans (if_pos hpref).symm
  refine (if_neg hpref).trans (Eq.trans ?_ (if_neg hpref).symm)
  by_cases hother : up other
  · exact (if_pos hother).trans (if_pos ⟨hother, fun hs => hfirst ⟨hs, hother⟩⟩).symm
  · exact (if_neg hother).trans (if_neg fun h => hother h.1).symm

/-- R31 to R33: what SET-REF leaves that selects the mode `m` and the active input `active`. -/
def setRefServed (src : OrderSrc) (mode : Byte) (m : SelMode) (active : Option RefInput) (s : State) : Prop :=
  ∃ t, exec (.setRef src mode) s = .next t ∧ t.mem = s.mem ∧
    storeEntry t src.slot.val = storeEntry (answered src (.setRef mode) .ok [] s) src.slot.val ∧
    selected m t.rfi.active .order s t ∧ t.rfi.inputs = s.rfi.inputs ∧ t.rfi.preference = s.rfi.preference ∧
    t.rfi.mode = m ∧ t.rfi.active = active ∧
    t.rfi.revertAt = (if m = .auto ∧ t.rfi.active = some (otherInput s.rfi.preference) ∧
      (refIn s s.rfi.preference).qual = .qualified then some (s.rfi.revertAt.getD (now s + 960000000000)) else none)

section
variable {src : OrderSrc} {mode : Byte} {s : State}

theorem setRef_served {m : SelMode} {active : Option RefInput}
    (hx : exec (.setRef src mode) s = .next (finish src.slot.val .ok (applySelection m active .order
      (takeOrder src.slot.val src.cookie (.setRef mode) s)))) : setRefServed src mode m active s := by
  have hsel := selected_order (r := .ok) (applySelection_selected m active .order
    (takeOrder src.slot.val src.cookie (.setRef mode) s))
  have hst : storeEntry (finish src.slot.val .ok (applySelection m active .order
      (takeOrder src.slot.val src.cookie (.setRef mode) s))) src.slot.val =
      storeEntry (answered src (.setRef mode) .ok [] s) src.slot.val :=
    storeEntry_worked rfl (applySelection_hands (.refl _)).store
  obtain ⟨hmem, hin, hpref, -⟩ := selected_rest hsel
  have hrfi := hsel.2.1
  have hactive : (finish src.slot.val .ok (applySelection m active .order
      (takeOrder src.slot.val src.cookie (.setRef mode) s))).rfi.active = active := by rw [hrfi]
  refine ⟨_, hx, hmem, hst, by rw [hactive]; exact hsel, hin, hpref, by rw [hrfi], hactive, ?_⟩
  rw [hactive, hrfi]

/-- R33: a forced input. -/
theorem exec_setRef_force (hfree : canTake s src.slot.val = true) (i : RefInput) (hm : mode = if i = .a then 1 else 2) :
    ((refIn s i).qual ≠ .qualified → exec (.setRef src mode) s = .next (answered src (.setRef mode) .notQualified [] s)) ∧
    ((refIn s i).qual = .qualified → setRefServed src mode (.force i) (some i) s) := by
  have hexec : exec (.setRef src mode) s =
      .next (orderSetRef mode src.slot.val (takeOrder src.slot.val src.cookie (.setRef mode) s)) :=
    congrArg _ (handOver_run (.setRef mode) (orderSetRef mode) hfree)
  have hqual : qualified (takeOrder src.slot.val src.cookie (.setRef mode) s) i = true ↔ (refIn s i).qual = .qualified :=
    qualified_iff _ i
  have horder := orderSetRef_force i src.slot.val (takeOrder src.slot.val src.cookie (.setRef mode) s)
  rw [← hm] at horder
  refine ⟨fun hq => ?_, fun hq => setRef_served ?_⟩
  · rw [hexec, horder, if_neg (fun h => hq (hqual.1 h)), finish_take]
  · rw [hexec, horder, if_pos (hqual.2 hq)]

end

/-- Settles O27: AUTO, either forced mode, and any other mode. -/
theorem setRefSelects : Obligations.SetRefSelects := by
  intro s src mode hfree refused
  have hexec : exec (.setRef src mode) s =
      .next (orderSetRef mode src.slot.val (takeOrder src.slot.val src.cookie (.setRef mode) s)) :=
    congrArg _ (handOver_run (.setRef mode) (orderSetRef mode) hfree)
  have hmodes : mode = 0 ∨ mode = 1 ∨ mode = 2 ∨ 2 < mode.toNat := by
    by_cases h : 2 < mode.toNat
    · exact .inr (.inr (.inr h))
    · have : mode.toNat = 0 ∨ mode.toNat = 1 ∨ mode.toNat = 2 := by omega
      rcases this with h | h | h
      · exact .inl (BitVec.eq_of_toNat_eq h)
      · exact .inr (.inl (BitVec.eq_of_toNat_eq h))
      · exact .inr (.inr (.inl (BitVec.eq_of_toNat_eq h)))
  rcases hmodes with rfl | rfl | rfl | hbad
  · refine ⟨fun r h => by simp [refused] at h, fun _ => ?_⟩
    obtain ⟨t, hx, hmem, hst, hsel, hin, hpref, hmode, hactive, hrevert⟩ :=
      setRef_served (hexec.trans (congrArg _ (orderSetRef_auto src.slot.val _)))
    have hchoice := autoChoice_eq (takeOrder src.slot.val src.cookie (.setRef 0) s)
    exact ⟨t, hx, hmem, hst, fun m hm => hm ▸ hsel, hin, hpref, hmode, hactive.trans (hchoice.trans (autoInput_table s)),
      by simpa using hrevert⟩
  · obtain ⟨hno, hyes⟩ := exec_setRef_force hfree .a (show (1 : Byte) = _ from rfl)
    by_cases hq : (refIn s .a).qual = .qualified
    · refine ⟨fun r h => by simp [refused, hq] at h, fun _ => ?_⟩
      obtain ⟨t, hx, hmem, hst, hsel, hin, hpref, hmode, hactive, hrevert⟩ := hyes hq
      exact ⟨t, hx, hmem, hst, fun m hm => hm ▸ hsel, hin, hpref, hmode, hactive, by simpa using hrevert⟩
    · have hrefused : refused = some .notQualified := by simp [refused, hq]
      rw [hrefused]
      exact ⟨fun r h => by cases h; exact hno hq, fun h => by cases h⟩
  · obtain ⟨hno, hyes⟩ := exec_setRef_force hfree .b (show (2 : Byte) = _ from rfl)
    by_cases hq : (refIn s .b).qual = .qualified
    · refine ⟨fun r h => by simp [refused, hq] at h, fun _ => ?_⟩
      obtain ⟨t, hx, hmem, hst, hsel, hin, hpref, hmode, hactive, hrevert⟩ := hyes hq
      exact ⟨t, hx, hmem, hst, fun m hm => hm ▸ hsel, hin, hpref, hmode, hactive, by simpa using hrevert⟩
    · have hrefused : refused = some .notQualified := by simp [refused, hq]
      rw [hrefused]
      exact ⟨fun r h => by cases h; exact hno hq, fun h => by cases h⟩
  · have hrefused : refused = some .badField := if_pos hbad
    rw [hrefused]
    refine ⟨fun r h => ?_, fun h => by cases h⟩
    cases h
    rw [hexec, orderSetRef_bad hbad, finish_take]

/-! ### REF-SETUP (R19) -/

section
variable {i : RefInput} {s : State} {a : RefIn} {pref : RefInput}

/-- `s` with input `i` as `a` says and this preference. -/
def refWritten (i : RefInput) (pref : RefInput) (a : RefIn) (s : State) : State :=
  { s with rfi := { s.rfi with preference := pref, inputs := modInput i (fun _ => a) s.rfi.inputs } }

theorem refIn_refWritten : refIn (refWritten i pref a s) i = a := by cases i <;> rfl

theorem refIn_refWritten_other : refIn (refWritten i pref a s) (otherInput i) = refIn s (otherInput i) := by cases i <;> rfl

theorem modRef_refWritten (f : RefIn → RefIn) : modRef i f (refWritten i pref a s) = refWritten i pref (f a) s := by
  cases i <;> rfl

theorem refWritten_settings (st : RefSettings) (s : State) :
    modRfi (fun r => { r with preference := pref }) (modRef i (fun r => { r with settings := st }) s) =
      refWritten i pref { refIn s i with settings := st } s := by
  cases i <;> rfl

/-- R28: an input that is disabled. -/
theorem changeQual_disabled (cause : RefStateCause) (s : State) :
    changeQual i .disabled cause s = stage (.refState i (refIn s i).qual .disabled cause (refIn s i).counters)
      (modRef i (fun r => { r with
        qual := .disabled, goodRun := 0, nonGoodRun := 0, pulse := none, stuckEpisode := false, assembly := none, fifo := []
        lossAt := none }) s) := by
  have hunfold : changeQual i .disabled cause s = stage (.refState i (refIn s i).qual .disabled cause
      (refIn (modRef i (fun r => { r with
        qual := .disabled, goodRun := 0, nonGoodRun := 0, pulse := none, stuckEpisode := false, assembly := none, fifo := []
        lossAt := none }) s) i).counters)
      (modRef i (fun r => { r with
        qual := .disabled, goodRun := 0, nonGoodRun := 0, pulse := none, stuckEpisode := false, assembly := none, fifo := []
        lossAt := none }) s) := rfl
  rw [hunfold, refIn_modRef]

/-- R19: the settings of REF-SETUP. -/
theorem refSettingsOf_eq (p : RefSetupP) (baud : Baud) : refSettingsOf p baud =
    { enable := p.enable != 0, baud := baud, minWidth := max 100 (min 100000 p.minWidth.toNat) / 100 * 100
      longWidth := max 1 (min 200 p.longWidth.toNat), cableDelay := min p.cableDelay.toNat 1600000 } := by
  have hround : ∀ m : Nat, m - m % 100 = m / 100 * 100 := fun m => by omega
  simp only [refSettingsOf, hround, clampNat_eq]
  rfl

theorem refSetup_result (p : RefSetupP) (st : RefSettings) : okOr (refAdjusted p st) =
    if st.minWidth = p.minWidth.toNat ∧ st.longWidth = p.longWidth.toNat ∧ st.cableDelay = p.cableDelay.toNat
      then .ok else .adjusted := by
  unfold okOr refAdjusted
  by_cases h1 : st.minWidth = p.minWidth.toNat <;> by_cases h2 : st.longWidth = p.longWidth.toNat <;>
    by_cases h3 : st.cableDelay = p.cableDelay.toNat <;> simp [h1, h2, h3]

theorem inputOf_none {b : Byte} (h : 1 < b.toNat) : inputOf b = none := by
  have h0 : b ≠ 0 := fun e => by subst e; exact absurd h (by decide)
  have h1 : b ≠ 1 := fun e => by subst e; exact absurd h (by decide)
  rw [inputOf, if_neg h0, if_neg h1]

theorem baudOf_none {b : Byte} (h : 3 < b.toNat) : baudOf b = none := by
  have hne : ∀ k : Byte, k.toNat ≤ 3 → b ≠ k := fun k hk e => by subst e; omega
  rw [baudOf, if_neg (hne 0 (by decide)), if_neg (hne 1 (by decide)), if_neg (hne 2 (by decide)), if_neg (hne 3 (by decide))]

/-- R19, R28: the input of REF-SETUP after its settings and its enabling or disabling. -/
def refAfter (st : RefSettings) (r : RefIn) : RefIn :=
  if r.qual = .disabled ∧ st.enable = true then { r with
    settings := st, qual := .absent, goodRun := 0, nonGoodRun := 0, interval := none, labelMem := none, fifo := []
    assembly := none, lossAt := none }
  else if r.qual ≠ .disabled ∧ st.enable = false then { r with
    settings := st, qual := .disabled, goodRun := 0, nonGoodRun := 0, pulse := none, stuckEpisode := false, fifo := []
    assembly := none, lossAt := none }
  else { r with
    settings := st, assembly := if r.qual ≠ .disabled ∧ st.baud ≠ r.settings.baud then none else r.assembly }

/-- R19, R28: the settings written, with the REF_STATE record of a change of qualification state. -/
def refRecorded (i : RefInput) (st : RefSettings) (r : RefIn) (written : State) : State :=
  if r.qual = .disabled ∧ st.enable = true then stage (.refState i .disabled .absent .enable r.counters) written
  else if r.qual ≠ .disabled ∧ st.enable = false then stage (.refState i r.qual .disabled .disable r.counters) written
  else written

/-- R19, R28: the effect of written settings. -/
theorem refEnableEffect_eq (st : RefSettings) (s : State) :
    let r := refIn s i
    let recorded := refRecorded i st r (refWritten i pref (refAfter st r) s)
    refEnableEffect i st.enable (r.settings.baud != st.baud) (refWritten i pref { r with settings := st } s) =
      if (r.qual ≠ .disabled ∧ st.enable = false) ∧ r.qual = .qualified then reselect .qualification recorded else recorded := by
  intro r recorded
  have hin : refIn (refWritten i pref { r with settings := st } s) i = { r with settings := st } := refIn_refWritten
  have hwas : qualified (refWritten i pref { r with settings := st } s) i = true ↔ r.qual = .qualified := by
    rw [qualified_iff, hin]
  unfold refEnableEffect
  dsimp only
  rw [hin]
  by_cases hdis : r.qual = .disabled
  · have hno : ¬ ((r.qual ≠ .disabled ∧ st.enable = false) ∧ r.qual = .qualified) := fun h => h.1.1 hdis
    rw [if_pos hdis, if_neg hno]
    by_cases hen : st.enable = true
    · have hrec : recorded = stage (.refState i .disabled .absent .enable r.counters) (refWritten i pref { r with
          settings := st, qual := .absent, goodRun := 0, nonGoodRun := 0, interval := none, labelMem := none, fifo := []
          assembly := none, lossAt := none } s) := by
        simp only [recorded, refRecorded, refAfter, hdis, hen, and_self, if_true]
      rw [if_pos hen, hrec, modRef_refWritten, changeQual_absent, modRef_refWritten, refIn_refWritten]
      simp only [hdis]
    · rw [if_neg hen]
      simp [recorded, refRecorded, refAfter, hdis, hen]
  · rw [if_neg hdis]
    by_cases hen : st.enable = true
    · have hno : ¬ ((r.qual ≠ .disabled ∧ st.enable = false) ∧ r.qual = .qualified) := fun h => by simp [hen] at h
      have hrec : recorded = refWritten i pref { r with
          settings := st, assembly := if st.baud ≠ r.settings.baud then none else r.assembly } s := by
        simp [recorded, refRecorded, refAfter, hdis, hen]
      rw [if_pos hen, if_neg hno, hrec]
      by_cases hb : st.baud = r.settings.baud
      · rw [if_neg (by simp [hb]), if_neg (by simp [hb])]
      · rw [if_pos (by simpa using Ne.symm hb), if_pos hb, modRef_refWritten]
    · have hoff : st.enable = false := by simpa using hen
      have hrec : recorded = changeQual i .disabled .disable (refWritten i pref { r with settings := st } s) := by
        rw [changeQual_disabled, modRef_refWritten, refIn_refWritten]
        simp [recorded, refRecorded, refAfter, hdis, hoff]
      have hunq : qualified recorded i = false := by
        rw [hrec, changeQual_disabled, qualified, refIn_stage, refIn_modRef]
        rfl
      rw [if_neg hen, ← hrec, reselectIfChanged, hunq]
      by_cases hq : r.qual = .qualified
      · rw [hwas.2 hq, if_neg Bool.false_ne_true, if_pos ⟨⟨hdis, hoff⟩, hq⟩]
      · rw [Bool.eq_false_iff.2 (fun h => hq (hwas.1 h)), if_pos rfl, if_neg (fun h => hq h.2)]

theorem refRecorded_rest (st : RefSettings) (r : RefIn) (w : State) :
    (refRecorded i st r w).mem = w.mem ∧ (refRecorded i st r w).rfi = w.rfi ∧
    (refRecorded i st r w).xch.store = w.xch.store := by
  unfold refRecorded
  (repeat' split) <;> simp

theorem orderRefSetup_bad {p : RefSetupP} (h : 1 < p.input.toNat ∨ 3 < p.baud.toNat ∨ 1 < p.preference.toNat) (slot : Nat)
    (s : State) : orderRefSetup p slot s = finish slot .badField s := by
  unfold orderRefSetup
  rcases h with h | h | h
  · rw [inputOf_none h]
  · rw [baudOf_none h]
    cases inputOf p.input <;> rfl
  · rw [inputOf_none h]
    cases inputOf p.input <;> cases baudOf p.baud <;> rfl

/-- R19: REF-SETUP that passes its checks. -/
theorem orderRefSetup_passed {p : RefSetupP} {baud : Baud} (hi : inputOf p.input = some i) (hb : baudOf p.baud = some baud)
    (hp : inputOf p.preference = some pref) (slot : Nat) (s : State) :
    let st := refSettingsOf p baud
    let s2 := refEnableEffect i st.enable ((refIn s i).settings.baud != st.baud)
      (refWritten i pref { refIn s i with settings := st } s)
    orderRefSetup p slot s = finish slot (okOr (refAdjusted p st)) (if s.rfi.preference != pref then reselect .preference s2 else s2) := by
  intro st s2
  rw [orderRefSetup, hi, hb, hp]
  simp only [refWritten_settings]
  rfl

end

/-- Settles O28: a bad field; else the settings, `refEnableEffect_eq`, and the re-evaluation for a changed preference. -/
theorem refSetupWritesSettings : Obligations.RefSetupWritesSettings := by
  intro s src p hfree
  have hexec : exec (.refSetup src p) s =
      .next (orderRefSetup p src.slot.val (takeOrder src.slot.val src.cookie (.refSetup p) s)) :=
    congrArg _ (handOver_run (.refSetup p) (orderRefSetup p) hfree)
  refine ⟨fun h => by rw [hexec, orderRefSetup_bad h, finish_take], fun i pref baud hi hb hp => ?_⟩
  intro width st r enters leaves after taken written recorded
  have hst : refSettingsOf p baud = st := refSettingsOf_eq p baud
  have hrecorded : recorded = refRecorded i st r (refWritten i pref (refAfter st r) taken) := rfl
  obtain ⟨hmem, hrfi, hstore⟩ := refRecorded_rest (i := i) st r (refWritten i pref (refAfter st r) taken)
  rw [← hrecorded] at hmem hrfi hstore
  have hafter : refIn recorded i = after := by
    rw [refIn, hrfi]; exact refIn_refWritten (s := taken)
  have hother : refIn recorded (otherInput i) = refIn s (otherInput i) := by
    rw [refIn, hrfi]; exact refIn_refWritten_other (s := taken)
  have hpref : recorded.rfi.preference = pref := by rw [hrfi]; rfl
  let u := if leaves ∧ r.qual = .qualified then reselect .qualification recorded else recorded
  let v := if s.rfi.preference != pref then reselect .preference u else u
  have huHands : Hands recorded u := by
    by_cases hl : leaves ∧ r.qual = .qualified
    · simp only [u, if_pos hl]; exact reselect_hands (.refl _)
    · simp only [u, if_neg hl]; exact .refl _
  have hvHands : Hands u v := by
    by_cases hl : (s.rfi.preference != pref) = true
    · simp only [v, if_pos hl]; exact reselect_hands (.refl _)
    · simp only [v, if_neg hl]; exact .refl _
  have huSel : leaves ∧ r.qual = .qualified → reselected .qualification recorded u := fun hl => by
    simp only [u, if_pos hl]; exact reselect_reselected _ _
  have huSame : ¬ (leaves ∧ r.qual = .qualified) → u = recorded := fun hl => if_neg hl
  have hvSel : pref ≠ s.rfi.preference → reselected .preference u v := fun hl => by
    simp only [v, if_pos (show (s.rfi.preference != pref) = true by simpa using Ne.symm hl)]
    exact reselect_reselected _ _
  have hvSame : pref = s.rfi.preference → v = u := fun hl => if_neg (by simp [hl])
  have huRest : u.mem = recorded.mem ∧ u.rfi.inputs = recorded.rfi.inputs ∧ u.rfi.preference = recorded.rfi.preference := by
    by_cases hl : leaves ∧ r.qual = .qualified
    · obtain ⟨h1, h2, h3, -⟩ := reselected_rest (huSel hl)
      exact ⟨h1, h2, h3⟩
    · rw [huSame hl]
      exact ⟨rfl, rfl, rfl⟩
  have hvRest : v.mem = u.mem ∧ v.rfi.inputs = u.rfi.inputs ∧ v.rfi.preference = u.rfi.preference := by
    by_cases hl : pref = s.rfi.preference
    · rw [hvSame hl]
      exact ⟨rfl, rfl, rfl⟩
    · obtain ⟨h1, h2, h3, -⟩ := reselected_rest (hvSel hl)
      exact ⟨h1, h2, h3⟩
  have horder : orderRefSetup p src.slot.val (takeOrder src.slot.val src.cookie (.refSetup p) s) =
      finish src.slot.val (okOr (refAdjusted p st)) v := by
    rw [orderRefSetup_passed hi hb hp, hst]
    have heffect := refEnableEffect_eq (i := i) (pref := pref) st (takeOrder src.slot.val src.cookie (.refSetup p) s)
    exact congrArg (fun x => finish src.slot.val (okOr (refAdjusted p st))
      (if s.rfi.preference != pref then reselect .preference x else x)) heffect
  have hresult := refSetup_result p st
  have hinputs : v.rfi.inputs = recorded.rfi.inputs := hvRest.2.1.trans huRest.2.1
  refine ⟨finish src.slot.val (okOr (refAdjusted p st)) v, u, v, by rw [hexec, horder], huSel, huSame, hvSel, hvSame, ?_,
    hvRest.1.trans (huRest.1.trans hmem), (refIn_of_inputs hinputs i).trans hafter,
    (refIn_of_inputs hinputs _).trans hother, hvRest.2.2.trans (huRest.2.2.trans hpref), ?_, ?_, ?_⟩
  · rw [hresult]; rfl
  · rw [show refIn (finish src.slot.val (okOr (refAdjusted p st)) v) i = after from (refIn_of_inputs hinputs i).trans hafter]
    simp only [after]
    (repeat' split) <;> rfl
  · rw [show refIn (finish src.slot.val (okOr (refAdjusted p st)) v) i = after from (refIn_of_inputs hinputs i).trans hafter]
    simp only [after]
    (repeat' split) <;> rfl
  · rw [hresult]
    exact storeEntry_worked rfl (hvHands.store.trans (huHands.store.trans hstore))

/-! ### Messages (R23, R24) -/

theorem fixStatusOf_isNone (b : Byte) : (fixStatusOf b).isNone = decide (2 < b.toNat) := by
  revert b
  decide

theorem leapFlagsOf_isNone (b : Byte) : (leapFlagsOf b).isNone = decide (2 < b.toNat) := by
  revert b
  decide

/-- R23: the characters at which a message is found bad before its checksum. -/
theorem charBad_iff (n : Nat) (c : Character) : charBad n c = true ↔
    c.framed = false ∨ (n = 2 ∧ c.bits ≠ 14) ∨ (n = 8 ∧ 2 < c.bits.toNat) ∨ (n = 13 ∧ 2 < c.bits.toNat) := by
  simp only [charBad, fixStatusOf_isNone, leapFlagsOf_isNone, Bool.or_eq_true, Bool.and_eq_true, Bool.not_eq_true', beq_iff_eq,
    bne_iff_ne, decide_eq_true_eq, or_assoc]

section
variable {i : RefInput} {s : State} {c : Character} {a : Assembly}

theorem messageChar_disabled (h : (refIn s i).qual = .disabled) : messageChar i c s = s := if_pos h

theorem messageChar_hunting (he : (refIn s i).qual ≠ .disabled) (ha : (refIn s i).assembly = none) : messageChar i c s =
    if c.bits = 0xA7 then modRef i (fun r => { r with assembly := some ⟨[c.bits], s.tbs.stamp c.stop⟩ }) s else s := by
  rw [messageChar, if_neg he, ha]
  rfl

/-- R23: a character of a message in assembly. -/
theorem messageChar_assembling (he : (refIn s i).qual ≠ .disabled) (ha : (refIn s i).assembly = some a) : messageChar i c s =
    if charBad (a.chars.length + 1) c = true then badMessage i s
    else if a.chars.length + 1 < 14 then
      modRef i (fun r => { r with assembly := some ⟨a.chars ++ [c.bits], s.tbs.stamp c.stop⟩ }) s
    else match parseMessage (a.chars ++ [c.bits]) (s.tbs.stamp c.stop) with
      | none => badMessage i s
      | some m => completeMessage i m s := by
  rw [messageChar, if_neg he, ha]
  simp only [List.length_append, List.length_singleton] <;> rfl

/-- `s` with these characters of a message in assembly. -/
def assembling (i : RefInput) (cs : List Byte) (t : Nat) (s : State) : State :=
  modRef i (fun r => { r with assembly := some ⟨cs, t⟩ }) s

theorem refIn_assembling (cs : List Byte) (t : Nat) (s : State) :
    refIn (assembling i cs t s) i = { refIn s i with assembly := some ⟨cs, t⟩ } := refIn_modRef i _ s

/-- R23: a run of characters none of which breaks a check extends the message. -/
theorem forEach_messageChar (he : (refIn s i).qual ≠ .disabled) (xs : List Character) (cs : List Byte) (t : Nat)
    (hlen : cs.length + xs.length ≤ 13)
    (hgood : ∀ k (hk : k < xs.length), charBad (cs.length + 1 + k) xs[k] = false) :
    ∃ t', forEach xs (messageChar i) (assembling i cs t s) = assembling i (cs ++ xs.map (·.bits)) t' s := by
  induction xs generalizing cs t with
  | nil => exact ⟨t, by simp [forEach]⟩
  | cons x xs ih =>
    have hin := refIn_assembling (i := i) cs t s
    have hlen' : cs.length + (xs.length + 1) ≤ 13 := hlen
    have hstep : messageChar i x (assembling i cs t s) = assembling i (cs ++ [x.bits]) (s.tbs.stamp x.stop) s := by
      have hgood0 : charBad (cs.length + 1) x = false := hgood 0 (Nat.zero_lt_succ _)
      rw [messageChar_assembling (a := ⟨cs, t⟩) (by rw [hin]; exact he) (by rw [hin]), hgood0, if_neg Bool.false_ne_true,
        if_pos (by change cs.length + 1 < 14; omega)]
      exact modRef_modRef i _ _ s
    obtain ⟨t', ht'⟩ := ih (cs ++ [x.bits]) (s.tbs.stamp x.stop) (by simp; omega) fun k hk => by
      have hplace : (cs ++ [x.bits]).length + 1 + k = cs.length + 1 + (k + 1) := by
        rw [List.length_append, List.length_singleton]; omega
      rw [hplace]
      exact hgood (k + 1) (Nat.succ_lt_succ hk)
    refine ⟨t', ?_⟩
    rw [show forEach (x :: xs) (messageChar i) (assembling i cs t s) =
      forEach xs (messageChar i) (messageChar i x (assembling i cs t s)) from rfl, hstep, ht']
    simp

/-- R24: a whole message. -/
theorem completeMessage_assembling (ha : (refIn s i).assembly = none) (cs : List Byte) (t : Nat) (m : RefMsg) :
    completeMessage i m (assembling i cs t s) =
      if (refIn s i).fifo.length < 2 then modRef i (fun r => { r with fifo := r.fifo ++ [m] }) s
      else
        let counters := { (refIn s i).counters with overrun := min ((refIn s i).counters.overrun + 1) 65535 }
        stage (.msgOverrun i m.label counters) (modRef i (fun r => { r with counters := counters }) s) := by
  have hin := refIn_assembling (i := i) cs t s
  rw [completeMessage, hin]
  by_cases hroom : (refIn s i).fifo.length < 2
  · rw [if_pos hroom, if_pos hroom, assembling, modRef_modRef]
    exact modRef_congr (by rw [← ha])
  · have hlost : modRef i (fun r => { r with
        assembly := none, counters := { r.counters with overrun := incSat16 r.counters.overrun } }) (assembling i cs t s) =
        modRef i (fun r => { r with
          counters := { (refIn s i).counters with overrun := min ((refIn s i).counters.overrun + 1) 65535 } }) s := by
      rw [assembling, modRef_modRef]
      refine modRef_congr ?_
      rw [← ha]
      rfl
    rw [if_neg hroom, if_neg hroom, hlost]
    exact congrArg (fun r : RefIn => stage (.msgOverrun i m.label r.counters) _) (refIn_modRef i _ s)

end

/-- Two bytes as a signed number, the first the more significant. -/
theorem signed_append (hi lo : Byte) : signed 16 (256 * hi.toNat + lo.toNat) = (hi ++ lo).toInt := by
  rw [signed]
  congr 1
  refine BitVec.eq_of_toNat_eq ?_
  have hhi := hi.isLt
  have hlo := lo.isLt
  rw [BitVec.toNat_ofNat, BitVec.toNat_append, ← Nat.shiftLeft_add_eq_or_of_lt hlo, Nat.shiftLeft_eq]
  omega

/-- R23: the checksum of 14 characters that sum to 0 modulo 256. -/
theorem sum_toNat (xs : List Byte) : (xs.map BitVec.toNat).sum % 256 = (xs.foldl (· + ·) 0 : Byte).toNat := by
  have hgen : ∀ (xs : List Byte) (z : Byte), (z.toNat + (xs.map BitVec.toNat).sum) % 256 = (xs.foldl (· + ·) z).toNat := by
    intro xs
    induction xs with
    | nil => intro z; simpa using z.isLt
    | cons x xs ih =>
      intro z
      rw [List.foldl_cons, ← ih, BitVec.toNat_add, List.map_cons, List.sum_cons]
      omega
  simpa using hgen xs 0

/-- Ch. 11.7: the fields of a message of 14 characters. -/
theorem parseMessage_whole {l4 l3 l2 l1 l0 status acc1 acc0 utc1 utc0 leap sum : Byte} {st : FixStatus} {lp : LeapFlags} (t : Nat)
    (hst : fixStatusOf status = some st) (hlp : leapFlagsOf leap = some lp)
    (hsum : 0xA7 + 14 + l4 + l3 + l2 + l1 + l0 + status + acc1 + acc0 + utc1 + utc0 + leap + sum = 0) :
    parseMessage [0xA7, 14, l4, l3, l2, l1, l0, status, acc1, acc0, utc1, utc0, leap, sum] t = some {
      label := (((l4.toNat * 256 + l3.toNat) * 256 + l2.toNat) * 256 + l1.toNat) * 256 + l0.toNat
      status := st, accuracy := acc1.toNat * 256 + acc0.toNat, utcOffset := (utc1 ++ utc0).toInt, leap := lp, completed := t } := by
  have hzero : (([0xA7, 14, l4, l3, l2, l1, l0, status, acc1, acc0, utc1, utc0, leap, sum] : List Byte).map BitVec.toNat).sum % 256 =
      0 := by
    rw [sum_toNat]
    simp only [List.foldl_cons, List.foldl_nil]
    rw [show (0 + 0xA7 : Byte) = 0xA7 from rfl, hsum]
    rfl
  have hs7 : fixStatusOf (byteAt [0xA7, 14, l4, l3, l2, l1, l0, status, acc1, acc0, utc1, utc0, leap, sum] 7) = some st := hst
  have hs12 : leapFlagsOf (byteAt [0xA7, 14, l4, l3, l2, l1, l0, status, acc1, acc0, utc1, utc0, leap, sum] 12) = some lp := hlp
  rw [parseMessage, hs7, hs12]
  simp only [if_pos hzero, fieldBe_succ, fieldBe_zero]
  rw [← signed_append]
  simp [Nat.mul_comm 256]

/-- Settles O26: a character by the state of the assembly; a whole message as a start, a run of twelve, and its last. -/
theorem messagesAssembleAndComplete : Obligations.MessagesAssembleAndComplete := by
  refine ⟨fun s i c => ⟨fun h => ?_, fun he ha => ?_, fun a he ha hlen => ?_, fun a he ha hlen hbad => ?_⟩, ?_⟩
  · exact congrArg Host.Outcome.next (messageChar_disabled h)
  · exact congrArg Host.Outcome.next (messageChar_hunting he ha)
  · refine congrArg Host.Outcome.next ((messageChar_assembling he ha).trans ?_)
    have hiff := charBad_iff (a.chars.length + 1) c
    simp only [show a.chars.length + 1 = 2 ↔ a.chars.length = 1 by omega, show a.chars.length + 1 = 8 ↔ a.chars.length = 7 by omega,
      show a.chars.length + 1 = 13 ↔ a.chars.length = 12 by omega] at hiff
    rw [if_pos (show a.chars.length + 1 < 14 by omega)]
    by_cases hb : charBad (a.chars.length + 1) c = true
    · rw [if_pos hb, if_pos (hiff.1 hb)]
      rfl
    · rw [if_neg hb, if_neg (fun h => hb (hiff.2 h))]
  · refine congrArg Host.Outcome.next ((messageChar_assembling he ha).trans ?_)
    have hdone : ¬ a.chars.length + 1 < 14 := by omega
    by_cases hb : charBad (a.chars.length + 1) c = true
    · rw [if_pos hb]
      rfl
    · have hsum : ((a.chars ++ [c.bits]).map BitVec.toNat).sum % 256 ≠ 0 := by
        rcases hbad with h | h
        · exact absurd ((charBad_iff _ c).2 (.inl h)) hb
        · exact h
      have hparse : parseMessage (a.chars ++ [c.bits]) (s.tbs.stamp c.stop) = none := by
        unfold parseMessage
        split
        · exact if_neg hsum
        · rfl
      rw [if_neg hb, if_neg hdone, hparse]
      rfl
  · intro s i l4 l3 l2 l1 l0 status acc1 acc0 utc1 utc0 leap sum st lp stop he ha hst hlp hsum
    have hstatus : ¬ 2 < status.toNat := by
      have := fixStatusOf_isNone status
      rw [hst] at this
      simpa using this.symm
    have hleap : ¬ 2 < leap.toNat := by
      have := leapFlagsOf_isNone leap
      rw [hlp] at this
      simpa using this.symm
    let char := fun (b : Byte) (k : Nat) => ({ bits := b, framed := true, stop := stop k } : Character)
    let run := [char 14 1, char l4 2, char l3 3, char l2 4, char l1 5, char l0 6, char status 7, char acc1 8, char acc0 9,
      char utc1 10, char utc0 11, char leap 12]
    have hexec : exec (.refMessage i ([0xA7, 14, l4, l3, l2, l1, l0, status, acc1, acc0, utc1, utc0, leap, sum].zipIdx.map
        (fun b => { bits := b.1, framed := true, stop := stop b.2 }))) s =
        .next (messageChar i (char sum 13) (forEach run (messageChar i) (messageChar i (char 0xA7 0) s))) := rfl
    have hstart : messageChar i (char 0xA7 0) s = assembling i [0xA7] (s.tbs.stamp (stop 0)) s :=
      (messageChar_hunting he ha).trans (if_pos rfl)
    obtain ⟨t', hrun⟩ := forEach_messageChar he run [0xA7] (s.tbs.stamp (stop 0)) (by simp [run]) fun k hk => by
      have hk' : k < 12 := hk
      rw [← Bool.not_eq_true, charBad_iff]
      interval_cases k <;> simp [run, char, hstatus, hleap]
    have hchars : [0xA7] ++ run.map (fun c : Character => c.bits) =
        [0xA7, 14, l4, l3, l2, l1, l0, status, acc1, acc0, utc1, utc0, leap] := rfl
    rw [hchars] at hrun
    have hin := refIn_assembling (i := i) [0xA7, 14, l4, l3, l2, l1, l0, status, acc1, acc0, utc1, utc0, leap] t' s
    have hlast : ¬ charBad 14 (char sum 13) = true := by
      rw [charBad_iff]
      simp [char]
    have hfinal := messageChar_assembling (c := char sum 13)
      (a := ⟨[0xA7, 14, l4, l3, l2, l1, l0, status, acc1, acc0, utc1, utc0, leap], t'⟩) (by rw [hin]; exact he) (by rw [hin])
    have hparse := parseMessage_whole (s.tbs.stamp (stop 13)) hst hlp hsum
    rw [hexec, hstart, hrun, hfinal]
    refine congrArg Host.Outcome.next ((if_neg hlast).trans ((if_neg (lt_irrefl 14)).trans ?_))
    refine Eq.trans ?_ (completeMessage_assembling ha [0xA7, 14, l4, l3, l2, l1, l0, status, acc1, acc0, utc1, utc0, leap] t' _)
    change (match parseMessage [0xA7, 14, l4, l3, l2, l1, l0, status, acc1, acc0, utc1, utc0, leap, sum] (s.tbs.stamp (stop 13)) with
      | none => _
      | some m => _) = _
    rw [hparse]

end Sys2Proof.Machine

/-! ## Marks at the servo (R35, R40 to R49) -/

namespace Sys2Proof.Machine

section
variable {s : State}

theorem servo_rest {t : State} (hrfi : t.rfi = s.rfi) (hlnk : t.lnk = s.lnk) (hcrs : t.crs = s.crs) (hrng : t.rng = s.rng)
    (hevc : t.evc = s.evc) (hmem : t.mem = s.mem) (hpend : t.pending = s.pending) :
    t = { s with tbs := t.tbs, dsv := t.dsv, bcu := t.bcu, pou := t.pou, xch := t.xch } := by
  rw [← hrfi, ← hlnk, ← hcrs, ← hrng, ← hevc, ← hmem, ← hpend]

/-- R52, R53: entry to ACQUIRE or TRACK from a state whose servo and timebase alone were changed. -/
theorem enterServo_entered {new : ServoState} {cause : ServoCause} {tb : Timebase} {d : Servo} (hnew : new = .acquire ∨ new = .track) :
    let t := enterServo new cause { s with tbs := tb, dsv := d }
    t = { s with tbs := t.tbs, dsv := t.dsv, bcu := t.bcu, pou := t.pou, xch := t.xch } ∧ t.tbs = tb ∧
      t.dsv = classEvaluated (entryEffects new d) ∧ t.dsv.state = new ∧ t.dsv.lockRun = 0 ∧ t.dsv.labelRun = 0 ∧ t.dsv.gateRun = 0 ∧
      t.dsv.stepOutstanding = d.stepOutstanding ∧ t.dsv.freqHist = d.freqHist ∧ t.dsv.rcvEstimate = d.rcvEstimate ∧
      t.dsv.settings = d.settings ∧ t.dsv.labelCount = d.labelCount ∧ t.dsv.gatedCount = d.gatedCount ∧
      ((∃ r ∈ t.xch.staging, r.body = .servoState d.state new cause t.tbs.phi d.eps t.dsv.labelCount t.dsv.gatedCount) ∨
        64 ≤ t.xch.staging.length) := by
  intro t
  obtain ⟨hdsv, htbs, hrecord, -⟩ := enterServo_spec new cause { s with tbs := tb, dsv := d }
  obtain ⟨hrfi, hlnk, hcrs, hrng, hevc, hmem, hpend⟩ := enterServo_frame new cause { s with tbs := tb, dsv := d }
  have hhold : new ≠ .holdover := by rintro rfl; simp at hnew
  rw [if_neg hhold] at htbs hrecord
  have htbs : t.tbs = tb := htbs
  have hframe : t = { s with tbs := t.tbs, dsv := t.dsv, bcu := t.bcu, pou := t.pou, xch := t.xch } := by
    exact servo_rest hrfi hlnk hcrs hrng hevc hmem hpend
  have hfields : t.dsv.state = new ∧ t.dsv.lockRun = 0 ∧ t.dsv.labelRun = 0 ∧ t.dsv.gateRun = 0 ∧
      t.dsv.stepOutstanding = d.stepOutstanding ∧ t.dsv.freqHist = d.freqHist ∧ t.dsv.rcvEstimate = d.rcvEstimate ∧
      t.dsv.settings = d.settings ∧ t.dsv.labelCount = d.labelCount ∧ t.dsv.gatedCount = d.gatedCount ∧
      (entryEffects new d).eps = d.eps ∧ (entryEffects new d).labelCount = d.labelCount ∧
      (entryEffects new d).gatedCount = d.gatedCount := by
    have hd : t.dsv = classEvaluated (entryEffects new d) := hdsv
    rw [hd]
    rcases hnew with rfl | rfl <;> exact ⟨rfl, rfl, rfl, rfl, rfl, rfl, rfl, rfl, rfl, rfl, rfl, rfl, rfl⟩
  obtain ⟨h1, h2, h3, h4, h5, h6, h7, h8, h9, h10, heps, hlabels, hgated⟩ := hfields
  refine ⟨hframe, htbs, hdsv, h1, h2, h3, h4, h5, h6, h7, h8, h9, h10, ?_⟩
  rw [htbs, h9, h10]
  dsimp only at hrecord
  rw [heps, hlabels, hgated] at hrecord
  exact hrecord.imp (fun ⟨r, hr, hbody⟩ => ⟨r, List.mem_of_mem_drop hr, hbody⟩) id

/-- R50: the error history with |E|, in whole ns, joined to it. -/
def errJoined (e : Int) (h : List Nat) : List Nat :=
  if 8 < (h ++ [(e.natAbs + 15) / 16]).length then (h ++ [(e.natAbs + 15) / 16]).drop 1 else h ++ [(e.natAbs + 15) / 16]

/-- R44: the timebase with Φ and σ written from E. -/
def steeredBy (e : Int) (kp ki : Nat) (tb : Timebase) : Timebase :=
  let sigma := max (-1600000) (min 1600000 (-(e.tdiv (2 ^ kp : Nat))))
  { tb with
    phi := max (-25600000) (min 25600000 (tb.phi - (e * 16).tdiv (2 ^ ki : Nat)))
    slew := if sigma = 0 then ⟨0, 0, 0⟩ else ⟨sigma * 2 ^ 28, (sigma * 2 ^ 28).tdiv 125000000, 125000000⟩ }

theorem correct_eq (e : Int) (kp ki : Nat) (s : State) : correct e kp ki s = { s with tbs := steeredBy e kp ki s.tbs } := by
  have hscale : ∀ x : Int, x * (unitsPerSix : Int) = x * 2 ^ 28 := fun x => rfl
  have hslew : ∀ x : Int, Slew.start x = if max (-1600000) (min 1600000 x) = 0 then ⟨0, 0, 0⟩
      else ⟨max (-1600000) (min 1600000 x) * 2 ^ 28, (max (-1600000) (min 1600000 x) * 2 ^ 28).tdiv 125000000, 125000000⟩ := by
    intro x
    have hclamp : clampSym sigmaLimit x = max (-1600000) (min 1600000 x) := rfl
    simp only [Slew.start, hclamp, hscale]
    by_cases h0 : max (-1600000) (min 1600000 x) = 0
    · rw [if_pos (by rw [h0]; rfl), if_pos h0]
      rfl
    · rw [if_neg (by omega), if_neg h0]
      rfl
  simp only [correct, modTbs, Timebase.writePhi, Timebase.writeSigma, steeredBy, hslew]
  rfl

theorem noteEstimate_eq (m : Mark) (s : State) :
    noteEstimate m s = { s with dsv := { s.dsv with rcvEstimate := m.accuracy.getD s.dsv.rcvEstimate } } := by
  unfold noteEstimate
  cases m.accuracy <;> rfl

theorem phaseError_eq (m : Mark) : phaseError m =
    ((m.stamp % 16000000000 : Nat) : Int) - (if m.stamp % 16000000000 < 8000000000 then 0 else 16000000000) - m.cableDelay := by
  have hw : wrapSecond m.stamp =
      ((m.stamp % 16000000000 : Nat) : Int) - (if m.stamp % 16000000000 < 8000000000 then 0 else 16000000000) := by
    unfold wrapSecond
    have : sixPerSec = 16000000000 := rfl
    rw [this]
    dsimp only
    split <;> split <;> omega
  rw [phaseError, hw]

theorem nearestSecond_eq (stamp : Nat) :
    nearestSecond stamp = stamp / 16000000000 + (if stamp % 16000000000 < 8000000000 then 0 else 1) := by
  have : sixPerSec = 16000000000 := rfl
  rw [nearestSecond, this]
  split <;> rfl

theorem labelDisagrees_iff (m : Mark) : labelDisagrees m = true ↔ ∃ l, m.label = some l ∧ l ≠ nearestSecond m.stamp := by
  unfold labelDisagrees
  cases m.label <;> simp

/-- R9, R42, R43: the timebase and the servo after a posted servo step, and the host step it supersedes. -/
theorem servoStep_spec (delta : Int) (s : State) :
    (servoStep delta s).tbs = { s.tbs with posted := some { delta := delta, target := none, origin := .servo } } ∧
    (servoStep delta s).dsv = { s.dsv with errHist := [], lockRun := 0, stepOutstanding := true } ∧
    ∀ p slot en, s.tbs.posted = some p → p.origin = .host slot → storeEntry s slot = some en →
      storeEntry (servoStep delta s) slot = some { en with status := .completed .superseded [] false } := by
  refine ⟨?_, ?_, ?_⟩
  · simp only [servoStep, postServoStep, modDsv, modTbs]
    split <;> simp
  · have hdsv := (postServoStep_frame delta s).2.1
    simp only [servoStep, modDsv, hdsv]
  · rintro ⟨d, target, origin⟩ slot en hp ho hen
    dsimp only at ho
    subst ho
    have hstep : servoStep delta s = modDsv (fun d => { d with errHist := [], lockRun := 0, stepOutstanding := true })
        (modTbs (fun t => { t with posted := some { delta := delta, target := none, origin := .servo } })
          (finish slot .superseded s)) := by
      simp only [servoStep, postServoStep, hp]
    rw [hstep]
    exact (storeEntry_complete slot .superseded [] s).trans (by rw [hen]; rfl)

end

section
variable {i : RefInput} {s t : State}

/-! ### What a mark leaves of the UTC offset (R13) -/

theorem enterServo_utcOffset (new : ServoState) (cause : ServoCause) (s : State) :
    (enterServo new cause s).tbs.utcOffset = s.tbs.utcOffset := by rw [(enterServo_spec new cause s).2.1]

theorem takeNotice_utcOffset (prev new : Option RefInput) (s : State) :
    (takeNotice prev new s).tbs.utcOffset = s.tbs.utcOffset := by
  unfold takeNotice
  split <;> simp only [enterServo_utcOffset, modDsv]

theorem applySelection_utcOffset (mode : SelMode) (active : Option RefInput) (cause : RefChangeCause) (s : State) :
    (applySelection mode active cause s).tbs.utcOffset = s.tbs.utcOffset := by
  simp only [applySelection, selectionNotice]
  (repeat' split) <;> simp [takeNotice_utcOffset]

theorem reselect_utcOffset (cause : RefChangeCause) (s : State) : (reselect cause s).tbs.utcOffset = s.tbs.utcOffset := by
  unfold reselect
  (repeat' split) <;> simp only [applySelection_utcOffset]

theorem trackMark_utcOffset (m : Mark) (s : State) : (trackMark m s).tbs.utcOffset = s.tbs.utcOffset := by
  simp only [trackMark, gateMark, correct_eq]
  (repeat' split) <;> simp only [enterServo_utcOffset, modDsv, steeredBy]

theorem acquireMark_utcOffset (m : Mark) (s : State) : (acquireMark m s).tbs.utcOffset = s.tbs.utcOffset := by
  simp only [acquireMark, countLock, correct_eq]
  (repeat' split) <;> simp only [enterServo_utcOffset, modDsv, steeredBy, (servoStep_spec _ _).1]

theorem handleMark_utcOffset (m : Mark) (s : State) : (handleMark m s).tbs.utcOffset = s.tbs.utcOffset := by
  unfold handleMark
  split <;> simp only [acquireMark_utcOffset, trackMark_utcOffset, noteEstimate_eq]

/-! ### The judgement of an accepted mark (R27, R28) -/

/-- R27 to R29: an input after the judgement of an accepted mark. -/
def judgedRef (good : Bool) (rise : Nat) (msg : Option RefMsg) (r : RefIn) : RefIn :=
  let run := if r.qual = .absent then 0 else r.goodRun
  { r with
    labelMem := msg.map (·.label), lossAt := some (rise + 48000000000)
    qual := if r.qual = .qualified then (if good = false ∧ 3 ≤ r.nonGoodRun + 1 then .qualifying else .qualified)
      else if good = true ∧ 4 ≤ run + 1 then .qualified else .qualifying
    goodRun := if r.qual = .qualified then (if good = false ∧ 3 ≤ r.nonGoodRun + 1 then 0 else r.goodRun)
      else if good = true ∧ run + 1 < 4 then run + 1 else 0
    nonGoodRun := if r.qual = .qualified then (if good = false ∧ r.nonGoodRun + 1 < 3 then r.nonGoodRun + 1 else 0)
      else if r.qual = .absent ∨ (good = true ∧ 4 ≤ run + 1) then 0 else r.nonGoodRun }

/-- R28: the REF_STATE record, if any, of a judgement that takes the input from `was` to `r`. -/
def qualRecorded (i : RefInput) (was : Qual) (r : RefIn) (s : State) : State :=
  let left := fun (new : Qual) (cause : RefStateCause) => stage (.refState i was new cause r.counters) s
  match was, r.qual with
  | .absent, _ => left .qualifying .pulse
  | .qualifying, .qualified => left .qualified .goodRun
  | .qualified, .qualifying => left .qualifying .nonGoodRun
  | _, _ => s

theorem modRef_stage (f : RefIn → RefIn) (body : JournalBody) (s : State) :
    modRef i f (stage body s) = stage body (modRef i f s) := by
  unfold stage
  by_cases h : s.xch.staging.length < 64
  · rw [if_pos h, if_pos (show (modRef i f s).xch.staging.length < 64 from h)]; rfl
  · rw [if_neg h, if_neg (show ¬ (modRef i f s).xch.staging.length < 64 from h)]; rfl

/-- R28: a change to QUALIFYING or QUALIFIED. -/
theorem changeQual_alive {new : Qual} (cause : RefStateCause) (s : State) (hnew : new = .qualifying ∨ new = .qualified) :
    changeQual i new cause s = stage (.refState i (refIn s i).qual new cause (refIn s i).counters)
      (modRef i (fun r => { r with qual := new, goodRun := 0, nonGoodRun := 0 }) s) := by
  have hunfold : changeQual i new cause s = stage (.refState i (refIn s i).qual new cause
      (refIn (modRef i (fun r => { r with qual := new, goodRun := 0, nonGoodRun := 0 }) s) i).counters)
      (modRef i (fun r => { r with qual := new, goodRun := 0, nonGoodRun := 0 }) s) := by
    rcases hnew with rfl | rfl <;> rfl
  rw [hunfold, refIn_modRef]

/-- R28: such a change between two writes of the input. -/
theorem changeQual_between {new : Qual} {f g : RefIn → RefIn} (cause : RefStateCause) (s : State)
    (hnew : new = .qualifying ∨ new = .qualified) : modRef i f (changeQual i new cause (modRef i g s)) =
      stage (.refState i (g (refIn s i)).qual new cause (g (refIn s i)).counters)
        (modRef i (fun _ => f { g (refIn s i) with qual := new, goodRun := 0, nonGoodRun := 0 }) s) := by
  rw [changeQual_alive _ _ hnew, modRef_stage, modRef_modRef, modRef_modRef, refIn_modRef]
  exact congrArg _ (modRef_congr rfl)

/-- R28: the judgement of an input that is not ABSENT. -/
theorem applyJudgement_judged {good : Bool} {rise : Nat} {msg : Option RefMsg}
    (h : (refIn s i).qual = .qualifying ∨ (refIn s i).qual = .qualified) :
    modRef i (fun r => { r with lossAt := some (rise + 48000000000) })
      (applyJudgement i good (modRef i (fun r => { r with labelMem := msg.map (·.label) }) s)) =
      qualRecorded i (refIn s i).qual (judgedRef good rise msg (refIn s i))
        (modRef i (fun _ => judgedRef good rise msg (refIn s i)) s) := by
  simp only [applyJudgement, refIn_modRef]
  generalize hr : refIn s i = r at *
  have hcollapse : ∀ f : RefIn → RefIn, f r = judgedRef good rise msg r →
      modRef i f s = modRef i (fun _ => judgedRef good rise msg r) s := fun f hf => modRef_congr (by rw [hr]; exact hf)
  rcases h with h | h
  · simp only [h]
    cases good with
    | false =>
      simp only [Bool.false_eq_true, if_false]
      rw [modRef_modRef, modRef_modRef, hcollapse]
      · simp [qualRecorded, judgedRef, h]
      · simp [judgedRef, h]
    | true =>
      by_cases hrun : 4 ≤ r.goodRun + 1
      · have hmore : ¬ r.goodRun + 1 < 4 := by omega
        simp only [if_true, if_pos hrun, changeQual_between _ _ (.inr rfl)]
        simp [qualRecorded, judgedRef, hr, h, hrun, hmore]
      · have hless : r.goodRun + 1 < 4 := by omega
        simp only [if_true, if_neg hrun]
        rw [modRef_modRef, modRef_modRef, hcollapse]
        · simp [qualRecorded, judgedRef, h, hrun]
        · simp [judgedRef, h, hrun, hless]
  · simp only [h]
    cases good with
    | true =>
      simp only [if_true]
      rw [modRef_modRef, modRef_modRef, hcollapse]
      · simp [qualRecorded, judgedRef, h]
      · simp [judgedRef, h]
    | false =>
      by_cases hrun : 3 ≤ r.nonGoodRun + 1
      · have hmore : ¬ r.nonGoodRun + 1 < 3 := by omega
        simp only [Bool.false_eq_true, if_false, if_pos hrun, changeQual_between _ _ (.inl rfl)]
        simp [qualRecorded, judgedRef, hr, h, hrun, hmore]
      · have hless : r.nonGoodRun + 1 < 3 := by omega
        simp only [Bool.false_eq_true, if_false, if_neg hrun]
        rw [modRef_modRef, modRef_modRef, hcollapse]
        · simp [qualRecorded, judgedRef, h, hrun]
        · simp [judgedRef, h, hrun, hless]

/-- R27: a good second of a mark. -/
def goodMark (cls : WidthClass) (msg : Option RefMsg) (r : RefIn) : Bool :=
  decide (cls = .good) && msg.any (fun m => m.status == .locked && r.labelMem.all (fun l => m.label == l + 1))

theorem goodSecond_eq (cls : WidthClass) (msg : Option RefMsg) (r : RefIn) : goodSecond r cls msg = goodMark cls msg r := by
  unfold goodSecond goodMark
  cases msg with
  | none => simp
  | some m =>
    cases hl : r.labelMem <;> cases cls <;> simp [Bool.and_assoc]

/-- R27 to R29: the input that an accepted mark finds, judged, and its record. -/
theorem judgeMark_judged {cls : WidthClass} {rise : Nat} {msg : Option RefMsg} (h : (refIn s i).qual ≠ .disabled) :
    modRef i (fun r => { r with lossAt := some (rise + 48000000000) }) (judgeMark i cls msg s) =
      qualRecorded i (refIn s i).qual (judgedRef (goodMark cls msg (refIn s i)) rise msg (refIn s i))
        (modRef i (fun _ => judgedRef (goodMark cls msg (refIn s i)) rise msg (refIn s i)) s) := by
  simp only [judgeMark]
  by_cases ha : (refIn s i).qual = .absent
  · let entering := modRef i (fun r => { r with qual := .qualifying, goodRun := 0, nonGoodRun := 0 }) s
    let arrived := stage (.refState i (refIn s i).qual .qualifying .pulse (refIn s i).counters) entering
    have harrived : changeQual i .qualifying .pulse s = arrived := changeQual_alive _ _ (.inl rfl)
    have hin : refIn arrived i = { refIn s i with qual := .qualifying, goodRun := 0, nonGoodRun := 0 } := by
      rw [refIn_stage, refIn_modRef]
    rw [if_pos ha, harrived, applyJudgement_judged (.inl (by rw [hin])), hin, goodSecond_eq]
    have hgood : goodMark cls msg { refIn s i with qual := .qualifying, goodRun := 0, nonGoodRun := 0 } =
        goodMark cls msg (refIn s i) := rfl
    rw [hgood, modRef_stage, modRef_modRef]
    cases goodMark cls msg (refIn s i) <;> simp [qualRecorded, judgedRef, ha]
  · rw [if_neg ha, goodSecond_eq, applyJudgement_judged]
    cases hq : (refIn s i).qual <;> simp_all

/-- R27, R28: a state whose input has been judged, with its record. -/
def judged (i : RefInput) (cls : WidthClass) (rise : Nat) (msg : Option RefMsg) (s : State) : State :=
  qualRecorded i (refIn s i).qual (judgedRef (goodMark cls msg (refIn s i)) rise msg (refIn s i))
    (modRef i (fun _ => judgedRef (goodMark cls msg (refIn s i)) rise msg (refIn s i)) s)

theorem acceptMark_eq {cls : WidthClass} {rise : Nat} {msg : Option RefMsg} (h : (refIn s i).qual ≠ .disabled) :
    acceptMark i rise cls msg s =
      handOn i rise cls msg (reselectIfChanged i (qualified s i) (judged i cls rise msg s)) := by
  rw [judged, ← judgeMark_judged h]
  rfl

theorem qualRecorded_rest (was : Qual) (r : RefIn) (s : State) :
    qualRecorded i was r s = { s with xch := (qualRecorded i was r s).xch } := by
  have hstage : ∀ body, stage body s = { s with xch := (stage body s).xch } := by
    intro body
    rw [stage_xch]
    unfold stage
    split <;> rfl
  unfold qualRecorded
  split
  · exact hstage _
  · exact hstage _
  · exact hstage _
  · rfl

theorem qualRecorded_xch (was : Qual) (r : RefIn) {s t : State} (hx : s.xch = t.xch) (ht : s.tbs = t.tbs) :
    (qualRecorded i was r s).xch = (qualRecorded i was r t).xch := by
  unfold qualRecorded
  split
  · exact stage_xch_congr _ hx ht
  · exact stage_xch_congr _ hx ht
  · exact stage_xch_congr _ hx ht
  · exact hx

/-- R35, R36: the comparison of a labelled mark's UTC offset. -/
theorem compareUtc_spec (m : RefMsg) (s : State) :
    let differs : Bool := m.utcOffset != s.tbs.utcOffset
    let third : Bool := differs && decide (2 ≤ s.rfi.disagreeRun)
    (compareUtc i m s).rfi = { s.rfi with
      disagreeRun := if differs then min (s.rfi.disagreeRun + 1) 3 else 0
      disagreeFlag := differs && (s.rfi.disagreeFlag || third) } ∧
    (third = true → s.rfi.disagreeFlag = false →
      (compareUtc i m s).xch = (stage (.utcDisagree i m.utcOffset s.tbs.utcOffset m.leap) s).xch) ∧
    (¬ (third = true ∧ s.rfi.disagreeFlag = false) → (compareUtc i m s).xch = s.xch) := by
  unfold compareUtc
  by_cases hsame : m.utcOffset = s.tbs.utcOffset
  · simp [hsame, modRfi]
  · by_cases hrun : 2 ≤ s.rfi.disagreeRun
    · have hmin : min (s.rfi.disagreeRun + 1) 3 = 3 := by omega
      cases hf : s.rfi.disagreeFlag
      · simp only [if_neg hsame, hmin]
        simp [hsame, hrun, hf, modRfi]
        exact stage_xch_congr _ rfl rfl
      · simp [hsame, hrun, hf, modRfi]
    · have hmin : min (s.rfi.disagreeRun + 1) 3 ≠ 3 := by omega
      simp [hsame, hrun, hmin, modRfi]


/-- R35, R36: the hand-off of an accepted mark. -/
theorem handOn_spec {cls : WidthClass} {rise delay : Nat} {msg : Option RefMsg} {offset : Int}
    (hdelay : (refIn s i).settings.cableDelay = delay) (hoff : s.tbs.utcOffset = offset) :
    let mark : Mark :=
      { stamp := rise, label := msg.map (·.label), accuracy := msg.map (·.accuracy), cableDelay := delay, width := cls }
    let t := handOn i rise cls msg s
    (s.rfi.active ≠ some i → t = s) ∧
    (s.rfi.active = some i → t.tbs = (handleMark mark s).tbs ∧ t.dsv = (handleMark mark s).dsv ∧
      (msg = none → t = handleMark mark s) ∧
      ∀ m, msg = some m →
        let differs : Bool := m.utcOffset != offset
        let third : Bool := differs && decide (2 ≤ s.rfi.disagreeRun)
        t.rfi = { s.rfi with
          disagreeRun := if differs then min (s.rfi.disagreeRun + 1) 3 else 0
          disagreeFlag := differs && (s.rfi.disagreeFlag || third) } ∧
        (third = true → s.rfi.disagreeFlag = false →
          t.xch = (stage (.utcDisagree i m.utcOffset offset m.leap) (handleMark mark s)).xch) ∧
        (¬ (third = true ∧ s.rfi.disagreeFlag = false) → t.xch = (handleMark mark s).xch)) := by
  intro mark t
  refine ⟨fun h => if_neg h, fun h => ?_⟩
  have ht : t = match msg with | none => handleMark mark s | some m => compareUtc i m (handleMark mark s) := by
    refine (if_pos h).trans ?_
    rw [hdelay] <;> rfl
  cases msg with
  | none => exact ⟨congrArg State.tbs ht, congrArg State.dsv ht, fun _ => ht, fun _ hm => by cases hm⟩
  | some m =>
    have hframe := compareUtc_frame i m (handleMark mark s)
    refine ⟨by rw [ht]; exact hframe.1, by rw [ht]; exact hframe.2.1, fun hm => absurd hm (by simp), fun m' hm => ?_⟩
    obtain rfl : m = m' := Option.some.inj hm
    have hspec := compareUtc_spec (i := i) m (handleMark mark s)
    rw [handleMark_utcOffset, hoff, (handleMark_frame mark s).1] at hspec
    rw [ht]
    exact hspec

/-- R25 to R28: a fall that ends a pulse at its place, up to the hand-off. -/
theorem pulseFall_accepted {at_ : Instant} {p : RefPulse} (hp : (refIn s i).pulse = some p) (hq : (refIn s i).qual ≠ .disabled)
    (hv : ∀ v, (refIn s i).interval = some v → v + 15984000000 ≤ p.rise ∧ p.rise ≤ v + 16016000000)
    (hmin : (refIn s i).settings.minWidth * 16 ≤ s.tbs.stamp at_ - p.rise) (hw : s.tbs.stamp at_ - p.rise ≤ 3200000000) :
    let cls : WidthClass := if s.tbs.stamp at_ - p.rise < (refIn s i).settings.longWidth * 16000000 then .good else .degraded
    let msg := labelling p.rise (refIn s i)
    let arrived := modRef i (fun _ => paired p.rise { refIn s i with line := false, stuckEpisode := false, pulse := none }) s
    pulseFall i at_ s =
      handOn i p.rise cls msg (reselectIfChanged i (qualified s i) (judged i cls p.rise msg arrived)) := by
  intro cls msg arrived
  have harrived : modRef i (paired p.rise) (modRef i (fun r => { r with line := false, stuckEpisode := false, pulse := none }) s) =
      arrived := by
    rw [modRef_modRef]
    exact modRef_congr rfl
  have hqual : (refIn arrived i).qual = (refIn s i).qual := by rw [refIn_modRef]; rfl
  have hwas : qualified arrived i = qualified s i := by rw [qualified, qualified, hqual]
  rw [pulseFall_some hp hw, if_neg (Nat.not_lt.2 hmin), classifiedPulse_eq, if_pos, harrived, acceptMark_eq (by rw [hqual]; exact hq), hwas]
  · rw [refIn_modRef]
    rfl
  · rw [intervalOk_iff, refIn_modRef]
    exact hv


theorem reselectIfChanged_spec {was : Bool} (s : State) :
    let u := reselectIfChanged i was s
    (qualified s i = was → u = s) ∧ (¬ qualified s i = was → reselected .qualification s u) ∧
      u.rfi.inputs = s.rfi.inputs ∧ u.mem = s.mem ∧ u.tbs.utcOffset = s.tbs.utcOffset := by
  intro u
  by_cases h : qualified s i = was
  · have hu : u = s := if_pos h
    exact ⟨fun _ => hu, fun hn => absurd h hn, by rw [hu], by rw [hu], by rw [hu]⟩
  · have hu : u = reselect .qualification s := if_neg h
    have hsel := reselect_reselected .qualification s
    rw [hu]
    exact ⟨fun hp => absurd hp h, fun _ => hsel, (reselected_rest hsel).2.1, (reselected_rest hsel).1, reselect_utcOffset _ s⟩

/-- Settles O24: the pairing, the judgement (`judgedRef`), the re-evaluation and the hand-off (`handOn_spec`), one after the other. -/
theorem acceptedMarkQualifies : Obligations.AcceptedMarkQualifies := by
  intro s i at_ p r hr hp hq hv hmin hw fresh msg mark
  subst hr
  let cls : WidthClass := if s.tbs.stamp at_ - p.rise < (refIn s i).settings.longWidth * 16000000 then .good else .degraded
  let r0 := paired p.rise { refIn s i with line := false, stuckEpisode := false, pulse := none }
  let arrived := modRef i (fun _ => r0) s
  let r1 := judgedRef (goodMark cls msg r0) p.rise msg r0
  let u0 := judged i cls p.rise msg arrived
  let u := reselectIfChanged i (qualified s i) u0
  let t := handOn i p.rise cls msg u
  have hexec : exec (.refPulseFall i at_) s = .next t := by
    have hcmd : exec (.refPulseFall i at_) s = .next (pulseFall i at_ s) := rfl
    rw [hcmd, pulseFall_accepted hp hq hv hmin hw]
    rfl
  have hr0 : refIn arrived i = r0 := refIn_modRef i _ s
  have hwritten : modRef i (fun _ => r1) arrived = modRef i (fun _ => r1) s := modRef_modRef i _ _ s
  have hu0 : u0 = { modRef i (fun _ => r1) s with xch := (qualRecorded i (refIn s i).qual r1 s).xch } := by
    have hjudged : u0 = qualRecorded i r0.qual r1 (modRef i (fun _ => r1) arrived) := by
      change judged i cls p.rise msg arrived = _
      rw [judged, hr0]
    rw [hjudged, hwritten, qualRecorded_rest, qualRecorded_xch _ _ (show (modRef i (fun _ => r1) s).xch = s.xch from rfl) rfl]
    rfl
  obtain ⟨hstays, hmoves, hinputs, hmem, hutc⟩ := reselectIfChanged_spec (i := i) (was := qualified s i) u0
  have hin0 : refIn u0 i = r1 := by rw [hu0]; exact refIn_modRef i _ s
  have hother0 : refIn u0 (otherInput i) = refIn s (otherInput i) := by rw [hu0]; exact refIn_modRef_other i _ s
  have hinu : refIn u i = r1 := (refIn_of_inputs hinputs i).trans hin0
  have hdelay : (refIn u i).settings.cableDelay = (refIn s i).settings.cableDelay := by rw [hinu]; rfl
  have hoff : u.tbs.utcOffset = s.tbs.utcOffset := hutc.trans (by rw [hu0]; rfl)
  obtain ⟨hpassive, hactive⟩ := handOn_spec (rise := p.rise) (cls := cls) (msg := msg) hdelay hoff
  have htinputs : t.rfi.inputs = u.rfi.inputs := by
    by_cases ha : u.rfi.active = some i
    · obtain ⟨-, -, hnone, hsome⟩ := hactive ha
      cases hm : msg with
      | none =>
        have := hnone hm
        change t = _ at this
        rw [this, (handleMark_frame _ u).1]
      | some m =>
        have := (hsome m hm).1
        change t.rfi = _ at this
        rw [this]
    · have := hpassive ha
      change t = u at this
      rw [this]
  have hint : refIn t i = r1 := (refIn_of_inputs htinputs i).trans hinu
  have hchanged : ((refIn t i).qual = .qualified ↔ (refIn s i).qual = .qualified) ↔ qualified u0 i = qualified s i := by
    rw [hint, Bool.eq_iff_iff, qualified_iff, qualified_iff, hin0]
  have hrecorded : u0 = { s with
      rfi := { s.rfi with inputs := t.rfi.inputs }
      xch := (qualRecorded i (refIn s i).qual (refIn t i) s).xch } := by
    rw [htinputs, hinputs, hint, hu0]
    rfl
  refine ⟨t, hexec, ?_, ?_, ?_, ?_⟩
  · have hkeep : t.mem = u.mem := (handOn_frame i p.rise cls msg u).2.2.2.2.1
    rw [hkeep, hmem, hu0]
    rfl
  · exact (refIn_of_inputs (htinputs.trans hinputs) _).trans hother0
  · intro left u0'
    have hsame : u0 = u0' := by
      rw [hrecorded]
      unfold qualRecorded
      dsimp only [u0', left]
      cases (refIn s i).qual <;> cases (refIn t i).qual <;> rfl
    exact ⟨u, fun h => hsame ▸ hstays (hchanged.1 h), fun h => hsame ▸ hmoves (fun hc => h (hchanged.2 hc)), hpassive, hactive⟩
  · have hgood : goodMark cls msg r0 = decide (s.tbs.stamp at_ - p.rise < (refIn s i).settings.longWidth * 16000000 ∧
        msg.any (fun m => m.status == .locked && (refIn s i).labelMem.all (fun l => m.label == l + 1)) = true) := by
      by_cases hs : s.tbs.stamp at_ - p.rise < (refIn s i).settings.longWidth * 16000000
      · simp [goodMark, cls, hs, r0, paired]
      · simp [goodMark, cls, hs]
    rw [hint]
    change judgedRef (goodMark cls msg r0) p.rise msg r0 = _
    rw [hgood]
    rfl
end
section
variable {s : State} {m : Mark}

/-! ### A mark in each servo state (R39 to R49) -/

/-- R41 step 1: the servo with a mark's receiver estimate noted. -/
def estimateNoted (m : Mark) (d : Servo) : Servo := { d with rcvEstimate := m.accuracy.getD d.rcvEstimate }

/-- R45: a used mark counted toward lock. -/
theorem countLock_waits {e : Int} (h : ¬ (e.natAbs ≤ s.dsv.settings.lockThreshold * 16 ∧ 7 ≤ s.dsv.lockRun)) :
    countLock e s = modDsv (fun d => { d with
      lockRun := if e.natAbs ≤ s.dsv.settings.lockThreshold * 16 then s.dsv.lockRun + 1 else 0 }) s := by
  unfold countLock
  by_cases hlock : e.natAbs ≤ s.dsv.settings.lockThreshold * 16
  · rw [if_neg (by omega), if_neg (by omega), if_pos hlock]
    rfl
  · rw [if_pos (by omega), if_neg hlock]

theorem countLock_locks {e : Int} (h : e.natAbs ≤ s.dsv.settings.lockThreshold * 16) (h7 : 7 ≤ s.dsv.lockRun) :
    countLock e s = enterServo .track .lock s := by
  rw [countLock, if_neg (by omega), if_pos (by omega)]

theorem recordError_eq (e : Int) (d : Servo) : recordError e d = { d with errHist := errJoined e d.errHist } := rfl

section
variable (hs : s.dsv.state = .acquire)
include hs

omit hs in
theorem stepNotOut (h : s.dsv.stepOutstanding = false) : ¬ (estimateNoted m s.dsv).stepOutstanding = true := by
  rw [show (estimateNoted m s.dsv).stepOutstanding = false from h]
  exact Bool.false_ne_true

theorem handleMark_acquire : handleMark m s = acquireMark m { s with dsv := estimateNoted m s.dsv } := by
  rw [handleMark, hs, noteEstimate_eq]
  rfl

/-- R41: a mark in ACQUIRE of no use, no step being outstanding. -/
theorem acquire_useless (hstep : s.dsv.stepOutstanding = false) (h : m.label = none ∨ m.width = .degraded) :
    handleMark m s = { s with dsv := { estimateNoted m s.dsv with lockRun := 0 } } := by
  rw [handleMark_acquire hs, acquireMark, if_neg (stepNotOut hstep), if_pos (by simpa using h)]
  rfl

/-- R42, R43: a mark in ACQUIRE that posts a step. -/
theorem acquire_steps {l : Nat} (hstep : s.dsv.stepOutstanding = false) (hl : m.label = some l) (hw : m.width = .good)
    (h : l ≠ nearestSecond m.stamp ∨ s.dsv.settings.stepThreshold * 16 < (phaseError m).natAbs) :
    handleMark m s = servoStep (((l : Int) - nearestSecond m.stamp) * 16000000000 - phaseError m)
      { s with dsv := estimateNoted m s.dsv } := by
  rw [handleMark_acquire hs, acquireMark, if_neg (stepNotOut hstep), if_neg (by simp [hl, hw])]
  by_cases hd : l = nearestSecond m.stamp
  · have hagree : ¬ labelDisagrees m = true := by
      rw [labelDisagrees_iff]
      rintro ⟨l', hl', hne⟩
      rw [hl] at hl'
      cases hl'
      exact hne hd
    have hbig := h.resolve_left (fun hn => hn hd)
    have hdelta : ((l : Int) - nearestSecond m.stamp) * 16000000000 - phaseError m = -phaseError m := by
      rw [hd]
      omega
    rw [if_neg hagree, hdelta]
    exact if_pos hbig
  · rw [if_pos ((labelDisagrees_iff m).2 ⟨l, hl, hd⟩), hl]
    rfl

/-- R44, R45: a mark in ACQUIRE that is used. -/
theorem acquire_uses (hstep : s.dsv.stepOutstanding = false) (hl : m.label = some (nearestSecond m.stamp)) (hw : m.width = .good)
    (h : (phaseError m).natAbs ≤ s.dsv.settings.stepThreshold * 16) :
    handleMark m s = countLock (phaseError m) { s with
      tbs := steeredBy (phaseError m) s.dsv.settings.kpA s.dsv.settings.kiA s.tbs
      dsv := { estimateNoted m s.dsv with errHist := errJoined (phaseError m) s.dsv.errHist } } := by
  have hagree : ¬ labelDisagrees m = true := by
    rw [labelDisagrees_iff]
    rintro ⟨l', hl', hne⟩
    rw [hl] at hl'
    cases hl'
    exact hne rfl
  rw [handleMark_acquire hs, acquireMark, if_neg (stepNotOut hstep), if_neg (by simp [hl, hw]), if_neg hagree]
  refine (if_neg (show ¬ s.dsv.settings.stepThreshold * 16 < (phaseError m).natAbs by omega)).trans ?_
  rw [correct_eq]
  rfl

end

section
variable (hs : s.dsv.state = .track)
include hs

theorem handleMark_track : handleMark m s = trackMark m { s with dsv := estimateNoted m s.dsv } := by
  rw [handleMark, hs, noteEstimate_eq]
  rfl

/-- R47: a label disagreement in TRACK. -/
theorem track_disagrees {l : Nat} (hl : m.label = some l) (hne : l ≠ nearestSecond m.stamp) :
    let counted : Servo := { estimateNoted m s.dsv with
      labelCount := min (s.dsv.labelCount + 1) 65535, labelRun := s.dsv.labelRun + 1 }
    handleMark m s = if 3 ≤ s.dsv.labelRun + 1 then enterServo .acquire .label { s with dsv := counted }
      else { s with dsv := counted } := by
  intro counted
  rw [handleMark_track hs, trackMark, if_pos ((labelDisagrees_iff m).2 ⟨l, hl, hne⟩)]
  rfl

/-- R48: the servo as a mark that agrees in TRACK reaches the phase gate. -/
def agreed (m : Mark) (d : Servo) : Servo :=
  { estimateNoted m d with labelRun := if m.label = none then d.labelRun else 0 }

theorem track_agrees (h : ∀ l, m.label = some l → l = nearestSecond m.stamp) :
    handleMark m s = gateMark m { s with dsv := agreed m s.dsv } := by
  have hagree : ¬ labelDisagrees m = true := by
    rw [labelDisagrees_iff]
    rintro ⟨l, hl, hne⟩
    exact hne (h l hl)
  rw [handleMark_track hs, trackMark, if_neg hagree]
  congr 1
  cases hl : m.label with
  | none => simp [agreed, hl, estimateNoted]
  | some l => simp [agreed, hl, modDsv]

end

/-- R48: a mark past the phase gate. -/
theorem gateMark_gated (h : s.dsv.settings.phaseGate * 16 < (phaseError m).natAbs) :
    let counted : Servo := { s.dsv with gatedCount := min (s.dsv.gatedCount + 1) 65535, gateRun := s.dsv.gateRun + 1 }
    gateMark m s = if 3 ≤ s.dsv.gateRun + 1 then enterServo .acquire .gate { s with dsv := counted }
      else { s with dsv := counted } := by
  intro counted
  rw [gateMark]
  exact if_pos h

/-- R49: a mark within the phase gate. -/
theorem gateMark_tracked (h : ¬ s.dsv.settings.phaseGate * 16 < (phaseError m).natAbs) :
    let tb := steeredBy (phaseError m) s.dsv.settings.kpT s.dsv.settings.kiT s.tbs
    gateMark m s = { s with
      tbs := tb
      dsv := { s.dsv with
        gateRun := 0, errHist := errJoined (phaseError m) s.dsv.errHist
        freqHist := if 16 < (s.dsv.freqHist ++ [tb.phi]).length then (s.dsv.freqHist ++ [tb.phi]).drop 1
          else s.dsv.freqHist ++ [tb.phi] } } := by
  intro tb
  simp only [gateMark, if_neg h, correct_eq]
  rfl

end
section
variable {s : State}

theorem qualRecorded_stays {i : RefInput} {was : Qual} {r : RefIn} (hwas : was = .qualified) (hr : r.qual = .qualified) (u : State) :
    qualRecorded i was r u = u := by
  subst hwas
  unfold qualRecorded
  rw [hr]

/-- R35: a mark of a QUALIFIED input that stays so is handed to the servo, or not, with the selection as it is. -/
theorem acceptedMark_qualified {i : RefInput} {at_ : Instant} {p : RefPulse} (hp : (refIn s i).pulse = some p)
    (hq : (refIn s i).qual = .qualified) (hrun : (refIn s i).nonGoodRun < 2)
    (hv : ∀ v, (refIn s i).interval = some v → v + 15984000000 ≤ p.rise ∧ p.rise ≤ v + 16016000000)
    (hmin : (refIn s i).settings.minWidth * 16 ≤ s.tbs.stamp at_ - p.rise) (hw : s.tbs.stamp at_ - p.rise ≤ 3200000000) :
    let cls : WidthClass := if s.tbs.stamp at_ - p.rise < (refIn s i).settings.longWidth * 16000000 then .good else .degraded
    ∃ r1 : RefIn, r1.settings = (refIn s i).settings ∧
      pulseFall i at_ s = handOn i p.rise cls (labelling p.rise (refIn s i)) (modRef i (fun _ => r1) s) := by
  intro cls
  let msg := labelling p.rise (refIn s i)
  let r0 := paired p.rise { refIn s i with line := false, stuckEpisode := false, pulse := none }
  let arrived := modRef i (fun _ => r0) s
  let r1 := judgedRef (goodMark cls msg r0) p.rise msg r0
  have hr0 : refIn arrived i = r0 := refIn_modRef i _ s
  have hq0 : r0.qual = .qualified := hq
  have hstays : r1.qual = .qualified := by
    have hfew : ¬ (goodMark cls msg r0 = false ∧ 3 ≤ r0.nonGoodRun + 1) := by
      rintro ⟨-, h3⟩
      have : r0.nonGoodRun = (refIn s i).nonGoodRun := rfl
      omega
    change (if r0.qual = .qualified then _ else _) = _
    rw [if_pos hq0, if_neg hfew]
  have hjudged : judged i cls p.rise msg arrived = modRef i (fun _ => r1) s := by
    rw [judged, hr0]
    exact (qualRecorded_stays hq0 hstays _).trans (modRef_modRef i _ _ s)
  have hsame : qualified (judged i cls p.rise msg arrived) i = qualified s i := by
    rw [hjudged, Bool.eq_iff_iff, qualified_iff, qualified_iff, refIn_modRef]
    exact ⟨fun _ => hq, fun _ => hstays⟩
  refine ⟨r1, rfl, ?_⟩
  rw [pulseFall_accepted hp (by rw [hq]; decide) hv hmin hw, reselectIfChanged, if_pos hsame, hjudged]

/-- What `f` makes of the timebase and the servo is settled by these two alone. -/
def ServoOnly (f : State → State) : Prop :=
  ∀ s t : State, s.tbs = t.tbs → s.dsv = t.dsv → (f s).tbs = (f t).tbs ∧ (f s).dsv = (f t).dsv

theorem enterServo_servoOnly (new : ServoState) (cause : ServoCause) : ServoOnly (enterServo new cause) := by
  intro s t ht hd
  obtain ⟨hds, hts, -⟩ := enterServo_spec new cause s
  obtain ⟨hdt, htt, -⟩ := enterServo_spec new cause t
  rw [hds, hdt, hts, htt, ht, hd]
  exact ⟨rfl, rfl⟩

theorem servoStep_servoOnly (delta : Int) : ServoOnly (servoStep delta) := by
  intro s t ht hd
  rw [(servoStep_spec delta s).1, (servoStep_spec delta t).1, (servoStep_spec delta s).2.1, (servoStep_spec delta t).2.1, ht, hd]
  exact ⟨rfl, rfl⟩

theorem countLock_servoOnly (e : Int) : ServoOnly (countLock e) := by
  intro s t ht hd
  simp only [countLock, hd]
  split
  · simp [modDsv, ht, hd]
  · split
    · exact enterServo_servoOnly _ _ s t ht hd
    · simp [modDsv, ht, hd]

theorem acquireMark_servoOnly (m : Mark) : ServoOnly (acquireMark m) := by
  intro s t ht hd
  simp only [acquireMark, hd, correct_eq]
  split
  · exact ⟨ht, hd⟩
  · split
    · simp [modDsv, ht, hd]
    · split
      · exact servoStep_servoOnly _ s t ht hd
      · split
        · exact servoStep_servoOnly _ s t ht hd
        · exact countLock_servoOnly _ _ _ (by simp [modDsv, ht]) (by simp [modDsv])

theorem gateMark_servoOnly (m : Mark) : ServoOnly (gateMark m) := by
  intro s t ht hd
  by_cases hbig : s.dsv.settings.phaseGate * 16 < (phaseError m).natAbs
  · rw [gateMark_gated hbig, gateMark_gated (s := t) (hd ▸ hbig), hd]
    by_cases h3 : 3 ≤ t.dsv.gateRun + 1
    · rw [if_pos h3, if_pos h3]
      exact enterServo_servoOnly _ _ _ _ ht rfl
    · rw [if_neg h3, if_neg h3]
      exact ⟨ht, rfl⟩
  · rw [gateMark_tracked hbig, gateMark_tracked (s := t) (hd ▸ hbig), hd, ht]
    exact ⟨rfl, rfl⟩

theorem trackMark_servoOnly (m : Mark) : ServoOnly (trackMark m) := by
  intro s t ht hd
  have hlabel : ∀ u : State, labelDisagrees m = true → trackMark m u =
      let counted : Servo := { u.dsv with labelCount := incSat16 u.dsv.labelCount, labelRun := u.dsv.labelRun + 1 }
      if 3 ≤ u.dsv.labelRun + 1 then enterServo .acquire .label { u with dsv := counted } else { u with dsv := counted } :=
    fun u h => if_pos h
  have hagree : ∀ u : State, ¬ labelDisagrees m = true → trackMark m u =
      gateMark m (if m.label.isSome then modDsv (fun d => { d with labelRun := 0 }) u else u) := fun u h => if_neg h
  by_cases h : labelDisagrees m = true
  · rw [hlabel s h, hlabel t h, hd]
    by_cases h3 : 3 ≤ t.dsv.labelRun + 1
    · simp only [if_pos h3]
      exact enterServo_servoOnly _ _ _ _ ht rfl
    · simp only [if_neg h3]
      exact ⟨ht, trivial⟩
  · rw [hagree s h, hagree t h]
    cases m.label.isSome
    · exact gateMark_servoOnly m _ _ ht hd
    · exact gateMark_servoOnly m _ _ ht (by simp [modDsv, hd])

theorem handleMark_servoOnly (m : Mark) : ServoOnly (handleMark m) := by
  intro s t ht hd
  simp only [handleMark, noteEstimate_eq, hd]
  split
  · exact acquireMark_servoOnly m _ _ ht rfl
  · exact trackMark_servoOnly m _ _ ht rfl
  · exact ⟨ht, hd⟩
  · exact ⟨ht, hd⟩

/-- Settles O31: each clause from the equation of its case, entry to a state from `enterServo_entered`. -/
theorem markSteersTimebase : Obligations.MarkSteersTimebase := by
  refine ⟨?_, ?_⟩
  · intro s m w e second hw he hsecond
    have hphase : e = phaseError m := he.trans ((congrArg (fun x : Int => x - m.cableDelay) hw).trans (phaseError_eq m).symm)
    have hnearest : second = nearestSecond m.stamp := hsecond.trans (nearestSecond_eq m.stamp).symm
    rw [hphase, hnearest]
    intro t noted errs errs8 agrees steered entered
    refine ⟨?_, ?_, ?_, ?_, ?_, ?_, ?_, ?_⟩
    · rintro (hs | hs)
      · exact (by rw [handleMark, hs] : handleMark m s = s)
      · exact (by rw [handleMark, hs] : handleMark m s = s)
    · intro hs hstep
      refine (handleMark_acquire hs).trans ?_
      exact if_pos hstep
    · intro hs hstep h
      exact acquire_useless hs hstep h
    · intro l hs hstep hl hwidth h
      have ht : t = _ := acquire_steps hs hstep hl hwidth h
      rw [ht]
      exact servoStep_spec _ _
    · intro hs hstep hl hwidth h locks
      have ht : t = _ := acquire_uses hs hstep hl hwidth h
      refine ⟨fun hno => ?_, fun hlock h7 => ?_⟩
      · exact ht.trans (countLock_waits hno)
      · have hent := enterServo_entered (s := s) (new := .track) (cause := .lock)
          (tb := steeredBy (phaseError m) s.dsv.settings.kpA s.dsv.settings.kiA s.tbs)
          (d := { estimateNoted m s.dsv with errHist := errJoined (phaseError m) s.dsv.errHist }) (.inr rfl)
        have ht : t = enterServo .track .lock _ := ht.trans (countLock_locks hlock h7)
        rw [← ht] at hent
        obtain ⟨hframe, htbs, hdsv, h1, h2, h3, h4, h5, h6, h7, h8, h9, h10, hrec⟩ := hent
        refine ⟨⟨hframe, h1, h2, h3, h4, h5.trans hstep, h6, h7, h8, hrec⟩, htbs, ?_, ?_, h9, h10⟩
        · rw [hdsv]; rfl
        · rw [hdsv]; rfl
    · intro l hs hl hne counted
      have ht : t = _ := track_disagrees hs hl hne
      refine ⟨fun hrun => ht.trans (if_neg (by omega)), fun hrun hstep => ?_⟩
      have ht := ht.trans (if_pos (show 3 ≤ s.dsv.labelRun + 1 by omega))
      have hent := enterServo_entered (s := s) (new := .acquire) (cause := .label) (tb := s.tbs)
        (d := { estimateNoted m s.dsv with labelCount := min (s.dsv.labelCount + 1) 65535, labelRun := s.dsv.labelRun + 1 })
        (.inl rfl)
      rw [← ht] at hent
      obtain ⟨hframe, htbs, hdsv, h1, h2, h3, h4, h5, h6, h7, h8, h9, h10, hrec⟩ := hent
      refine ⟨⟨hframe, h1, h2, h3, h4, h5.trans hstep, h6, h7, h8, hrec⟩, htbs, ?_, h9, h10⟩
      rw [hdsv]; rfl
    · intro hs hagree hbig counted
      have ht : t = _ := (track_agrees hs hagree).trans (gateMark_gated hbig)
      refine ⟨fun hrun => ht.trans (if_neg (show ¬ 3 ≤ s.dsv.gateRun + 1 by omega)), fun hrun hstep => ?_⟩
      have ht : t = enterServo .acquire .gate { s with
          tbs := s.tbs
          dsv := { agreed m s.dsv with gatedCount := min (s.dsv.gatedCount + 1) 65535, gateRun := s.dsv.gateRun + 1 } } := ht.trans (if_pos (show 3 ≤ s.dsv.gateRun + 1 by omega))
      have hent := enterServo_entered (s := s) (new := .acquire) (cause := .gate) (tb := s.tbs)
        (d := { agreed m s.dsv with gatedCount := min (s.dsv.gatedCount + 1) 65535, gateRun := s.dsv.gateRun + 1 })
        (.inl rfl)
      rw [← ht] at hent
      obtain ⟨hframe, htbs, hdsv, h1, h2, h3, h4, h5, h6, h7, h8, h9, h10, hrec⟩ := hent
      refine ⟨⟨hframe, h1, h2, h3, h4, h5.trans hstep, h6, h7, h8, hrec⟩, htbs, ?_, h10, h9⟩
      rw [hdsv]; rfl
    · intro hs hagree hsmall tbs freqs
      exact (track_agrees hs hagree).trans (gateMark_tracked (Nat.not_lt.2 hsmall))
  · intro s i at_ p r hr hp hq hrun hv hmin hw msg mark
    subst hr
    obtain ⟨r1, hset, hfall⟩ := acceptedMark_qualified hp hq hrun hv hmin hw
    have hdelay : (refIn (modRef i (fun _ => r1) s) i).settings.cableDelay = (refIn s i).settings.cableDelay := by
      rw [refIn_modRef, hset]
    obtain ⟨hpassive, hactive⟩ := handOn_spec (i := i) (rise := p.rise) (msg := labelling p.rise (refIn s i)) hdelay rfl
    refine ⟨pulseFall i at_ s, rfl, fun ha => ?_, fun ha => ?_⟩
    · obtain ⟨htbs, hdsv, -⟩ := hactive ha
      have honly := handleMark_servoOnly mark (modRef i (fun _ => r1) s) s rfl rfl
      rw [hfall]
      exact ⟨htbs.trans honly.1, hdsv.trans honly.2⟩
    · rw [hfall, hpassive ha]
      exact ⟨rfl, rfl⟩
end
end Sys2Proof.Machine

/-! ## Received frames and deadlines of a port (R70 to R73, R102, R106, R107) -/

namespace Sys2Proof.Machine

section
variable {s : State} {port : Port} {bytes : List Byte} {stamp : Nat}

/-! ### What the Range request leaves (R100, R102) -/

theorem refreshRange_rest (p : Port) (s : State) : refreshRange p s = { s with lnk := (refreshRange p s).lnk, rng := (refreshRange p s).rng } :=
  rfl

theorem link_refreshRange (p : Port) (s : State) :
    link (refreshRange p s) p = { link s p with rangeReq := (link (refreshRange p s) p).rangeReq } := by
  cases p <;> rfl

theorem rangePort_refreshRange (p : Port) (s : State) :
    rangePort (refreshRange p s) p = { rangePort s p with windowAt := (rangePort (refreshRange p s) p).windowAt } := by
  cases p <;> rfl

theorem refreshRange_ne {p q : Port} (h : q ≠ p) (s : State) :
    link (refreshRange p s) q = link s q ∧ rangePort (refreshRange p s) q = rangePort s q := by
  cases p <;> cases q
  · exact absurd rfl h
  · exact ⟨rfl, rfl⟩
  · exact ⟨rfl, rfl⟩
  · exact absurd rfl h

theorem counters_refreshRange (p : Port) (s : State) : (link (refreshRange p s) p).counters = (link s p).counters := by
  rw [link_refreshRange]

theorem holdoff_refreshRange (p : Port) (s : State) : (link (refreshRange p s) p).holdoff = (link s p).holdoff := by
  rw [link_refreshRange]

theorem table_refreshRange (p : Port) (s : State) : (rangePort (refreshRange p s) p).table = (rangePort s p).table := by
  rw [rangePort_refreshRange]

/-! ### The receive filter (R70, R71) -/

/-- A received frame as it ends. -/
def received (port : Port) (s : State) : State := modLink port (fun l => { l with rx := none }) s

theorem exec_frameReceived_none (h : (link s port).rx = none) : exec (.frameReceived port bytes) s = .next s := by
  have hexec : exec (.frameReceived port bytes) s = .next (frameReceived port bytes s) := rfl
  rw [hexec, frameReceived, h]

theorem exec_frameReceived_filtered (hrx : (link s port).rx = some stamp) (h : ¬ filterPasses (link s port).settings bytes = true) :
    exec (.frameReceived port bytes) s = .next (received port s) := by
  have hexec : exec (.frameReceived port bytes) s = .next (frameReceived port bytes s) := rfl
  rw [hexec, frameReceived, hrx]
  exact congrArg Host.Outcome.next (if_neg h)

theorem exec_frameReceived (hrx : (link s port).rx = some stamp) (h : filterPasses (link s port).settings bytes = true) :
    exec (.frameReceived port bytes) s = .next (refreshRange port (
      if btxOk (link s port).settings (parseFrame bytes) = true then dispatch port (parseFrame bytes) stamp (received port s)
      else dropFrame port (received port s))) := by
  have hexec : exec (.frameReceived port bytes) s = .next (frameReceived port bytes s) := rfl
  rw [hexec, frameReceived, hrx]
  exact congrArg Host.Outcome.next (if_pos h)

theorem exec_frameReceived_btx (hrx : (link s port).rx = some stamp) (h : filterPasses (link s port).settings bytes = true)
    (hbtx : btxOk (link s port).settings (parseFrame bytes) = true) :
    exec (.frameReceived port bytes) s = .next (refreshRange port (dispatch port (parseFrame bytes) stamp (received port s))) := by
  rw [exec_frameReceived hrx h, if_pos hbtx]

theorem filterPasses_iff (st : PortSettings) (bs : List Byte) : filterPasses st bs = true ↔
    (64 ≤ bs.length ∧ bs.drop (bs.length - 4) = fcsOf (bs.take (bs.length - 4))) ∧
      (parseFrame bs).etherType = st.typeCode ∧ ((parseFrame bs).dest = st.station ∨ (parseFrame bs).dest = 0xFFFFFFFFFFFF) := by
  have hbroad : broadcast = 0xFFFFFFFFFFFF := rfl
  simp only [filterPasses, frameIntact, hbroad, Bool.and_eq_true, Bool.or_eq_true, beq_iff_eq, decide_eq_true_eq, and_assoc]

theorem btxOk_iff (st : PortSettings) (f : RxFrame) : btxOk st f = true ↔
    f.version = 1 ∧ f.bodyLen ≤ f.body.length ∧ f.domain = st.domain ∧ f.src.getLsbD 40 = false := by
  simp only [btxOk, isMulticast, Bool.and_eq_true, beq_iff_eq, decide_eq_true_eq, Bool.not_eq_true', and_assoc]

/-! ### Dispatch by kind (R72) -/

theorem selfStatusOf_none (b : Byte) : selfStatusOf b = none ↔ b.toNat ∉ [1, 2, 3] := by
  revert b
  decide

theorem echoOf_none {f : RxFrame} (h : f.bodyLen ≠ 12 ∨ (byteAt f.body 1).toNat ∉ [1, 2, 3] ∨ 999999999 < fieldBe f.body 4 4 ∨
    15 < (byteAt f.body 3).toNat) (t : Nat) : echoOf f t = none := by
  unfold echoOf
  cases hs : selfStatusOf (byteAt f.body 1) with
  | none => rfl
  | some status =>
    refine if_neg ?_
    rintro ⟨hlen, hns, hsix⟩
    rcases h with h | h | h | h
    · exact h hlen
    · rw [(selfStatusOf_none _).2 h] at hs
      cases hs
    · exact absurd hns (Nat.not_le.2 h)
    · exact absurd hsix (Nat.not_le.2 h)

theorem hailOf_none {f : RxFrame} (h : f.bodyLen ≠ 2 ∨ 3 < (byteAt f.body 0).toNat ∨ 7 < (byteAt f.body 1).toNat) (t : Nat) :
    hailOf f t = none := by
  unfold hailOf
  cases hk : clientKindOf (byteAt f.body 0) with
  | none => rfl
  | some kind =>
    refine if_neg ?_
    have hcode : ¬ 3 < (byteAt f.body 0).toNat := by
      intro hc
      rw [clientKindOf_eq, if_neg (Nat.not_le.2 hc)] at hk
      cases hk
    omega

theorem kind_toNat {f : RxFrame} {k : Nat} (hk : k < 256) (h : f.kind = BitVec.ofNat 8 k) : f.kind.toNat = k := by
  rw [h, BitVec.toNat_ofNat, Nat.mod_eq_of_lt hk]

theorem dispatch_beacon {f : RxFrame} (h : f.kind = 1) (s : State) :
    dispatch port f stamp s = if 34 ≤ f.bodyLen then receiveBeacon port f stamp s else dropFrame port s := by
  rw [dispatch, kind_toNat (k := 1) (by decide) h]
  rfl

theorem dispatch_echo {f : RxFrame} (h : f.kind = 3) (s : State) : dispatch port f stamp s = match echoOf f stamp with
    | none => dropFrame port s
    | some e => handleEcho port e
        (modLink port (fun l => { l with counters := { l.counters with echoes := (l.counters.echoes + 1) % 4294967296 } }) s) := by
  rw [dispatch, kind_toNat (k := 3) (by decide) h]
  rfl

theorem dispatch_hail {f : RxFrame} (h : f.kind = 4) (s : State) : dispatch port f stamp s = match hailOf f stamp with
    | none => dropFrame port s
    | some e => handleHail port e
        (modLink port (fun l => { l with counters := { l.counters with hails := (l.counters.hails + 1) % 4294967296 } }) s) := by
  rw [dispatch, kind_toNat (k := 4) (by decide) h]
  rfl

theorem dispatch_other {f : RxFrame} (h : f.kind.toNat ∉ [1, 3, 4]) (s : State) : dispatch port f stamp s = dropFrame port s := by
  simp only [List.mem_cons, List.not_mem_nil, or_false, not_or] at h
  obtain ⟨h1, h3, h4⟩ := h
  unfold dispatch
  split <;> simp_all

/-- Settles O38: the filter (`filterPasses_iff`) and the checks, each failing one a drop. -/
theorem framesDiscardedOrDropped : Obligations.FramesDiscardedOrDropped := by
  intro s port bytes
  refine ⟨exec_frameReceived_none, ?_⟩
  intro stamp hrx f st mine whole
  refine ⟨fun hno => ?_, fun hwhole hmine hbad => ?_⟩
  · exact exec_frameReceived_filtered hrx (fun hpass => hno ((filterPasses_iff st bytes).1 hpass))
  · have hpass : filterPasses st bytes = true := (filterPasses_iff st bytes).2 ⟨hwhole, hmine⟩
    have hdrop : (if btxOk st f = true then dispatch port f stamp (received port s) else dropFrame port (received port s)) =
        dropFrame port (received port s) := by
      by_cases hbtx : btxOk st f = true
      · obtain ⟨hversion, hlen, hdomain, hsrc⟩ := (btxOk_iff st f).1 hbtx
        rw [if_pos hbtx]
        rcases hbad with h | h | h | h | h | ⟨hk, h⟩ | ⟨hk, h⟩ | ⟨hk, h⟩
        · exact absurd hversion h
        · exact absurd hlen (Nat.not_le.2 h)
        · exact absurd hdomain h
        · rw [hsrc] at h
          cases h
        · exact dispatch_other h _
        · rw [dispatch_beacon hk, if_neg (Nat.not_le.2 h)]
        · rw [dispatch_echo hk, echoOf_none h]
        · rw [dispatch_hail hk, hailOf_none h]
      · rw [if_neg hbtx]
    let u := dropFrame port (received port s)
    have hexec : exec (.frameReceived port bytes) s = .next (refreshRange port u) :=
      (exec_frameReceived hrx hpass).trans (congrArg (fun v => Host.Outcome.next (refreshRange port v)) hdrop)
    have hlink : link u port = { link s port with
        rx := none
        counters := { (link s port).counters with dropped := ((link s port).counters.dropped + 1) % 4294967296 } } := by
      change link (modLink port _ (modLink port _ s)) port = _
      rw [link_modLink, link_modLink]
      rfl
    have hother : ∀ q, q ≠ port → link u q = link s q := fun q hq =>
      (link_modLink_ne hq _ _).trans (link_modLink_ne hq _ s)
    refine ⟨refreshRange port u, hexec, rfl, ?_, rangePort_refreshRange port u, fun q hq => ?_⟩
    · refine (link_refreshRange port u).trans ?_
      rw [hlink]
    · exact ⟨(refreshRange_ne hq u).1.trans (hother q hq), (refreshRange_ne hq u).2⟩
end

section
variable {s : State} {port : Port} {bytes : List Byte} {stamp : Nat}

/-! ### Hails (R89, R90) -/

theorem clientByAddr_occupied {addr : MacAddr} {n : Nat} (h : clientByAddr addr s = some n) :
    (client s n).state ≠ .vacant ∧ (client s n).config.addr = addr :=
  ⟨mem_occupied.1 (List.mem_of_find?_eq_some h), by simpa using List.find?_some h⟩

/-- R89: what a Hail of an admitted client leaves. -/
theorem knownHail_spec {n : Nat} (h : n < s.crs.clients.length) :
    let t := knownHail n port stamp s
    (client t n).lastHail = some stamp ∧ n ∈ t.crs.queue ∧ t.crs.newcomers = s.crs.newcomers ∧
      path t n port = if (path s n port).state = .lost then { path s n port with urgent := true } else path s n port := by
  intro t
  let s1 := queuePub n (modClient n (fun c => { c with lastHail := some stamp }) s)
  have hlen : n < s1.crs.clients.length := by
    rw [(queuePub_onSlot (n := n) (modClient n _ s)).length, (modClient_onSlot (n := n) _ s).length]; exact h
  have hclient : client s1 n = { client s n with lastHail := some stamp } := client_modClient _ h
  have hpath : path s1 n port = path s n port := by rw [path, path, hclient]
  by_cases hl : (path s n port).state = .lost
  · have ht : t = modPath n port (fun q => { q with urgent := true }) s1 := if_pos hl
    have hc : client t n = { client s1 n with paths := modPort port (fun q => { q with urgent := true }) (client s1 n).paths } := by
      rw [ht]
      exact client_modClient _ hlen
    refine ⟨?_, ?_, ?_, ?_⟩
    · rw [hc, hclient]
    · rw [ht]
      exact mem_queuePub_self n _
    · rw [ht]
      rfl
    · rw [if_pos hl, ht, path_modPath _ _ hlen, hpath]
  · have ht : t = s1 := if_neg hl
    rw [ht, if_neg hl]
    exact ⟨by rw [hclient], mem_queuePub_self n _, rfl, hpath⟩

/-- R90: what a Hail of any other address leaves. -/
theorem newcomerHail_spec (hail : Hail) (s : State) :
    let t := newcomerHail port hail s
    t.crs.clients = s.crs.clients ∧ t.crs.queue = s.crs.queue ∧
      if s.crs.newcomers.any (·.addr == hail.src) then
        t.crs.newcomers = s.crs.newcomers.map (fun e => if e.addr = hail.src then { e with heard := hail.stamp } else e) ∧
        t.crs.overflow = s.crs.overflow ∧ t.xch = s.xch
      else if s.crs.newcomers.length < 16 then
        t.crs.newcomers = s.crs.newcomers ++ [{ addr := hail.src, heard := hail.stamp }] ∧
        t.crs.overflow = s.crs.overflow ∧
        t.xch = (stage (.hail port hail.src hail.kind hail.period (s.crs.newcomers.length + 1) s.crs.overflow) s).xch
      else t.crs.newcomers = s.crs.newcomers ∧ t.crs.overflow = min (s.crs.overflow + 1) 65535 ∧ t.xch = s.xch := by
  intro t
  by_cases hlisted : s.crs.newcomers.any (·.addr == hail.src) = true
  · have ht : t = _ := if_pos hlisted
    rw [if_pos hlisted, ht]
    exact ⟨rfl, rfl, rfl, rfl, rfl⟩
  · by_cases hroom : s.crs.newcomers.length < 16
    · let s1 := modCrs (fun r => { r with newcomers := r.newcomers ++ [{ addr := hail.src, heard := hail.stamp }] }) s
      have hlen : s1.crs.newcomers.length = s.crs.newcomers.length + 1 := List.length_append
      have ht : t = stage (.hail port hail.src hail.kind hail.period s1.crs.newcomers.length s1.crs.overflow) s1 :=
        (if_neg hlisted).trans (if_pos hroom)
      have hcrs : t.crs = s1.crs := by
        rw [ht]
        exact (stage_frame _ s1).2.2.2.2.1
      rw [if_neg hlisted, if_pos hroom, hcrs]
      refine ⟨rfl, rfl, rfl, rfl, ?_⟩
      rw [ht, hlen]
      exact stage_xch_congr _ rfl rfl
    · have ht : t = _ := (if_neg hlisted).trans (if_neg hroom)
      rw [if_neg hlisted, if_neg hroom, ht]
      exact ⟨rfl, rfl, rfl, rfl, rfl⟩

/-! ### Foreign Beacons (R73) -/

theorem link_received (s : State) : link (received port s) port = { link s port with rx := none } := link_modLink port _ s

/-- R73: both ports' settings stand as a received frame ends. -/
theorem settings_received (s : State) (q : Port) : (link (received port s) q).settings = (link s q).settings := by
  by_cases h : q = port
  · subst h
    rw [link_received]
  · rw [received, link_modLink_ne h]

/-- Settles O39: a Hail by `knownHail_spec` or `newcomerHail_spec`, a Beacon by the cases of R73. -/
theorem hailsAndForeignBeacons : Obligations.HailsAndForeignBeacons := by
  intro s port bytes stamp hrx hpass hbtx f
  have hexec := exec_frameReceived_btx hrx hpass hbtx
  refine ⟨fun kind hk hlen hkind hperiod => ?_, fun hk hlen => ?_⟩
  · let hail : Hail := { src := f.src, kind := kind, period := (byteAt f.body 1).toNat, stamp := stamp }
    let s1 := modLink port (fun l => { l with counters := { l.counters with hails := (l.counters.hails + 1) % 4294967296 } })
      (received port s)
    have hhail : hailOf f stamp = some hail := by
      rw [hailOf, hkind]
      exact if_pos ⟨hlen, hperiod⟩
    rw [dispatch_hail hk, hhail] at hexec
    have hlink : (link s1 port).counters =
        { (link s port).counters with hails := ((link s port).counters.hails + 1) % 4294967296 } := by
      change (link (modLink port _ (received port s)) port).counters = _
      rw [link_modLink, link_received]
    have hcounters : (link (refreshRange port (handleHail port hail s1)) port).counters = (link s1 port).counters := by
      rw [counters_refreshRange, link, (handleHail_frame port hail s1).2.2.2.1]
      rfl
    refine ⟨_, hexec, hcounters.trans hlink, fun n hn => ?_, fun hnone => ?_⟩
    · have ht : handleHail port hail s1 = knownHail n port stamp s1 := by
        rw [handleHail, show clientByAddr hail.src s1 = some n from hn]
      have hspec := knownHail_spec (s := s1) (port := port) (stamp := stamp) (lt_of_occupied (clientByAddr_occupied hn).1)
      rw [← ht] at hspec
      exact hspec
    · have ht : handleHail port hail s1 = newcomerHail port hail s1 := by
        rw [handleHail, show clientByAddr hail.src s1 = none from hnone]
      have hspec := newcomerHail_spec (port := port) hail s1
      rw [← ht, stage_xch_congr _ (show s1.xch = s.xch from rfl) rfl] at hspec
      exact hspec
  · rw [dispatch_beacon hk, if_pos hlen] at hexec
    have hstations : (received port s).lnk.a.settings.station = s.lnk.a.settings.station ∧
        (received port s).lnk.b.settings.station = s.lnk.b.settings.station :=
      ⟨congrArg PortSettings.station (settings_received s .a), congrArg PortSettings.station (settings_received s .b)⟩
    have hreporting : (link (received port s) port).settings.reporting = (link s port).settings.reporting :=
      congrArg PortSettings.reporting (settings_received s port)
    have hcond : (f.src = (received port s).lnk.a.settings.station ∨ f.src = (received port s).lnk.b.settings.station ∨
        (!(link (received port s) port).settings.reporting) = true) ↔ (f.src = s.lnk.a.settings.station ∨
          f.src = s.lnk.b.settings.station ∨ (link s port).settings.reporting = false) := by
      rw [hstations.1, hstations.2, hreporting, Bool.not_eq_true']
    refine ⟨_, hexec, (receiveBeacon_frame port f stamp (received port s)).2.2.2.1, ?_⟩
    by_cases hown : f.src = s.lnk.a.settings.station ∨ f.src = s.lnk.b.settings.station ∨ (link s port).settings.reporting = false
    · have ht : receiveBeacon port f stamp (received port s) = dropFrame port (received port s) := if_pos (hcond.2 hown)
      rw [if_pos hown, ht, counters_refreshRange, holdoff_refreshRange]
      have hlink : link (dropFrame port (received port s)) port = { link s port with
          rx := none
          counters := { (link s port).counters with dropped := ((link s port).counters.dropped + 1) % 4294967296 } } := by
        rw [dropFrame, link_modLink, link_received]
        rfl
      rw [hlink]
      exact ⟨rfl, rfl, rfl⟩
    · let counted := modLink port (fun l => { l with counters := { l.counters with foreign := (l.counters.foreign + 1) % 4294967296 } })
        (received port s)
      have hlink : link counted port = { link s port with
          rx := none
          counters := { (link s port).counters with foreign := ((link s port).counters.foreign + 1) % 4294967296 } } := by
        change link (modLink port _ (received port s)) port = _
        rw [link_modLink, link_received]
      have hold : (link (received port s) port).holdoff = (link s port).holdoff := by rw [link_received]
      rw [if_neg hown, counters_refreshRange, holdoff_refreshRange]
      by_cases hnone : (link s port).holdoff = none
      · let held := modLink port (fun l => { l with holdoff := some (stamp + 160000000000) }) counted
        have hheld : link held port = { link counted port with holdoff := some (stamp + 160000000000) } := link_modLink port _ counted
        have ht : receiveBeacon port f stamp (received port s) = stage (.foreignBeacon port f.src (byteAt f.body 13)
            (byteAt f.body 14) (fieldBe f.body 28 2) (link counted port).counters.foreign) held := by
          refine (if_neg (fun hc => hown (hcond.1 hc))).trans (if_neg ?_)
          rw [hold, hnone]
          exact Bool.false_ne_true
        have hlnk : link (receiveBeacon port f stamp (received port s)) port = link held port := by
          rw [ht, link, (stage_frame _ held).2.2.2.1]
          rfl
        have hxch : (refreshRange port (receiveBeacon port f stamp (received port s))).xch = (stage (.foreignBeacon port f.src
            (byteAt f.body 13) (byteAt f.body 14) (fieldBe f.body 28 2)
              (((link s port).counters.foreign + 1) % 4294967296)) s).xch := by
          change (receiveBeacon port f stamp (received port s)).xch = _
          rw [ht, hlink]
          exact stage_xch_congr _ rfl rfl
        rw [if_pos hnone, hxch, hlnk, hheld, hlink]
        exact ⟨rfl, rfl, rfl⟩
      · have ht : receiveBeacon port f stamp (received port s) = counted := by
          refine (if_neg (fun hc => hown (hcond.1 hc))).trans (if_pos ?_)
          rw [hold]
          exact Option.isSome_iff_ne_none.2 hnone
        rw [if_neg hnone, ht, hlink]
        exact ⟨rfl, rfl, rfl⟩
end
section
variable {s : State} {port : Port} {bytes : List Byte} {stamp : Nat}

/-! ### A client that is queued for publication (R97) -/

theorem samePath_of_sameMeasure {c d : Client} (h : sameMeasure c d = true) (p : Port) :
    samePath (atPort c.paths p) (atPort d.paths p) = true := by
  simp only [sameMeasure, Bool.and_eq_true] at h
  cases p <;> simp_all [atPort]

theorem sameMeasure_counts {c d : Client} (h : sameMeasure c d = true) (p : Port) :
    (atPort c.paths p).accepted = (atPort d.paths p).accepted ∧ (atPort c.paths p).outliers = (atPort d.paths p).outliers ∧
      (atPort c.paths p).rejects = (atPort d.paths p).rejects ∧ (atPort c.paths p).timeouts = (atPort d.paths p).timeouts ∧
      (atPort c.paths p).late = (atPort d.paths p).late ∧ (atPort c.paths p).debt = (atPort d.paths p).debt := by
  have hp := samePath_of_sameMeasure h p
  simp only [samePath, Bool.and_eq_true, beq_iff_eq] at hp
  simp_all

theorem mem_queueIfChanged {n : Nat} {before : Client} (h : sameMeasure (client s n) before = false) :
    n ∈ (queueIfChanged n before s).crs.queue := by
  rw [queueIfChanged, if_neg (by rw [h]; decide)]
  exact mem_queuePub_self n s

theorem queueIfChanged_onSlot {n : Nat} {before : Client} (s : State) : OnSlot n s (queueIfChanged n before s) := by
  obtain ⟨-, h⟩ | ⟨-, h⟩ := queueIfChanged_cases n before s <;> rw [h]
  · exact .refl s
  · exact queuePub_onSlot s

theorem client_queueIfChanged {n : Nat} {before : Client} (s : State) (k : Nat) : client (queueIfChanged n before s) k = client s k := by
  obtain ⟨-, h⟩ | ⟨-, h⟩ := queueIfChanged_cases n before s <;> rw [h]
  rfl

/-! ### Unmatched Echoes (R106) -/

/-- Settles O41: no entry matches, and the client that holds the address is late or not. -/
theorem unmatchedEchoLateOrStray : Obligations.UnmatchedEchoLateOrStray := by
  intro s port bytes t4 e hrx hpass hbtx hkind hecho holds hno
  let s1 := modLink port (fun l => { l with counters := { l.counters with echoes := (l.counters.echoes + 1) % 4294967296 } })
    (received port s)
  have hexec : exec (.frameReceived port bytes) s = .next (refreshRange port (handleEcho port e s1)) := by
    rw [exec_frameReceived_btx hrx hpass hbtx, dispatch_echo hkind, hecho]
  have hlink : link s1 port = { link s port with
      rx := none
      counters := { (link s port).counters with echoes := ((link s port).counters.echoes + 1) % 4294967296 } } := by
    change link (modLink port _ (received port s)) port = _
    rw [link_modLink, link_received]
  have hmatch : matchedEntry port e s1 = none := by
    refine List.find?_eq_none.2 fun x hx hc => ?_
    simp only [Bool.and_eq_true, beq_iff_eq, bne_iff_ne] at hc
    obtain ⟨⟨⟨htag, ht1⟩, hstate⟩, haddr⟩ := hc
    rcases hno x hx htag with h | h
    · rw [h] at ht1
      cases ht1
    · exact h ⟨hstate, haddr⟩
  cases hlate : lateClient port e s1 with
  | some n =>
    obtain ⟨hn, hexpired⟩ := Option.filter_eq_some_iff.1 hlate
    have hn : holds n := clientByAddr_occupied (s := s1) hn
    have hexpired : (path s n port).lastExpired = some e.tag := beq_iff_eq.1 hexpired
    have hlt : n < s1.crs.clients.length := lt_of_occupied (s := s) hn.1
    let s2 := modPath n port (fun q => { q with late := incSat16 q.late }) s1
    let s3 := queueIfChanged n (client s1 n) s2
    have ht : handleEcho port e s1 = s3 := by rw [handleEcho, hmatch, hlate]
    have hframe := queueIfChanged_frame n (client s1 n) s2
    obtain ⟨-, -, -, hlnk, hrng, hbcu, -, -, hxch, hmem, -⟩ := hframe
    have hlink3 : link s3 port = link s1 port := congrArg (atPort · port) hlnk
    have hpath : path s3 n port = { path s n port with late := min ((path s n port).late + 1) 65535 } := by
      have h3 : path s3 n port = path s2 n port := congrArg (fun c : Client => atPort c.paths port) (client_queueIfChanged s2 n)
      rw [h3]
      exact path_modPath port _ hlt
    have hslot : OnSlot n s1 s3 := (modPath_onSlot port _ s1).trans (queueIfChanged_onSlot s2)
    rw [ht] at hexec
    refine ⟨_, hexec, hmem, hxch, hbcu, ?_, ?_, ?_⟩
    · rw [table_refreshRange, rangePort, hrng]
      rfl
    · intro m hm honly _
      obtain rfl : n = m := honly n hn
      refine ⟨?_, hpath, fun hroom => ?_, fun k hk => hslot.others k hk⟩
      · rw [counters_refreshRange, hlink3, hlink]
      · refine mem_queueIfChanged (Bool.eq_false_iff.2 fun hsame => ?_)
        have hlate2 : (path s2 n port).late = (path s n port).late := (sameMeasure_counts hsame port).2.2.2.2.1
        have hgrown : (path s2 n port).late = min ((path s n port).late + 1) 65535 :=
          congrArg Path.late (path_modPath port (fun q => { q with late := incSat16 q.late }) hlt)
        omega
    · exact fun hnone => absurd hexpired (hnone n hn)
  | none =>
    have ht : handleEcho port e s1 =
        modLink port (fun l => { l with counters := { l.counters with stray := incWrap32 l.counters.stray } }) s1 := by
      rw [handleEcho, hmatch, hlate]
    rw [ht] at hexec
    refine ⟨_, hexec, rfl, rfl, rfl, table_refreshRange port _, ?_, ?_⟩
    · intro n hn honly hexpired
      cases haddr : clientByAddr e.src s1 with
      | none => exact absurd hn (clientByAddr_eq_none haddr n)
      | some k =>
        obtain rfl : k = n := honly k (clientByAddr_occupied (s := s1) haddr)
        have hsome : lateClient port e s1 = some k := by
          rw [lateClient, haddr]
          exact Option.filter_eq_some_iff.2 ⟨rfl, beq_iff_eq.2 hexpired⟩
        rw [hlate] at hsome
        cases hsome
    · intro _
      rw [counters_refreshRange, link_modLink, hlink]
      exact ⟨rfl, rfl⟩

/-! ### Deadlines of a port (R73, R102, R107, R124) -/

/-- R100: the Range request as judged anew. -/
theorem rangeReq_refreshRange (p : Port) (s : State) : (link (refreshRange p s) p).rangeReq = true ↔ launchHolds s p := by
  rw [← launchPermitted_iff]
  cases p <;> rfl

/-- R102: a window with room holds no opening instant. -/
theorem windowAt_refreshRange {p : Port} (h : windowHasRoom s p) : (rangePort (refreshRange p s) p).windowAt = none := by
  have hopens : (rangePort (refreshRange p s) p).windowAt = windowOpens s.rng.settings (rangePort s p).history (now s) := by
    cases p <;> rfl
  rw [hopens, windowOpens, if_pos ((windowPermits_iff s p).2 h)]

/-- R105: the entry that a tag of the table finds. -/
theorem entryOf_mem {x : Exchange} (h : TableOk (rangePort s port)) (hx : x ∈ (rangePort s port).table) :
    entryOf s port x.tag = some x := by
  obtain ⟨-, htags, -⟩ := h
  cases hf : entryOf s port x.tag with
  | none => exact absurd (List.find?_eq_none.1 hf x hx) (by simp)
  | some y =>
    have hy := List.mem_of_find?_eq_some hf
    have htag : y.tag = x.tag := by simpa using List.find?_some hf
    rw [List.inj_on_of_nodup_map htags hy hx htag]

/-- R107: what the expiry of an exchange leaves. -/
theorem expire_spec {tag : Byte} {x : Exchange} (hlt : x.slot < s.crs.clients.length) :
    let t := expire port tag x s
    t.mem = s.mem ∧ t.xch = s.xch ∧ (rangePort t port).table = (rangePort s port).table.filter (fun y => y.tag != tag) ∧
      path t x.slot port = { path s x.slot port with
        timeouts := min ((path s x.slot port).timeouts + 1) 65535, lastExpired := some tag } ∧
      ((path s x.slot port).timeouts < 65535 → x.slot ∈ t.crs.queue) ∧ (∀ m, m ≠ x.slot → client t m = client s m) ∧
      ((link t port).rangeReq = true ↔ launchHolds t port) := by
  intro t
  let freed := freeEntry port tag s
  let s1 := modPath x.slot port (fun q => { q with timeouts := incSat16 q.timeouts, lastExpired := some tag }) freed
  let s2 := queueIfChanged x.slot (client s x.slot) s1
  obtain ⟨-, -, -, -, hrng, -, -, -, hxch, hmem, -⟩ := queueIfChanged_frame x.slot (client s x.slot) s1
  have hpath1 : path s1 x.slot port = { path s x.slot port with
      timeouts := min ((path s x.slot port).timeouts + 1) 65535, lastExpired := some tag } :=
    path_modPath (s := freed) port _ hlt
  have hpath2 : path s2 x.slot port = path s1 x.slot port :=
    congrArg (fun c : Client => atPort c.paths port) (client_queueIfChanged s1 x.slot)
  have hslot : OnSlot x.slot freed s2 := (modPath_onSlot port _ freed).trans (queueIfChanged_onSlot s1)
  refine ⟨hmem, hxch, ?_, hpath2.trans hpath1, fun hroom => ?_, fun m hm => hslot.others m hm, (refreshRange_fresh port s2).req⟩
  · have htable : (rangePort s2 port).table = (rangePort freed port).table := by rw [rangePort, hrng]; rfl
    refine (table_refreshRange port s2).trans (htable.trans ?_)
    exact congrArg RangePort.table (rangePort_modRange port _ s)
  · refine mem_queueIfChanged (Bool.eq_false_iff.2 fun hsame => ?_)
    have htimeouts : (path s1 x.slot port).timeouts = (path s x.slot port).timeouts := (sameMeasure_counts hsame port).2.2.2.1
    rw [hpath1] at htimeouts
    dsimp only at htimeouts
    omega

/-- Settles O42: each deadline reached and not reached; an expired exchange by `expire_spec`. -/
theorem deadlinesActWhenReached : Obligations.DeadlinesActWhenReached := by
  intro s port
  have hbeacon : exec (.beaconPoint port) s = execBeaconPoint port s := rfl
  have hwindow : exec (.windowOpening port) s = execWindowOpening port s := rfl
  have hexpiry : ∀ tag, exec (.exchangeExpiry port tag) s = execExchangeExpiry port tag s := fun _ => rfl
  refine ⟨fun u hu hup hreach => ?_, fun h => ?_, fun w hw hnow => ?_, fun h => ?_, rfl, fun tag h => ?_, ?_⟩
  · rw [hbeacon, execBeaconPoint, hu]
    exact congrArg Host.Outcome.next (if_pos ⟨hup, hreach⟩)
  · rw [hbeacon, execBeaconPoint]
    cases hu : (beaconPort s port).next with
    | none => rfl
    | some u =>
      refine congrArg Host.Outcome.next (if_neg ?_)
      rintro ⟨hup, hreach⟩
      rcases h with h | h
      · exact h hup
      · rw [hu] at h
        exact Bool.false_ne_true (h.symm.trans hreach)
  · have hexec : exec (.windowOpening port) s = .next (refreshRange port s) := by
      rw [hwindow, execWindowOpening, hw]
      exact congrArg Host.Outcome.next (if_pos hnow)
    exact ⟨_, hexec, rfl, link_refreshRange port s, rangePort_refreshRange port s, rangeReq_refreshRange port s,
      windowAt_refreshRange⟩
  · rw [hwindow, execWindowOpening]
    cases hw : (rangePort s port).windowAt with
    | none => rfl
    | some w => exact congrArg Host.Outcome.next (if_neg (Nat.not_le.2 (h w hw)))
  · rw [hexpiry, execExchangeExpiry]
    cases hx : entryOf s port tag with
    | none => rfl
    | some x =>
      have hmem := List.mem_of_find?_eq_some hx
      have htag : x.tag = tag := by simpa using List.find?_some hx
      refine congrArg Host.Outcome.next (if_neg ?_)
      cases hu : x.expiry with
      | none => exact Bool.false_ne_true
      | some u =>
        have hlate := h x hmem htag u hu
        simp only [Timebase.passed, decide_eq_true_eq]
        exact Nat.not_le.2 hlate
  · intro x u htable hx hu hnow hlt hroom
    have hexec : exec (.exchangeExpiry port x.tag) s = .next (expire port x.tag x s) := by
      rw [hexpiry, execExchangeExpiry, entryOf_mem htable hx]
      refine congrArg Host.Outcome.next (if_pos ?_)
      rw [hu]
      exact decide_eq_true hnow
    obtain ⟨hmem, hxch, htab, hpath, hqueue, hothers, hreq⟩ := expire_spec (port := port) (tag := x.tag) hlt
    have hmin : min ((path s x.slot port).timeouts + 1) 65535 = (path s x.slot port).timeouts + 1 := by omega
    rw [hmin] at hpath
    exact ⟨_, hexec, hmem, hxch, htab, hpath, hqueue hroom, hothers, hreq⟩
end
end Sys2Proof.Machine

/-! ## A matched Echo (R99, R106, R110 to R120) -/

namespace Sys2Proof.Machine

/-! ### The filter (R110 to R115) -/

/-- R99, R112: a path as an Echo that passes the round-trip checks finds it, its debt paid. -/
def echoTried (rtA : Int) (q : Path) : Path := { q with
  debt := if q.state = .lost then q.debt else q.debt - 1
  clamps := if rtA < 0 then min (q.clamps + 1) 65535 else q.clamps }

/-- R110: a path whose Echo is accepted, its D apart. -/
def echoTaken (rtA : Int) (q : Path) : Path :=
  { echoTried rtA q with accepted := min (q.accepted + 1) 65535, outlierRun := 0 }

/-- R113, R114: D moved toward a sample. -/
def movedDelay (x d div : Nat) : Nat := (max 0 (min 4294967295 ((d : Int) + ((x : Int) - d).tdiv div))).toNat

/-- R110 to R115: the path that a matched Echo leaves. -/
def echoAfter (cfg : PathConfig) (passes : Bool) (rtA : Int) (x : Nat) (q : Path) : Path :=
  if passes = false then { echoTried rtA q with clamps := q.clamps, rejects := min (q.rejects + 1) 65535 }
  else if q.state = .lost then
    { echoTaken rtA q with state := .seeding, debt := 0, urgent := false, delay := some x, seeds := 1 }
  else match q.delay with
    | none => { echoTaken rtA q with delay := some x, seeds := 1 }
    | some d =>
      if decide (((x : Int) - d).natAbs ≤ cfg.gate * 16) then
        if q.state = .valid then { echoTaken rtA q with delay := some (movedDelay x d (2 ^ cfg.shift)) }
        else { echoTaken rtA q with delay := some (movedDelay x d 2), seeds := q.seeds + 1
                                    state := if 3 ≤ q.seeds then .valid else .seeding }
      else if q.outlierRun < 3 then
        { echoTried rtA q with outlierRun := q.outlierRun + 1, outliers := min (q.outliers + 1) 65535 }
      else { echoTaken rtA q with delay := some x, seeds := if q.state = .valid then q.seeds else 1 }

/-- R113, R114: the path has D, is not LOST, and the sample lies outside the gate. -/
def echoOutside (cfg : PathConfig) (x : Nat) (q : Path) : Bool :=
  q.state != .lost && q.delay.any (fun d : Nat => !decide (((x : Int) - d).natAbs ≤ cfg.gate * 16))

/-- R110 to R115: the filter of a SEEDING, VALID or LOST path, a VALID one with D. -/
theorem judgeEcho_after (cfg : PathConfig) (ceiling t1 : Nat) (e : Echo) (q : Path) (hidle : q.state ≠ .idle)
    (hvalid : q.state = .valid → q.delay ≠ none) :
    let rt := roundTrip t1 e
    let passes := tripOk ceiling rt
    let x := sampleOf rt cfg.asymmetry
    let f := judgeEcho cfg ceiling t1 e q
    countOutcome f.outcome (payDebt q.state f.path) = echoAfter cfg passes (rt + cfg.asymmetry) x q ∧
      f.outcome = (if passes = false then .rejected else if echoOutside cfg x q = true ∧ q.outlierRun < 3 then .outlier
        else .accepted) ∧
      f.reseedFrom = (if passes = true ∧ echoOutside cfg x q = true ∧ 3 ≤ q.outlierRun then q.delay else none) ∧
      f.path.state = (countOutcome f.outcome (payDebt q.state f.path)).state ∧
      f.path.delay = (countOutcome f.outcome (payDebt q.state f.path)).delay ∧
      f.path.announcedDelay = q.announcedDelay := by
  intro rt passes x f
  cases hp : passes with
  | false =>
    have hf : f = { outcome := .rejected, path := q, reseedFrom := none } := if_neg (by rw [show tripOk ceiling rt = false from hp]; decide)
    rw [hf]
    cases hs : q.state <;> simp_all [countOutcome, payDebt, echoAfter, echoTried, incSat16]
  | true =>
    let q0 : Path := { q with clamps := if rt + cfg.asymmetry < 0 then incSat16 q.clamps else q.clamps }
    have hf : f = filterSample cfg x q0 := if_pos (show tripOk ceiling rt = true from hp)
    rw [hf]
    cases hs : q.state with
    | idle => exact absurd hs hidle
    | lost =>
      simp [filterSample, q0, hs, countOutcome, payDebt, echoAfter, echoTaken, echoTried, echoOutside, firstSample, incSat16]
    | seeding =>
      cases hd : q.delay with
      | none =>
        simp [filterSample, q0, hs, hd, countOutcome, payDebt, echoAfter, echoTaken, echoTried, echoOutside, firstSample, incSat16]
      | some d =>
        by_cases hnear : ((x : Int) - d).natAbs ≤ cfg.gate * 16
        · simp [filterSample, withinGate, seedSample, moveDelay, movedDelay, max32, q0, hs, hd, hnear, countOutcome, payDebt, echoAfter, echoTaken, echoTried,
            echoOutside, incSat16]
        · by_cases hrun : q.outlierRun < 3
          · simp [filterSample, withinGate, Machine.outside, q0, hs, hd, hnear, hrun, countOutcome, payDebt, echoAfter, echoTried,
            echoOutside, incSat16]
          · have hmany : 3 ≤ q.outlierRun := by omega
            simp [filterSample, withinGate, Machine.outside, q0, hs, hd, hnear, hrun, hmany, countOutcome, payDebt, echoAfter, echoTaken, echoTried,
            echoOutside, incSat16]
    | valid =>
      cases hd : q.delay with
      | none => exact absurd hd (hvalid hs)
      | some d =>
        by_cases hnear : ((x : Int) - d).natAbs ≤ cfg.gate * 16
        · simp [filterSample, withinGate, moveDelay, movedDelay, max32, q0, hs, hd, hnear, countOutcome, payDebt, echoAfter, echoTaken, echoTried,
            echoOutside, incSat16]
        · by_cases hrun : q.outlierRun < 3
          · simp [filterSample, withinGate, Machine.outside, q0, hs, hd, hnear, hrun, countOutcome, payDebt, echoAfter, echoTried,
            echoOutside, incSat16]
          · have hmany : 3 ≤ q.outlierRun := by omega
            simp [filterSample, withinGate, Machine.outside, q0, hs, hd, hnear, hrun, hmany, countOutcome, payDebt, echoAfter, echoTaken, echoTried,
            echoOutside, incSat16]

theorem echoOffset_eq (t1 d : Nat) (e : Echo) :
    let sec := (t1 / 16000000000 : Nat)
    let u : Int := ((e.sec4 : Int) - (sec % 16 : Nat)) % 16
    let t2 : Int := ((sec : Int) + (if u < 8 then u else u - 16)) * 16000000000 + e.ns * 16 + e.six
    echoOffset t1 d e = max (-2147483647) (min 2147483647 (t2 - t1 - d)) := by
  intro sec u t2
  have hsec : secOf t1 = sec := rfl
  have hrebuilt : rebuildSeconds (secOf t1) e.sec4 = (sec : Int) + (if u < 8 then u else u - 16) := by
    rw [hsec]
    unfold rebuildSeconds
    by_cases hu : u < 8
    · rw [if_pos hu, if_pos hu]
    · rw [if_neg hu, if_neg hu]
      change (sec : Int) + u - 16 = _
      omega
  rw [echoOffset, hrebuilt]
  rfl

section
variable {n : Nat} {s t : State} {port : Port}

/-! ### What a processed Echo leaves (R84, R87, R119, R120) -/

/-- R83, R84: an evaluation made in `u`, which has grown from `s` and grows on to `t`, is one made between these. -/
theorem stateFollows_grown {u v : State} {cause : ClientCause} (h : stateFollows n cause u v)
    (hstate : (client u n).state = (client s n).state) (hbefore : Grows s u) (hclient : client t n = client v n)
    (hafter : Grows v t) : stateFollows n cause s t := by
  obtain ⟨htable, hrecord⟩ := h
  rw [hstate] at hrecord
  refine ⟨by rw [hclient]; exact htable, ?_⟩
  rw [hclient]
  intro hne
  obtain ⟨hhanded, hq, hjoin⟩ := hrecord hne
  exact ⟨hafter.handedOn (hbefore.handedOn_before hhanded), hafter.queue _ hq,
    fun hf p hv => hafter.roll p n (hjoin hf p hv)⟩

theorem pathRecords_hands {p : Port} {before : PathState} {f : Filtered} (h : Hands s t) : Hands s (pathRecords n p before f t) := by
  simp only [pathRecords]
  (repeat' split)
  · exact stage_hands h
  · exact h
  · exact stage_hands (stage_hands h)
  · exact stage_hands h

/-- R119: the records of a processed Echo. -/
theorem pathRecords_handed {p : Port} {before : PathState} {f : Filtered} :
    ((path s n p).state = .valid → before ≠ .valid → handedOn s (pathRecords n p before f s) (.pathValid n p (client s n).config.addr
      (path s n p).debt ((path s n p).delay.getD 0) (path s n p).accepted (path s n p).outliers)) ∧
    ∀ d, f.reseedFrom = some d → handedOn s (pathRecords n p before f s)
      (.pathStep n p (client s n).config.addr (path s n p).state d ((path s n p).delay.getD 0)) := by
  let q := path s n p
  let addr := (client s n).config.addr
  let s1 := if q.state = .valid ∧ before ≠ .valid then stage (.pathValid n p addr q.debt (q.delay.getD 0) q.accepted q.outliers) s
    else s
  have ht : pathRecords n p before f s = match f.reseedFrom with
      | none => s1
      | some d => stage (.pathStep n p addr q.state d (q.delay.getD 0)) s1 := rfl
  have hs1 : Hands s s1 := by
    simp only [s1]
    split
    · exact stage_hands (.refl s)
    · exact .refl s
  refine ⟨fun hvalid hbefore => ?_, fun d hd => ?_⟩
  · have hfirst : handedOn s s1 (.pathValid n p addr q.debt (q.delay.getD 0) q.accepted q.outliers) := by
      rw [show s1 = stage _ s from if_pos ⟨hvalid, hbefore⟩]
      exact handedOn_stage _ s
    rw [ht]
    cases f.reseedFrom with
    | none => exact hfirst
    | some d => exact (stage_hands (.refl s1)).grows.handedOn hfirst
  · rw [ht, hd]
    exact hs1.grows.handedOn_before (handedOn_stage _ s1)

theorem processEcho_spec {t1 : Nat} {e : Echo} (hv : (client s n).state ≠ .vacant) :
    let c := client s n
    let q := path s n port
    let f := judgeEcho (atPort c.config.path port) s.rng.settings.ceiling t1 e q
    let after := countOutcome f.outcome (payDebt q.state f.path)
    let offset := echoOffset t1 (after.delay.getD 0) e
    let t := processEcho n port t1 e s
    (∃ st, client t n = { storeOutcome f.outcome e.status offset { c with paths := modPort port (fun _ => after) c.paths } with
        state := st }) ∧
      stateFollows n (echoCause (after.state != q.state) (c.reverify && f.outcome == .accepted)) s t ∧ OnSlot n s t ∧
      (after.accepted ≠ q.accepted ∨ after.outliers ≠ q.outliers ∨ after.rejects ≠ q.rejects → n ∈ t.crs.queue) ∧
      (after.state = .valid → q.state ≠ .valid →
        handedOn s t (.pathValid n port c.config.addr after.debt (after.delay.getD 0) after.accepted after.outliers)) ∧
      (∀ d, f.reseedFrom = some d → handedOn s t (.pathStep n port c.config.addr after.state d (after.delay.getD 0))) ∧
      (announceAfter q.state f c.config.announceThreshold = true → inRoll t port n) ∧
      t.mem = s.mem ∧ t.lnk = s.lnk ∧ t.rng = s.rng := by
  intro c q f after offset t
  have hlt := lt_of_occupied hv
  let s0 := modPath n port (fun _ => after) s
  let s1 := pathRecords n port q.state f s0
  let s2 := modClient n (storeOutcome f.outcome e.status offset) s1
  let cause := echoCause (after.state != q.state) (c.reverify && f.outcome == .accepted)
  let s3 := evaluate n cause s2
  let s4 := queueIfChanged n c s3
  have hc0 : client s0 n = { c with paths := modPort port (fun _ => after) c.paths } := client_modClient _ hlt
  have hq0 : path s0 n port = after := path_modPath port _ hlt
  have hcrs1 : s1.crs = s0.crs := (pathRecords_frame n port q.state f s0).2.2.2.2.1
  have hc1 : client s1 n = { c with paths := modPort port (fun _ => after) c.paths } := by
    rw [client, hcrs1]
    exact hc0
  have hlen1 : n < s1.crs.clients.length := by
    rw [hcrs1, (modPath_onSlot (n := n) port _ s).length]
    exact hlt
  have hc2 : client s2 n = storeOutcome f.outcome e.status offset { c with paths := modPort port (fun _ => after) c.paths } := by
    rw [← hc1]
    exact client_modClient _ hlen1
  have hstate2 : (client s2 n).state = c.state := by
    rw [hc2]
    cases f.outcome <;> rfl
  have hpaths2 : (client s2 n).paths = modPort port (fun _ => after) c.paths := by
    rw [hc2]
    cases f.outcome <;> rfl
  obtain ⟨st, hst⟩ := evaluate_client n cause s2
  have hc4 : client s4 n = { client s2 n with state := st } := (client_queueIfChanged s3 n).trans hst
  have hslot : OnSlot n s s4 := (modPath_onSlot port _ s).trans <| (OnSlot.of_crs hcrs1).trans <| (modClient_onSlot _ s1).trans <|
    (evaluate_onSlot cause s2).trans (queueIfChanged_onSlot s3)
  have hhands0 : Hands s s0 := modClient_hands (.refl s)
  have hhands1 : Hands s s1 := pathRecords_hands hhands0
  have hhands2 : Hands s s2 := modClient_hands hhands1
  have hhands34 : Hands s3 s4 := queueIfChanged_hands (.refl s3)
  have hhands14 : Hands s1 s4 := (modClient_hands (.refl s1)).trans ((evaluate_hands (.refl s2)).trans hhands34)
  have ht : t = if announceAfter q.state f c.config.announceThreshold then joinRoll port n s4 else s4 := rfl
  have hclient : ∀ k, client t k = client s4 k := by
    intro k
    rw [ht]
    split
    · rw [client, (joinRoll_frame port n s4).2.2.2.2.1]
      rfl
    · rfl
  have hqueue : t.crs.queue = s4.crs.queue := by
    rw [ht]
    split
    · rw [(joinRoll_frame port n s4).2.2.2.2.1]
    · rfl
  have hhands4 : Hands s4 t := by
    rw [ht]
    split
    · exact joinRoll_hands (.refl s4)
    · exact .refl s4
  have hframe := processEcho_frame n port t1 e s
  obtain ⟨hvalidRecord, hstepRecord⟩ := pathRecords_handed (s := s0) (n := n) (p := port) (before := q.state) (f := f)
  have hrecorded : ∀ body, handedOn s0 s1 body → handedOn s t body := fun body h =>
    hhands4.grows.handedOn (hhands14.grows.handedOn (hhands0.grows.handedOn_before h))
  have haddr : (client s0 n).config.addr = c.config.addr := by rw [hc0]
  rw [hq0, haddr] at hvalidRecord hstepRecord
  refine ⟨⟨st, ?_⟩, ?_, ?_, fun hcount => ?_, fun hnew hold => hrecorded _ (hvalidRecord hnew hold),
    fun d hd => hrecorded _ (hstepRecord d hd), fun ha => ?_, hframe.2.2.2.2.2.2.2.1, hframe.2.2.2.1, hframe.2.2.2.2.1⟩
  · rw [hclient, hc4, hc2]
  · exact stateFollows_grown (evaluate_follows n cause s2 (by rw [hstate2]; exact hv)) hstate2 hhands2.grows
      ((hclient n).trans (client_queueIfChanged s3 n)) (hhands34.trans hhands4).grows
  · exact ⟨fun k hk => (hclient k).trans (hslot.others k hk), by rw [ht]; split <;> simp [hslot.length],
      by rw [ht]; split <;> simp [hslot.newcomers]⟩
  · rw [hqueue]
    refine mem_queueIfChanged (Bool.eq_false_iff.2 fun hsame => ?_)
    have hpath3 : atPort (client s3 n).paths port = after := by
      rw [hst]
      change atPort (client s2 n).paths port = after
      rw [hpaths2, atPort_modPort]
    obtain ⟨hacc, hout, hrej, -⟩ := sameMeasure_counts hsame port
    rw [hpath3] at hacc hout hrej
    rcases hcount with h | h | h
    · exact h hacc
    · exact h hout
    · exact h hrej
  · rw [ht, if_pos ha]
    exact joinRoll_mem port n s4

/-- R86: a verdict after one more judged instant. -/
theorem judge_eq (within : Bool) (j : Judged) : judge within j =
    if within = true then { verdict := if 1 ≤ j.within then .pass else j.verdict, within := min (j.within + 1) 2, beyond := 0 }
    else { verdict := if 2 ≤ j.beyond then .fail else j.verdict, within := 0, beyond := min (j.beyond + 1) 3 } := by
  have hpass : min (j.within + 1) 2 = 2 ↔ 1 ≤ j.within := by omega
  have hfail : min (j.beyond + 1) 3 = 3 ↔ 2 ≤ j.beyond := by omega
  cases within <;> simp only [judge, hpass, hfail, if_true, Bool.false_eq_true, if_false]

/-- R110: each processed Echo grows one counter that is not full. -/
theorem echoAfter_counts (cfg : PathConfig) (passes : Bool) (rtA : Int) (x : Nat) {q : Path} (hacc : q.accepted < 65535)
    (hout : q.outliers < 65535) (hrej : q.rejects < 65535) :
    let after := echoAfter cfg passes rtA x q
    after.accepted ≠ q.accepted ∨ after.outliers ≠ q.outliers ∨ after.rejects ≠ q.rejects := by
  have ha : min (q.accepted + 1) 65535 ≠ q.accepted := by omega
  have ho : min (q.outliers + 1) 65535 ≠ q.outliers := by omega
  have hr : min (q.rejects + 1) 65535 ≠ q.rejects := by omega
  intro after
  simp only [after, echoAfter]
  split
  · exact .inr (.inr hr)
  · split
    · exact .inl ha
    · split
      · exact .inl ha
      · split
        · split
          · exact .inl ha
          · exact .inl ha
        · split
          · exact .inr (.inl ho)
          · exact .inl ha

/-- R115: what a reseed leaves of D. -/
theorem echoAfter_reseeded {cfg : PathConfig} {rtA : Int} {x : Nat} {q : Path} (hout : echoOutside cfg x q = true)
    (hrun : 3 ≤ q.outlierRun) : (echoAfter cfg true rtA x q).delay = some x := by
  simp only [echoOutside, Bool.and_eq_true, bne_iff_ne, Option.any_eq_true, Bool.not_eq_true', decide_eq_false_iff_not] at hout
  obtain ⟨hlost, d, hd, hfar⟩ := hout
  simp [echoAfter, hlost, hd, hfar, Nat.not_lt.2 hrun]

/-- R106: the entry that a matched Echo finds. -/
theorem matchedEntry_mem {e : Echo} {x : Exchange} (htable : TableOk (rangePort s port)) (hx : x ∈ (rangePort s port).table)
    (htag : x.tag = e.tag) (ht1 : x.t1 ≠ none) (hv : (client s x.slot).state ≠ .vacant)
    (haddr : (client s x.slot).config.addr = e.src) : matchedEntry port e s = some x := by
  obtain ⟨-, htags, -⟩ := htable
  cases hf : matchedEntry port e s with
  | none =>
    refine absurd (List.find?_eq_none.1 hf x hx) (not_not.2 ?_)
    simp [htag, Option.isSome_iff_ne_none.2 ht1, hv, haddr]
  | some y =>
    have hy := List.mem_of_find?_eq_some hf
    have hytag : y.tag = e.tag := by
      have := List.find?_some hf
      simp only [Bool.and_eq_true, beq_iff_eq] at this
      exact this.1.1.1
    rw [List.inj_on_of_nodup_map htags hy hx (hytag.trans htag.symm)]

/-- R87: the client that an Echo outcome leaves, the evaluation apart. -/
theorem storeOutcome_eq (o : EchoOutcome) (status : SelfStatus) (offset : Int) (c : Client) : storeOutcome o status offset c =
    { c with
      selfStatus := some status
      offset := if o = .rejected then c.offset else some offset
      offsetV := if o = .accepted then judge (decide (offset.natAbs ≤ c.config.offsetTol * 16)) c.offsetV else c.offsetV
      reverify := if o = .accepted then false else c.reverify } := by
  cases o <;> rfl

theorem echoOf_stamp {f : RxFrame} {e : Echo} {t : Nat} (h : echoOf f t = some e) : e.t4 = t := by
  unfold echoOf at h
  split at h
  · cases h
  · split at h
    · cases h
      rfl
    · cases h

/-- Settles O40: the filter by `judgeEcho_after`, the rest by `processEcho_spec`. -/
theorem matchedEchoOutcomes : Obligations.MatchedEchoOutcomes := by
  intro s port bytes t4 t1 n e x q hrx hpass hbtx hkind hecho htable hx htag hslot ht1 hv haddr hq hidle hvalid
    c cfg rt passes sample near moved tried taken after outside accepted sec u t2 offset
  subst hslot
  let s1 := modLink port (fun l => { l with counters := { l.counters with echoes := (l.counters.echoes + 1) % 4294967296 } })
    (received port s)
  let w := freeEntry port x.tag s1
  let t := refreshRange port (processEcho x.slot port t1 e w)
  have hexec : exec (.frameReceived port bytes) s = .next t := by
    rw [exec_frameReceived_btx hrx hpass hbtx, dispatch_echo hkind, hecho]
    have hmatch : matchedEntry port e s1 = some x :=
      matchedEntry_mem (s := s1) htable hx htag (by rw [ht1]; simp) hv haddr
    change Host.Outcome.next (refreshRange port (handleEcho port e s1)) = _
    rw [handleEcho, hmatch]
    simp only [ht1]
    rfl
  have ht4 : e.t4 = t4 := echoOf_stamp hecho
  have hrt : roundTrip t1 e = rt := by rw [roundTrip, ht4]
  have hsample : sampleOf rt cfg.asymmetry = sample := by
    simp only [sampleOf, sample]
    omega
  have hafter : after = echoAfter cfg passes (rt + cfg.asymmetry) sample q := rfl
  have houtside : outside = echoOutside cfg sample q := rfl
  have hqw : path w x.slot port = q := hq.symm
  let f := judgeEcho cfg s.rng.settings.ceiling t1 e q
  obtain ⟨h1, h2, h3, h4, h5, h6⟩ := judgeEcho_after cfg s.rng.settings.ceiling t1 e q hidle hvalid
  rw [hrt, hsample] at h1 h2 h3
  have hpath : countOutcome f.outcome (payDebt q.state f.path) = after := h1
  have houtcome : f.outcome = if passes = false then .rejected else if outside = true ∧ q.outlierRun < 3 then .outlier
      else .accepted := h2
  have hreseed : f.reseedFrom = if passes = true ∧ outside = true ∧ 3 ≤ q.outlierRun then q.delay else none := h3
  have hstate : f.path.state = after.state := h4.trans (congrArg Path.state hpath)
  have hdelay : f.path.delay = after.delay := h5.trans (congrArg Path.delay hpath)
  have hannounced : f.path.announcedDelay = q.announcedDelay := h6
  have hoffset : echoOffset t1 (after.delay.getD 0) e = offset := echoOffset_eq t1 (after.delay.getD 0) e
  have haccepted : accepted = true ↔ f.outcome = .accepted := by
    rw [houtcome]
    simp only [accepted]
    cases passes <;> cases outside <;> simp
  have hrejected : f.outcome = .rejected ↔ passes = false := by
    rw [houtcome]
    cases passes
    · simp
    · by_cases hrun : outside = true ∧ q.outlierRun < 3
      · simp [hrun]
      · simp [hrun]
  have hspec := processEcho_spec (s := w) (n := x.slot) (port := port) (t1 := t1) (e := e) hv
  have hcw : client w x.slot = c := rfl
  have hfw : judgeEcho (atPort c.config.path port) w.rng.settings.ceiling t1 e q = f := rfl
  simp only [hqw, hcw, hfw, hpath, hoffset] at hspec
  obtain ⟨⟨st, hclient⟩, hfollows, hslot, hqueue, hvalidRecord, hstepRecord, hjoin, hmem, hlnk, hrng⟩ := hspec
  have htc : client t x.slot = client (processEcho x.slot port t1 e w) x.slot := rfl
  rw [storeOutcome_eq] at hclient
  have hfollows' : stateFollows x.slot (if after.state ≠ q.state then .path
      else if accepted = true ∧ c.reverify = true then .echo else .verdict) s t := by
    have hcause : echoCause (after.state != q.state) (c.reverify && f.outcome == .accepted) = if after.state ≠ q.state then .path
        else if accepted = true ∧ c.reverify = true then .echo else .verdict := by
      have hcleared : (c.reverify && f.outcome == .accepted) = true ↔ accepted = true ∧ c.reverify = true := by
        rw [Bool.and_eq_true, beq_iff_eq, haccepted, and_comm]
      rw [echoCause]
      simp only [bne_iff_ne, hcleared]
    rw [hcause] at hfollows
    exact hfollows
  refine ⟨t, hexec, hmem, ?_, ?_, ?_, hvalidRecord, ?_, ?_, ?_, ?_, fun m hm => hslot.others m hm⟩
  · rw [path, htc, hclient]
    exact atPort_modPort port _ c.paths
  · refine ⟨?_, ?_, ?_, ?_, hfollows', ?_, ?_, ?_, ?_⟩
    · rw [htc, hclient]
    · rw [htc, hclient]
      simp only [hrejected]
      cases passes <;> rfl
    · rw [htc, hclient]
      simp only [haccepted]
    · rw [htc, hclient]
      simp only [judge_eq, decide_eq_true_eq, haccepted]
    · rw [htc, hclient]
    · rw [htc, hclient]
    · rw [htc, hclient]
    · rw [htc, hclient]
  · intro hacc hout hrej
    exact hqueue (echoAfter_counts cfg passes (rt + cfg.asymmetry) sample hacc hout hrej)
  · intro d hacc hout hd
    have hpasses : passes = true := by
      cases hp : passes with
      | true => rfl
      | false => simp [accepted, hp] at hacc
    have hrun : 3 ≤ q.outlierRun := by simpa [accepted, hpasses, hout] using hacc
    have hrecord := hstepRecord d (by rw [hreseed, if_pos ⟨hpasses, hout, hrun⟩, hd])
    have hsampled : after.delay = some sample := by
      rw [hafter, hpasses]
      exact echoAfter_reseeded (houtside ▸ hout) hrun
    rw [hsampled] at hrecord
    exact hrecord
  · intro hacc hcases
    have hpasses : passes = true := by
      cases hp : passes with
      | true => rfl
      | false => simp [accepted, hp] at hacc
    refine hjoin ?_
    rw [announceAfter, Bool.or_eq_true]
    rcases hcases with hout | ⟨hnow, hfar⟩
    · have hrun : 3 ≤ q.outlierRun := by simpa [accepted, hpasses, hout] using hacc
      have hdelayed : q.delay.isSome = true := by
        cases hd : q.delay with
        | none => simp [outside, hd] at hout
        | some d => rfl
      left
      rw [hreseed, if_pos ⟨hpasses, hout, hrun⟩, hdelayed]
    · right
      have hmoved : q.state ≠ .valid ∨ (match f.path.announcedDelay with
          | none => true
          | some a => decide (c.config.announceThreshold < (((f.path.delay.getD 0 : Nat) : Int) - a).natAbs)) = true := by
        refine hfar.imp_right fun hall => ?_
        rw [hannounced, hdelay]
        cases ha : q.announcedDelay with
        | none => rfl
        | some a => exact decide_eq_true (hall a ha)
      rw [haccepted.1 hacc, hstate, hnow]
      exact Bool.or_eq_true_iff.2 (hmoved.imp_left bne_iff_ne.2)
  · exact (table_refreshRange port _).trans (by
      rw [rangePort, hrng, ← htag]
      exact congrArg RangePort.table (rangePort_modRange port _ s1))
  · exact (counters_refreshRange port _).trans (by
      rw [link, hlnk]
      exact congrArg LinkPort.counters ((link_modLink port _ (received port s)).trans (by rw [link_received])))
end
end Sys2Proof.Machine

/-! ## The transmit arbiter and the Beacon it builds (R68, R101, R103, R128) -/

namespace Sys2Proof.Machine

section
variable {s : State} {port : Port}

/-! ### The tag (R103) -/

/-- R103: the tag after those passed over. -/
theorem nextTag_passes (used : List Byte) (lastExpired : Option Byte) (fuel : Nat) (t : Byte) :
    ∃ k ≤ fuel, nextTag used lastExpired fuel t = t + BitVec.ofNat 8 (k + 1) ∧
      ∀ j < k, t + BitVec.ofNat 8 (j + 1) ∈ used ∨ lastExpired = some (t + BitVec.ofNat 8 (j + 1)) := by
  induction fuel generalizing t with
  | zero => exact ⟨0, le_refl 0, rfl, fun j hj => absurd hj (Nat.not_lt_zero j)⟩
  | succ fuel ih =>
    have hnext : ∀ k, t + 1 + BitVec.ofNat 8 (k + 1) = t + BitVec.ofNat 8 (k + 1 + 1) := by
      intro k
      rw [show BitVec.ofNat 8 (k + 1 + 1) = BitVec.ofNat 8 (k + 1) + 1 from BitVec.ofNat_add (k + 1) 1]
      ac_rfl
    by_cases htaken : (t + 1) ∈ used ∨ lastExpired = some (t + 1)
    · obtain ⟨k, hk, htag, hall⟩ := ih (t + 1)
      refine ⟨k + 1, Nat.succ_le_succ hk, ?_, fun j hj => ?_⟩
      · rw [nextTag, if_pos htaken, htag, hnext]
      · cases j with
        | zero => exact htaken
        | succ j =>
          have := hall j (Nat.lt_of_succ_lt_succ hj)
          rwa [hnext] at this
    · exact ⟨0, Nat.zero_le _, by rw [nextTag, if_neg htaken]; rfl, fun j hj => absurd hj (Nat.not_lt_zero j)⟩

/-- R103: the tag of the next exchange of slot `n`. -/
theorem launchTag_first (n : Nat) (hroom : (rangePort s port).table.length < 16) :
    ∃ k ≤ 16, launchTag s port n = (rangePort s port).tagCounter + BitVec.ofNat 8 (k + 1) ∧
      (∀ x ∈ (rangePort s port).table, x.tag ≠ launchTag s port n) ∧ (path s n port).lastExpired ≠ some (launchTag s port n) ∧
      ∀ j < k, (∃ x ∈ (rangePort s port).table, x.tag = (rangePort s port).tagCounter + BitVec.ofNat 8 (j + 1)) ∨
        (path s n port).lastExpired = some ((rangePort s port).tagCounter + BitVec.ofNat 8 (j + 1)) := by
  have hused : ((rangePort s port).table.map (·.tag)).length ≤ 15 := by
    rw [List.length_map]
    omega
  obtain ⟨k, hk, htag, hall⟩ := nextTag_passes ((rangePort s port).table.map (·.tag)) (path s n port).lastExpired 17
    (rangePort s port).tagCounter
  obtain ⟨hfree, hexpired⟩ := nextTag_free (path s n port).lastExpired (rangePort s port).tagCounter hused
  have hless : k ≠ 17 := by
    rintro rfl
    refine tagsAfter_not_taken (path s n port).lastExpired (rangePort s port).tagCounter hused fun x hx => ?_
    obtain ⟨j, hj, rfl⟩ := List.mem_map.1 hx
    have := hall j (List.mem_range.1 hj)
    rw [show BitVec.ofNat 8 (j + 1) = BitVec.ofNat 8 j + 1 from BitVec.ofNat_add j 1] at this
    rwa [show (rangePort s port).tagCounter + 1 + BitVec.ofNat 8 j = (rangePort s port).tagCounter + (BitVec.ofNat 8 j + 1) by ac_rfl]
  refine ⟨k, by omega, htag, fun x hx heq => hfree (List.mem_map.2 ⟨x, hx, heq⟩), hexpired, fun j hj => ?_⟩
  exact (hall j hj).imp_left fun hmem => by
    obtain ⟨x, hx, heq⟩ := List.mem_map.1 hmem
    exact ⟨x, hx, heq⟩

/-! ### The path that ranks first (R101) -/

/-- R101: one step of the launch arbiter's choice. -/
def launchStep (s : State) (p : Port) (best : Option Nat) (n : Nat) : Option Nat :=
  match best with
  | none => some n
  | some b => if launchRank (path s n p) < launchRank (path s b p) then some n else some b

/-- Of two slots the first one is preferred for a launch. -/
def launchBefore (s : State) (p : Port) (n m : Nat) : Prop :=
  launchRank (path s n p) < launchRank (path s m p) ∨ launchRank (path s n p) = launchRank (path s m p) ∧ n ≤ m

theorem launchBefore_trans {a b c : Nat} (h : launchBefore s port a b) (k : launchBefore s port b c) : launchBefore s port a c := by
  unfold launchBefore at *
  omega

/-- R101: the choice among ascending slots is preferred to each of them. -/
theorem foldl_launchStep {xs : List Nat} {b : Nat} (hsorted : (b :: xs).Pairwise (· < ·)) :
    ∃ n, xs.foldl (launchStep s port) (some b) = some n ∧ ∀ m ∈ b :: xs, launchBefore s port n m := by
  induction xs generalizing b with
  | nil => exact ⟨b, rfl, fun m hm => by rw [List.mem_singleton.1 hm]; exact .inr ⟨rfl, le_refl b⟩⟩
  | cons x xs ih =>
    obtain ⟨hb, hxs⟩ := List.pairwise_cons.1 hsorted
    have hbx : b < x := hb x List.mem_cons_self
    by_cases hr : launchRank (path s x port) < launchRank (path s b port)
    · obtain ⟨n, hn, hall⟩ := ih hxs
      refine ⟨n, ?_, fun m hm => ?_⟩
      · rw [List.foldl_cons, launchStep, if_pos hr]
        exact hn
      · rcases List.mem_cons.1 hm with rfl | hm
        · exact launchBefore_trans (hall x List.mem_cons_self) (.inl hr)
        · exact hall m hm
    · have hkept : (b :: xs).Pairwise (· < ·) :=
        List.pairwise_cons.2 ⟨fun y hy => hb y (List.mem_cons_of_mem x hy), (List.pairwise_cons.1 hxs).2⟩
      obtain ⟨n, hn, hall⟩ := ih hkept
      refine ⟨n, ?_, fun m hm => ?_⟩
      · rw [List.foldl_cons, launchStep, if_neg hr]
        exact hn
      · rcases List.mem_cons.1 hm with rfl | hm
        · exact hall m List.mem_cons_self
        · rcases List.mem_cons.1 hm with rfl | hm
          · refine launchBefore_trans (hall b List.mem_cons_self) ?_
            unfold launchBefore
            omega
          · exact hall m (List.mem_cons_of_mem b hm)

theorem eligibleSlots_sorted (s : State) (p : Port) : (eligibleSlots s p).Pairwise (· < ·) := by
  rw [eligibleSlots, occupied_eq]
  exact (List.pairwise_lt_range.filter _).filter _

/-- R101: the launch arbiter's choice. -/
theorem chooseLaunch_first (h : ∃ n, wantsLaunch s port n) :
    ∃ n, chooseLaunch s port = some n ∧ wantsLaunch s port n ∧ ∀ m, wantsLaunch s port m → launchBefore s port n m := by
  have hstep : chooseLaunch s port = (eligibleSlots s port).foldl (launchStep s port) none := rfl
  obtain ⟨m, hm⟩ := h
  have hmem := mem_eligibleSlots.2 hm
  have hsorted := eligibleSlots_sorted s port
  cases hl : eligibleSlots s port with
  | nil =>
    rw [hl] at hmem
    cases hmem
  | cons b xs =>
    rw [hl] at hsorted
    obtain ⟨n, hn, hall⟩ := foldl_launchStep (s := s) (port := port) hsorted
    have hchosen : chooseLaunch s port = some n := by
      rw [hstep, hl]
      exact hn
    refine ⟨n, hchosen, mem_eligibleSlots.1 (chooseLaunch_eligible hchosen), fun k hk => hall k ?_⟩
    rw [← hl]
    exact mem_eligibleSlots.2 hk

end

section
variable {s : State} {port : Port}

/-! ### The grants (R68, R103, R128) -/

/-- R68: the port with no frame in hand and its Range request judged anew, as the arbiter finds it. -/
def arbiterReady (port : Port) (s : State) : State := refreshRange port (modLink port (fun l => { l with tx := none }) s)

theorem exec_arbiterFree_idle (h : (link s port).state ≠ .up ∨ ∃ f, (link s port).tx = some f ∧ f.stamped = false) :
    exec (.arbiterFree port) s = .next s := by
  have hexec : exec (.arbiterFree port) s = .next (arbiterFree port s) := rfl
  rw [hexec, arbiterFree]
  by_cases hup : (link s port).state = .up
  · rw [if_pos hup]
    obtain ⟨f, hf, hstamped⟩ := h.resolve_left (fun hn => hn hup)
    exact congrArg Host.Outcome.next (if_pos (by rw [hf]; simp [hstamped]))
  · rw [if_neg hup]

theorem exec_arbiterFree (hup : (link s port).state = .up) (hf : ∀ f, (link s port).tx = some f → f.stamped = true) :
    exec (.arbiterFree port) s = .next (grant port (arbiterReady port s)) := by
  have hexec : exec (.arbiterFree port) s = .next (arbiterFree port s) := rfl
  rw [hexec, arbiterFree, if_pos hup]
  refine congrArg Host.Outcome.next (if_neg ?_)
  cases htx : (link s port).tx with
  | none => simp
  | some f => simp [hf f htx]

theorem arbiterReady_link (port : Port) (s : State) : link (arbiterReady port s) port =
    { link s port with tx := none, rangeReq := (link (arbiterReady port s) port).rangeReq } := by
  cases port <;> rfl

theorem arbiterReady_req (port : Port) (s : State) : (link (arbiterReady port s) port).rangeReq = true ↔ launchHolds s port := by
  refine (rangeReq_refreshRange port (modLink port (fun l => { l with tx := none }) s)).trans ?_
  rw [← launchPermitted_iff, ← launchPermitted_iff]
  cases port <;> exact Iff.rfl

theorem arbiterReady_range (port : Port) (s : State) : rangePort (arbiterReady port s) port =
    { rangePort s port with windowAt := (rangePort (arbiterReady port s) port).windowAt } := by
  cases port <;> rfl

theorem arbiterReady_ne {q : Port} (h : q ≠ port) (s : State) :
    link (arbiterReady port s) q = link s q ∧ rangePort (arbiterReady port s) q = rangePort s q := by
  obtain ⟨hl, hr⟩ := refreshRange_ne h (modLink port (fun l => { l with tx := none }) s)
  exact ⟨hl.trans (link_modLink_ne h _ s), hr⟩

/-- R68: what a Range request's paths and table are does not turn on the frame in hand and the request. -/
theorem wantsLaunch_ready (n : Nat) : wantsLaunch (modLink port (fun l => { l with rangeReq := false }) (arbiterReady port s)) port n ↔
    wantsLaunch s port n := by
  cases port <;> exact Iff.rfl

theorem frameBytes_header (dest : MacAddr) (st : PortSettings) (kind : Nat) (body : List Byte) :
    (frameBytes dest st kind body).take 6 = be 6 dest.toNat ∧ ((frameBytes dest st kind body).drop 6).take 6 = be 6 st.station.toNat := by
  obtain ⟨rest, hrest⟩ : ∃ rest, frameBytes dest st kind body = be 6 dest.toNat ++ (be 6 st.station.toNat ++ rest) := by
    simp only [frameBytes, padTo, List.append_assoc]
    exact ⟨_, rfl⟩
  rw [hrest, List.take_left' (be_length 6 _), List.drop_left' (be_length 6 _), List.take_left' (be_length 6 _)]
  exact ⟨rfl, rfl⟩

/-- R68, R128: the grant of a Beacon. -/
theorem grantBeacon_spec (s : State) :
    let t := grantBeacon port s
    let s1 := modLink port (fun l => { l with beaconReq := false }) s
    link t port = { link s port with
      beaconReq := false, macError := false, tx := some { kind := .beacon, bytes := (buildBeacon port s1).1, stamped := false } } ∧
    t = { s with lnk := t.lnk, bcu := t.bcu } ∧ (∀ q, q ≠ port → link t q = link s q ∧ beaconPort t q = beaconPort s q) ∧
    beaconPort t port = beaconPort (buildBeacon port s1).2 port := by
  intro t s1
  have hlink : ∀ q, link (buildBeacon port s1).2 q = link s1 q := fun q => rfl
  refine ⟨?_, rfl, fun q hq => ⟨?_, ?_⟩, rfl⟩
  · change link (modLink port _ (buildBeacon port s1).2) port = _
    rw [link_modLink, hlink, link_modLink]
  · change link (modLink port _ (buildBeacon port s1).2) q = _
    rw [link_modLink_ne hq, hlink]
    exact link_modLink_ne hq _ s
  · exact beaconPort_modBeacon_ne hq _ s1

/-- R68, R103: the grant of a Range to the path chosen. -/
theorem grantRange_spec {n : Nat} (s : State) (hn : chooseLaunch (modLink port (fun l => { l with rangeReq := false }) s) port = some n) :
    let s1 := modLink port (fun l => { l with rangeReq := false }) s
    let t := grantRange port s
    let tag := launchTag s1 port n
    (link t port).counters = (link s port).counters ∧
    (link t port).tx = some { kind := .range n tag, bytes := frameBytes (client s n).config.addr (link s port).settings kindRange [tag, 0],
                              stamped := false } ∧
    t.bcu = s.bcu ∧ (∀ q, q ≠ port → link t q = link s q ∧ rangePort t q = rangePort s q) ∧
    (rangePort t port).table = (rangePort s port).table ++ [{ tag := tag, slot := n, t1 := none, expiry := none }] ∧
    (rangePort t port).tagCounter = tag ∧ (rangePort t port).history = (rangePort s port).history := by
  intro s1 t tag
  let bytes := frameBytes (client s n).config.addr (link s port).settings kindRange [tag, 0]
  let reserved := reserve port n tag s1
  let started := startFrame port (.range n tag) bytes reserved
  have hl1 : link s1 port = { link s port with rangeReq := false } := link_modLink port _ s
  have hsettings : (link s1 port).settings = (link s port).settings := by rw [hl1]
  have ht : t = refreshRange port started := by
    change grantRange port s = _
    rw [grantRange]
    simp only [hn]
    change refreshRange port (startFrame port (.range n tag) (frameBytes (client s n).config.addr (link s1 port).settings kindRange
      [tag, 0]) reserved) = _
    rw [hsettings]
  have hreserved : rangePort reserved port = { rangePort s port with
      tagCounter := tag, table := (rangePort s port).table ++ [{ tag := tag, slot := n, t1 := none, expiry := none }] } :=
    rangePort_modRange port _ s1
  have hlink : link started port = { link s port with
      rangeReq := false, macError := false, tx := some { kind := .range n tag, bytes := bytes, stamped := false } } := by
    have hkept : link reserved port = link s1 port := rfl
    change link (modLink port _ reserved) port = _
    rw [link_modLink, hkept, link_modLink]
  have hrange : rangePort started port = rangePort reserved port := rfl
  have hport : rangePort t port = { rangePort reserved port with windowAt := (rangePort t port).windowAt } := by
    rw [ht]
    exact rangePort_refreshRange port started
  have hfinal : link t port = { link started port with rangeReq := (link t port).rangeReq } := by
    rw [ht]
    exact link_refreshRange port started
  refine ⟨?_, ?_, ?_, fun q hq => ?_, ?_, ?_, ?_⟩
  · rw [hfinal, hlink]
  · rw [hfinal, hlink]
  · rw [ht]
    rfl
  · rw [ht, (refreshRange_ne hq started).1, (refreshRange_ne hq started).2]
    exact ⟨(link_modLink_ne hq _ reserved).trans (link_modLink_ne hq _ s), rangePort_modRange_ne hq _ s1⟩
  · rw [hport, hreserved]
  · rw [hport, hreserved]
  · rw [hport, hreserved]

/-- Settles O35: a grant of a Beacon by `grantBeacon_spec`, of a Range by `grantRange_spec`, its path and tag the first ones. -/
theorem arbiterGrantsBeaconThenRange : Obligations.ArbiterGrantsBeaconThenRange := by
  intro s port rank
  refine ⟨exec_arbiterFree_idle, fun hup hf => ?_⟩
  let ready := arbiterReady port s
  have hexec := exec_arbiterFree hup hf
  have hlink := arbiterReady_link port s
  have hrange := arbiterReady_range port s
  have hframe := grant_frame port ready
  have hcrs : (grant port ready).crs = s.crs := hframe.2.2.2.1
  have hmem : (grant port ready).mem = s.mem := hframe.2.2.2.2.2.2.2.1
  have hreq : (link ready port).beaconReq = (link s port).beaconReq := by rw [hlink]
  by_cases hb : (link s port).beaconReq = true
  · have ht : grant port ready = grantBeacon port ready := if_pos (hreq.trans hb)
    obtain ⟨htlink, htframe, hother, hbeacon⟩ := grantBeacon_spec (port := port) ready
    rw [← ht] at htlink htframe hother hbeacon
    let cleared := modLink port (fun l => { l with beaconReq := false }) ready
    have hsettings : (link cleared port).settings = (link s port).settings := by
      rw [show link cleared port = { link ready port with beaconReq := false } from link_modLink port _ ready, hlink]
    obtain ⟨hdest, hsrc⟩ := frameBytes_header broadcast (link cleared port).settings kindBeacon
      (beaconBody cleared port (((beaconPort cleared port).roll.take 6).map (fun e => rollEntry cleared port e.slot))
        (noticesFor cleared port))
    have htable : rangePort (grant port ready) port = rangePort ready port := by
      rw [htframe]
      rfl
    have hbuilt : beaconPort (buildBeacon port cleared).2 port = { beaconPort s port with
        roll := markCarried 6 (beaconPort s port).roll, built := (beaconPort (buildBeacon port cleared).2 port).built } := by
      cases port <;> rfl
    refine ⟨grant port ready, hexec, hmem, hcrs, ?_, fun q hq => ⟨?_, ?_, (hother q hq).2⟩, fun _ => ⟨?_, ?_, ?_, ?_, ?_, ?_⟩,
      fun hno => absurd (hb.symm.trans hno) (by decide), fun hno => absurd (hb.symm.trans hno) (by decide)⟩
    · rw [htlink, hlink]
    · exact (hother q hq).1.trans (arbiterReady_ne hq s).1
    · have hkept : rangePort (grant port ready) q = rangePort ready q := by
        rw [htframe]
        rfl
      exact hkept.trans (arbiterReady_ne hq s).2
    · refine ⟨(buildBeacon port cleared).1, by rw [htlink], hdest, hsrc.trans ?_⟩
      rw [hsettings]
    · rw [htlink]
    · rw [htlink]
      exact arbiterReady_req port s
    · rw [htable, hrange]
    · rw [hbeacon, hbuilt]
    · rw [hbeacon, hbuilt]
      exact markCarried_slots 6 _
  · have hb : (link s port).beaconReq = false := Bool.eq_false_iff.2 hb
    by_cases hr : launchHolds s port
    · have ht : grant port ready = grantRange port ready :=
        (if_neg (by rw [hreq, hb]; decide)).trans (if_pos ((arbiterReady_req port s).2 hr))
      let freed := modLink port (fun l => { l with rangeReq := false }) ready
      have ⟨⟨m, hm⟩, hroom, _⟩ := hr
      obtain ⟨n, hn, hwants, hfirst⟩ := chooseLaunch_first (s := freed) (port := port) ⟨m, (wantsLaunch_ready m).2 hm⟩
      obtain ⟨hcounters, htx, hbcu, hother, htable, htag, hhistory⟩ := grantRange_spec ready hn
      have hfreed : rangePort freed port = rangePort ready port := rfl
      obtain ⟨k, hk, hktag, hfree, hexpired, hpassed⟩ := launchTag_first (s := freed) (port := port) n
        (by rw [hfreed, hrange]; exact hroom)
      have hbefore : ∀ m, wantsLaunch s port m → rank (path s n port) < rank (path s m port) ∨
          rank (path s n port) = rank (path s m port) ∧ n ≤ m := by
        intro m hm
        have hrank : ∀ q : Path, rank q = launchRank q + 1 := fun q => (launchRank_eq q).symm
        rcases hfirst m ((wantsLaunch_ready m).2 hm) with h | ⟨h, hle⟩
        · left
          rw [hrank, hrank]
          exact Nat.succ_lt_succ h
        · right
          rw [hrank, hrank]
          exact ⟨congrArg (· + 1) h, hle⟩
      rw [← ht] at hcounters htx hbcu hother htable htag hhistory
      rw [hfreed] at hktag hfree hpassed
      rw [hrange] at hktag hfree hpassed htable hhistory
      rw [hlink] at hcounters htx
      refine ⟨grant port ready, hexec, hmem, hcrs, hcounters, fun q hq => ⟨?_, ?_, ?_⟩,
        fun hyes => absurd (hb.symm.trans hyes) (by decide), fun _ hno => absurd hr hno, fun _ _ => ?_⟩
      · exact (hother q hq).1.trans (arbiterReady_ne hq s).1
      · exact (hother q hq).2.trans (arbiterReady_ne hq s).2
      · rw [beaconPort, hbcu]
        rfl
      · exact ⟨n, k, launchTag freed port n, (wantsLaunch_ready n).1 hwants, hbefore, hk, hktag, hfree, hexpired, hpassed, htable,
          htag, hhistory, htx⟩
    · have hnone : (link ready port).rangeReq = false := Bool.eq_false_iff.2 fun h => hr ((arbiterReady_req port s).1 h)
      have ht : grant port ready = ready := (if_neg (by rw [hreq, hb]; decide)).trans (if_neg (by rw [hnone]; decide))
      rw [ht] at hexec
      refine ⟨ready, hexec, rfl, rfl, ?_, fun q hq => ⟨(arbiterReady_ne hq s).1, (arbiterReady_ne hq s).2, rfl⟩,
        fun hyes => absurd (hb.symm.trans hyes) (by decide), fun _ _ => ⟨?_, ?_⟩, fun _ hyes => absurd hyes hr⟩
      · rw [hlink]
      · rw [hlink]
      · rw [hrange]
end
section
variable {s : State} {port : Port}

/-! ### The body of a Beacon (R128, R133, R135) -/

/-- R135: the blocks that the next Beacon carries, in the order that begins after the last carried index. -/
theorem noticesFor_eq (s : State) (p : Port) :
    let first : Nat := match (beaconPort s p).lastNotice with | none => 0 | some i => i + 1
    noticesFor s p = ((List.range 8).filterMap (fun k => (noticeAt s ((first + k) % 8)).bind (fun n =>
      if noticeDue p n then some ((first + k) % 8, n) else none))).take 2 := by
  intro first
  have hrobin : roundRobin (beaconPort s p).lastNotice = (List.range 8).map (fun k => (first + k) % 8) := rfl
  rw [noticesFor, hrobin, List.filterMap_map]
  refine congrArg (List.take 2) (congrArg (fun f => List.filterMap f (List.range 8)) (funext fun k => ?_))
  change (match noticeAt s ((first + k) % 8) with
    | none => none
    | some n => if noticeDue p n then some ((first + k) % 8, n) else none) = _
  cases noticeAt s ((first + k) % 8) <;> rfl

/-- Settles O36: the frame part by part, the blocks by `noticesFor_eq`. -/
theorem beaconBodyCarries : Obligations.BeaconBodyCarries := by
  intro s port hup hf hb b st slots entry due first blocks servo active leap body frame
  let ready := arbiterReady port s
  let cleared := modLink port (fun l => { l with beaconReq := false }) ready
  have hlink := arbiterReady_link port s
  have ht : grant port ready = grantBeacon port ready := if_pos (by rw [hlink]; exact hb)
  obtain ⟨htlink, -, -, hbeacon⟩ := grantBeacon_spec (port := port) ready
  have hexec := exec_arbiterFree hup hf
  rw [ht] at hexec
  have hb' : beaconPort cleared port = b := rfl
  have hsettings : (link cleared port).settings = st := by
    rw [show link cleared port = { link ready port with beaconReq := false } from link_modLink port _ ready, hlink]
  have hblocks : noticesFor cleared port = blocks := by
    refine (noticesFor_eq cleared port).trans ?_
    cases port <;> rfl
  have hentries : ((b.roll.take 6).map (fun e => rollEntry cleared port e.slot)).map (·.1) = slots.map entry := by
    rw [List.map_map, List.map_map]
    refine List.map_congr_left fun e _ => ?_
    change rollBytes _ _ ((path s e.slot port).state == .valid) ((client s e.slot).state == .following) = _
    simp only [rollBytes, beq_iff_eq, entry, Function.comp]
    rfl
  have hbuilt : ((b.roll.take 6).map (fun e => rollEntry cleared port e.slot)).map (·.2) = slots.map (fun n =>
      { slot := n, delay := if (path s n port).state = .valid then (path s n port).delay else none, live := true }) := by
    rw [List.map_map, List.map_map]
    refine List.map_congr_left fun e _ => ?_
    simp only [rollEntry, beq_iff_eq, Function.comp]
    rfl
  have hbody : beaconBody cleared port ((b.roll.take 6).map (fun e => rollEntry cleared port e.slot)) blocks = body := by
    have hleap : leapBytes s.tbs.leap = be 1 leap ++ [(0 : Byte)] ++ be 8 (match s.tbs.leap with | none => 0 | some l => l.epoch) := by
      simp only [leap]
      cases s.tbs.leap <;> rfl
    have hservo : servoCode s.dsv.state = servo := by
      simp only [servo]
      cases s.dsv.state <;> rfl
    have hactive : activeCode s.rfi.active = active := by
      simp only [active]
      cases s.rfi.active with
      | none => rfl
      | some i => cases i <;> rfl
    have hlength : ((b.roll.take 6).map (fun e => rollEntry cleared port e.slot)).length = slots.length := by
      rw [List.length_map, List.length_map]
    rw [beaconBody, hentries, hlength]
    change zeros 13 ++ be 1 s.bcu.cls ++ be 1 (servoCode s.dsv.state) ++ be 1 (activeCode s.rfi.active) ++ beInt 2 s.tbs.utcOffset ++
      leapBytes s.tbs.leap ++ _ ++ _ ++ _ ++ _ ++ _ ++ _ = _
    rw [hleap, hservo, hactive]
    simp only [body, List.append_assoc]
    rfl
  have hbytes : (buildBeacon port cleared).1 = frame ++ List.replicate (60 - frame.length) 0 := by
    change frameBytes broadcast (link cleared port).settings kindBeacon
      (beaconBody cleared port ((b.roll.take 6).map (fun e => rollEntry cleared port e.slot)) (noticesFor cleared port)) = _
    rw [hsettings, hblocks, hbody]
    have hframe : be 6 broadcast.toNat ++ be 6 st.station.toNat ++ be 2 st.typeCode.toNat ++
        (be 1 1 ++ be 1 kindBeacon ++ be 2 body.length ++ [st.domain] ++ zeros 1) ++ body = frame := by
      simp only [frame, List.append_assoc]
      rfl
    rw [frameBytes, hframe]
    rfl
  refine ⟨_, hexec, ?_, ?_, ?_⟩
  · rw [htlink, hbytes]
  · rw [hbeacon]
    cases port <;> rfl
  · have hshown : (beaconPort (buildBeacon port cleared).2 port).built = some {
        entries := ((b.roll.take 6).map (fun e => rollEntry cleared port e.slot)).map (·.2)
        notices := (noticesFor cleared port).map (fun x => { index := x.1, live := true }) } := by
      cases port <;> rfl
    rw [hbeacon, hshown, hbuilt, hblocks]
end
end Sys2Proof.Machine

/-! ## Timestamp points (R66, R67, R69, R104, R129, R132, R135) -/

namespace Sys2Proof.Machine

section
variable {s t : State} {port : Port}

theorem path_modPath_ne {n k : Nat} {p q : Port} (h : k ≠ n ∨ q ≠ p) (f : Path → Path) (s : State) :
    path (modPath n p f s) k q = path s k q := by
  rcases client_modClient_cases n k (fun c => { c with paths := modPort p f c.paths }) s with hsame | ⟨rfl, -, hself⟩
  · exact congrArg (fun c : Client => atPort c.paths q) hsame
  · have hq : q ≠ p := h.resolve_left (fun hn => hn rfl)
    refine (congrArg (fun c : Client => atPort c.paths q) hself).trans ?_
    exact atPort_modPort_ne hq f _

/-! ### The announcements of a Beacon that has left (R132) -/

/-- What the completion of a Beacon with these entries leaves of the paths. -/
structure Announced (port : Port) (stamp : Nat) (es : List BuiltEntry) (s t : State) : Prop where
  others : ∀ n, (∀ e ∈ es, e.slot = n → e.live = false) → path t n port = path s n port
  announced : ∀ e ∈ es, e.live = true → e.slot < s.crs.clients.length →
    ∃ f ∈ es, f.slot = e.slot ∧ f.live = true ∧ path t e.slot port =
      { path s e.slot port with announcedAt := some stamp, announcedDelay := f.delay }
  port_ne : ∀ n q, q ≠ port → path t n q = path s n q

theorem recordAnnounced_onPath (stamp : Nat) (e : BuiltEntry) (s : State) :
    (recordAnnounced port stamp e s).crs.clients.length = s.crs.clients.length ∧
    (∀ n q, (n ≠ e.slot ∨ q ≠ port ∨ e.live = false) → path (recordAnnounced port stamp e s) n q = path s n q) ∧
    (e.live = true → e.slot < s.crs.clients.length → path (recordAnnounced port stamp e s) e.slot port =
      { path s e.slot port with announcedAt := some stamp, announcedDelay := e.delay }) := by
  unfold recordAnnounced
  cases hlive : e.live with
  | false => exact ⟨rfl, fun _ _ _ => rfl, fun h => absurd h Bool.false_ne_true⟩
  | true =>
    refine ⟨(modPath_onSlot (n := e.slot) port _ s).length, fun n q h => path_modPath_ne ?_ _ s, fun _ hlt => path_modPath port _ hlt⟩
    exact h.imp_right fun h => h.resolve_right (by decide)

theorem recordAnnounced_announced (stamp : Nat) (es : List BuiltEntry) (s : State) :
    Announced port stamp es s (forEach es (recordAnnounced port stamp) s) := by
  induction es generalizing s with
  | nil => exact ⟨fun _ _ => rfl, fun e he => (List.not_mem_nil he).elim, fun _ _ _ => rfl⟩
  | cons e es ih =>
    obtain ⟨hlen, hother, hself⟩ := recordAnnounced_onPath (port := port) stamp e s
    obtain ⟨iothers, iannounced, iport⟩ := ih (recordAnnounced port stamp e s)
    rw [forEach_cons]
    refine ⟨fun n hn => ?_, fun f hf hlive hlt => ?_, fun n q hq => ?_⟩
    · rw [iothers n (fun f hf => hn f (List.mem_cons_of_mem e hf))]
      refine hother n port ?_
      by_cases hne : e.slot = n
      · exact .inr (.inr (hn e List.mem_cons_self hne))
      · exact .inl (Ne.symm hne)
    · rw [hlen] at iannounced
      by_cases hlater : ∃ g ∈ es, g.slot = f.slot ∧ g.live = true
      · obtain ⟨g, hg, hgslot, hglive⟩ := hlater
        obtain ⟨k, hk, hkslot, hklive, hkpath⟩ := iannounced g hg hglive (by rw [hgslot]; exact hlt)
        rw [hgslot] at hkslot hkpath
        refine ⟨k, List.mem_cons_of_mem e hk, hkslot, hklive, hkpath.trans ?_⟩
        by_cases he : e.slot = f.slot ∧ e.live = true
        · rw [← he.1] at hlt ⊢
          rw [hself he.2 hlt]
        · rw [hother f.slot port]
          by_cases hslot : e.slot = f.slot
          · exact .inr (.inr (Bool.eq_false_iff.2 fun h => he ⟨hslot, h⟩))
          · exact .inl (Ne.symm hslot)
      · have hfe : f = e := by
          rcases List.mem_cons.1 hf with h | h
          · exact h
          · exact absurd ⟨f, h, rfl, hlive⟩ hlater
        subst hfe
        refine ⟨f, List.mem_cons_self, rfl, hlive, ?_⟩
        rw [iothers f.slot (fun g hg hgslot => Bool.eq_false_iff.2 fun h => hlater ⟨g, hg, hgslot, h⟩)]
        exact hself hlive hlt
    · rw [iport n q hq]
      exact hother n q (.inr (.inl hq))

/-! ### The progress of the blocks (R135, R136) -/

/-- R135, R136: what the departure of a Beacon that carried `ns` leaves of the block at an index. -/
def noticeAdvanced (port : Port) (ns : List BuiltNotice) (i : Nat) (n : Notice) (s t : State) : Prop :=
  let found := ns.find? (fun x => x.index == i)
  let shown : Notice := { n with carried := modPort port (fun _ => true) n.carried }
  (found = none → noticeAt t i = some (match n.mode with
    | .nth _ => { n with wait := modPort port (fun w => w - 1) n.wait }
    | .once | .every | .until_ _ => n)) ∧
  (∀ x, found = some x → x.live = false → noticeAt t i = some n) ∧
  (∀ x, found = some x → x.live = true →
    (∀ k, n.mode = .nth k → noticeAt t i = some { shown with wait := modPort port (fun _ => k - 1) n.wait }) ∧
    ((n.mode = .every ∨ ∃ epoch, n.mode = .until_ epoch) → noticeAt t i = some shown) ∧
    (n.mode = .once → onceSettled port i shown s t))

theorem onceSettled_between {i : Nat} {n : Notice} {u v : State} (h : onceSettled port i n u v)
    (hbefore : s.xch.staging.length ≤ u.xch.staging.length) (hat : noticeAt t i = noticeAt v i)
    (hafter : v.xch.staging <+: t.xch.staging) : onceSettled port i n s t := by
  obtain ⟨howed, hfree⟩ := h
  refine ⟨fun hne => by rw [hat]; exact howed hne, fun heq => ?_⟩
  obtain ⟨hnone, hrecord⟩ := hfree heq
  exact ⟨by rw [hat]; exact hnone, handedOn_mono hrecord hbefore hafter⟩

theorem noticeAdvanced_between {ns : List BuiltNotice} {i : Nat} {n : Notice} {u v : State} (h : noticeAdvanced port ns i n u v)
    (hbefore : s.xch.staging.length ≤ u.xch.staging.length) (hat : noticeAt t i = noticeAt v i)
    (hafter : v.xch.staging <+: t.xch.staging) : noticeAdvanced port ns i n s t := by
  obtain ⟨hpassed, hdead, hcarried⟩ := h
  refine ⟨fun hf => by rw [hat]; exact hpassed hf, fun x hf hx => by rw [hat]; exact hdead x hf hx, fun x hf hx => ?_⟩
  obtain ⟨hnth, hlasting, honce⟩ := hcarried x hf hx
  exact ⟨fun k hk => by rw [hat]; exact hnth k hk, fun hm => by rw [hat]; exact hlasting hm,
    fun hm => onceSettled_between (honce hm) hbefore hat hafter⟩

theorem noticeAt_lt {i : Nat} {n : Notice} (h : noticeAt s i = some n) : i < s.bcu.notices.length := by
  by_contra hn
  simp [noticeAt, List.getD, List.getElem?_eq_none (Nat.le_of_not_lt hn)] at h

theorem noticeAt_modNotice {i : Nat} {n : Notice} (f : Notice → Notice) (h : noticeAt s i = some n) :
    noticeAt (modNotice i f s) i = some (f n) := by
  have hlt := noticeAt_lt h
  unfold noticeAt at h
  exact (getD_modify_self (Option.map f) none hlt).trans (by rw [h]; rfl)

theorem noticeAt_modNotice_ne {i j : Nat} (f : Notice → Notice) (s : State) (h : j ≠ i) :
    noticeAt (modNotice i f s) j = noticeAt s j := getD_modify_ne (Option.map f) none h

theorem noticeAt_modNotice_none {i : Nat} (f : Notice → Notice) (h : noticeAt s i = none) : noticeAt (modNotice i f s) i = none := by
  by_cases hlt : i < s.bcu.notices.length
  · unfold noticeAt at h
    exact (getD_modify_self (Option.map f) none hlt).trans (by rw [h]; rfl)
  · have hlen : (modNotice i f s).bcu.notices.length = s.bcu.notices.length := List.length_modify _ _ _
    simp [noticeAt, List.getD, List.getElem?_eq_none (hlen ▸ Nat.le_of_not_lt hlt)]

/-- R136: the cause of a freed ONCE block. -/
theorem onceCause_eq (n : Notice) : onceCause n = if n.owedAtPost = ⟨false, false⟩ then .noneUp
    else if (n.owedAtPost.a = true → n.carried.a = true) ∧ (n.owedAtPost.b = true → n.carried.b = true) then .sent
    else .portDown := by
  obtain ⟨mode, payload, owed, ⟨a, b⟩, wait, ⟨c, d⟩⟩ := n
  cases a <;> cases b <;> cases c <;> cases d <;> rfl

theorem nobodyOwes_iff (n : Notice) : nobodyOwes n = true ↔ n.owed = ⟨false, false⟩ := by
  unfold nobodyOwes
  obtain ⟨a, b⟩ := n.owed
  cases a <;> cases b <;> simp

/-- R136: the ONCE block at an index, freed where no port owes it. -/
theorem settleOnce_once {i : Nat} {n : Notice} (h : noticeAt s i = some n) (hm : n.mode = .once) :
    let t := settleOnce i s
    (∀ j, j ≠ i → noticeAt t j = noticeAt s j) ∧ s.xch.staging <+: t.xch.staging ∧
    (n.owed ≠ ⟨false, false⟩ → noticeAt t i = some n) ∧
    (n.owed = ⟨false, false⟩ → noticeAt t i = none ∧ handedOn s t (.noticeDone i .once n.carried
      (if n.owedAtPost = ⟨false, false⟩ then .noneUp
        else if (n.owedAtPost.a = true → n.carried.a = true) ∧ (n.owedAtPost.b = true → n.carried.b = true) then .sent
        else .portDown))) := by
  intro t
  by_cases ho : n.owed = ⟨false, false⟩
  · have ht : t = freeNotice i n (onceCause n) s := by
      simp only [t, settleOnce, h]
      exact if_pos ⟨hm, (nobodyOwes_iff n).2 ho⟩
    obtain ⟨hnone, hothers, -, -⟩ := freeNotice_spec n (onceCause n) s (noticeAt_lt h)
    have hrecord : handedOn s t (.noticeDone i n.mode n.carried (onceCause n)) := by
      rw [ht]
      exact handedOn_stage_of (s := s) (u := putNotice i none s) rfl
    rw [hm, onceCause_eq] at hrecord
    rw [← ht] at hnone hothers
    refine ⟨hothers, ?_, fun hne => absurd ho hne, fun _ => ⟨hnone, hrecord⟩⟩
    rw [ht]
    exact stage_prefix _ (putNotice i none s)
  · have ht : t = s := by
      simp only [t, settleOnce, h]
      exact if_neg fun hc => ho ((nobodyOwes_iff n).1 hc.2)
    rw [ht]
    exact ⟨fun _ _ => rfl, List.prefix_refl _, fun _ => h, fun hyes => absurd hyes ho⟩

theorem settleOnce_other {i : Nat} {n : Notice} (h : noticeAt s i = some n) (hm : n.mode ≠ .once) : settleOnce i s = s := by
  simp only [settleOnce, h]
  exact if_neg fun hc => hm hc.1

/-- R135: the progress of the block at one index. -/
theorem advanceNotice_spec (ns : List BuiltNotice) (i : Nat) (s : State) :
    let t := advanceNotice port ns i s
    (∀ j, j ≠ i → noticeAt t j = noticeAt s j) ∧ s.xch.staging <+: t.xch.staging ∧
    (noticeAt s i = none → noticeAt t i = none) ∧ (∀ n, noticeAt s i = some n → noticeAdvanced port ns i n s t) := by
  intro t
  cases hfound : ns.find? (fun x => x.index == i) with
  | none =>
    have ht : t = modNotice i (passNotice port) s := by
      simp only [t, advanceNotice, hfound]
    rw [ht]
    refine ⟨fun j hj => noticeAt_modNotice_ne _ s hj, List.prefix_refl _, noticeAt_modNotice_none _, fun n hn => ⟨fun _ => ?_, ?_, ?_⟩⟩
    · refine (noticeAt_modNotice _ hn).trans (congrArg some ?_)
      cases hm : n.mode <;> simp only [passNotice, hm]
    · intro x hx
      rw [hfound] at hx
      cases hx
    · intro x hx
      rw [hfound] at hx
      cases hx
  | some b =>
    cases hlive : b.live with
    | false =>
      have ht : t = s := by
        simp only [t, advanceNotice, hfound, hlive, Bool.false_eq_true, if_false]
      rw [ht]
      refine ⟨fun _ _ => rfl, List.prefix_refl _, id, fun n hn => ⟨?_, fun x hx _ => hn, fun x hx hl => ?_⟩⟩
      · intro hnone
        rw [hfound] at hnone
        cases hnone
      · rw [hfound] at hx
        cases hx
        exact absurd (hlive.symm.trans hl) Bool.false_ne_true
    | true =>
      let v := modNotice i (carryNotice port) s
      have ht : t = settleOnce i v := by
        simp only [t, advanceNotice, hfound, hlive, if_true]
        rfl
      have hother : ∀ j, j ≠ i → noticeAt v j = noticeAt s j := fun j hj => noticeAt_modNotice_ne _ s hj
      have hnever : ∀ n, ns.find? (fun x => x.index == i) = none → noticeAt t i = some n := by
        intro n hnone
        rw [hfound] at hnone
        cases hnone
      have hdead : ∀ n x, ns.find? (fun x => x.index == i) = some x → x.live = false → noticeAt t i = some n := by
        intro n x hx hl
        rw [hfound] at hx
        cases hx
        exact absurd (hl.symm.trans hlive) Bool.false_ne_true
      cases hn : noticeAt s i with
      | none =>
        have hvn : noticeAt v i = none := noticeAt_modNotice_none _ hn
        have hkept : t = v := by
          rw [ht, settleOnce, hvn]
        rw [hkept]
        exact ⟨hother, List.prefix_refl _, fun _ => hvn, fun n h => by cases h⟩
      | some n =>
        have hvn : noticeAt v i = some (carryNotice port n) := noticeAt_modNotice _ hn
        by_cases honce : n.mode = .once
        · have hcarry : carryNotice port n = { n with
              carried := modPort port (fun _ => true) n.carried, owed := modPort port (fun _ => false) n.owed } := by
            rw [carryNotice, honce]
          have hm : (carryNotice port n).mode = .once := by rw [hcarry]; exact honce
          obtain ⟨hothers, hprefix, howed, hfree⟩ := settleOnce_once hvn hm
          rw [← ht] at hothers hprefix howed hfree
          refine ⟨fun j hj => (hothers j hj).trans (hother j hj), hprefix, (fun h => by cases h), fun n' h => ?_⟩
          cases h
          refine ⟨hnever _, hdead _, fun x _ _ => ⟨fun k hk => ?_, fun hk => ?_, fun _ => ?_⟩⟩
          · rw [honce] at hk
            cases hk
          · rw [honce] at hk
            rcases hk with hk | ⟨epoch, hk⟩ <;> cases hk
          · rw [hcarry] at howed hfree
            exact ⟨howed, hfree⟩
        · have hm : (carryNotice port n).mode ≠ .once := by
            rw [carryNotice]
            cases hmode : n.mode <;> simp_all
          have hkept : t = v := ht.trans (settleOnce_other hvn hm)
          rw [hkept] at hnever hdead ⊢
          refine ⟨hother, List.prefix_refl _, (fun h => by cases h), fun n' h => ?_⟩
          cases h
          refine ⟨hnever _, hdead _, fun x _ _ => ⟨fun k hk => ?_, fun hk => ?_, fun hk => absurd hk honce⟩⟩
          · rw [hvn, carryNotice, hk]
          · rw [hvn, carryNotice]
            rcases hk with hk | ⟨epoch, hk⟩ <;> rw [hk]

/-- R135: the progress of the blocks at these indexes. -/
theorem advanceNotices (ns : List BuiltNotice) (is : List Nat) (s : State) (hd : is.Nodup) :
    let t := forEach is (advanceNotice port ns) s
    (∀ j, j ∉ is → noticeAt t j = noticeAt s j) ∧ s.xch.staging <+: t.xch.staging ∧
    ∀ i ∈ is, (noticeAt s i = none → noticeAt t i = none) ∧ (∀ n, noticeAt s i = some n → noticeAdvanced port ns i n s t) := by
  induction is generalizing s with
  | nil => exact ⟨fun _ _ => rfl, List.prefix_refl _, fun i h => (List.not_mem_nil h).elim⟩
  | cons k ks ih =>
    obtain ⟨hk, hd⟩ := List.nodup_cons.1 hd
    obtain ⟨aother, aprefix, anone, asome⟩ := advanceNotice_spec (port := port) ns k s
    obtain ⟨bother, bprefix, ball⟩ := ih (advanceNotice port ns k s) hd
    rw [forEach_cons]
    refine ⟨fun j hj => ?_, aprefix.trans bprefix, fun i hi => ?_⟩
    · rw [List.mem_cons, not_or] at hj
      rw [bother j hj.2, aother j hj.1]
    · rcases List.mem_cons.1 hi with rfl | hi
      · exact ⟨fun h => by rw [bother i hk, anone h], fun n hn =>
          noticeAdvanced_between (asome n hn) (le_refl _) (bother i hk) bprefix⟩
      · have hne : i ≠ k := fun h => hk (h ▸ hi)
        obtain ⟨cnone, csome⟩ := ball i hi
        rw [aother i hne] at cnone csome
        exact ⟨cnone, fun n hn => noticeAdvanced_between (csome n hn) aprefix.length_le rfl (List.prefix_refl _)⟩

/-- R135: the progress of the blocks leaves a port that has no Beacon in build. -/
theorem advanceNotices_beacon (ns : List BuiltNotice) (is : List Nat) (s : State) (hb : (beaconPort s port).built = none) :
    beaconPort (forEach is (advanceNotice port ns) s) port = beaconPort s port := by
  have hput : ∀ (i : Nat) (n : Option Notice) (u : State), beaconPort u port = beaconPort s port →
      beaconPort (putNotice i n u) port = beaconPort s port := by
    intro i n u hu
    have hunbind : beaconPort (putNotice i n u) port = unbindNotice i (beaconPort u port) := by
      cases port <;> rfl
    rw [hunbind, hu, unbindNotice, hb]
    simp only [Option.map_none]
    rw [← hb]
  have hsettle : ∀ (i : Nat) (u : State), beaconPort u port = beaconPort s port →
      beaconPort (settleOnce i u) port = beaconPort s port := by
    intro i u hu
    unfold settleOnce
    split
    · exact hu
    · split
      · have hfree : ∀ (body : JournalBody) (w : State), beaconPort (stage body w) port = beaconPort w port := fun body w => by
          rw [beaconPort, (stage_frame body w).2.2.2.2.2.2.1]
          rfl
        exact (hfree _ _).trans (hput i none u hu)
      · exact hu
  refine forEach_keeps (fun u => beaconPort u port = beaconPort s port) (advanceNotice port ns) is ?_ s rfl
  intro i _ u hu
  unfold advanceNotice
  split
  · exact hu
  · split
    · exact hsettle i _ hu
    · exact hu

end

section
variable {s : State} {port : Port}

/-! ### The completion of a Beacon and the departure of a Range (R104, R129) -/

/-- R129: the completion of the Beacon in build. -/
theorem completeBeacon_spec {stamp : Nat} {b : Built} (hb : (beaconPort s port).built = some b) :
    let t := completeBeacon port stamp s
    beaconPort t port = { beaconPort s port with
      seq := ((beaconPort s port).seq + 1) % 65536, built := none
      roll := (beaconPort s port).roll.filter (fun e => !e.carried)
      lastNotice := match b.notices.getLast? with
        | none => (beaconPort s port).lastNotice
        | some x => some x.index } ∧
    Announced port stamp b.entries s t ∧ (∀ i < 8, noticeAt s i = none → noticeAt t i = none) ∧
    ∀ i < 8, ∀ n, noticeAt s i = some n → noticeAdvanced port b.notices i n s t := by
  intro t
  let s1 := forEach b.entries (recordAnnounced port stamp) s
  let s2 := modBeacon port (fun bp => { bp with
    seq := incWrap16 bp.seq
    roll := bp.roll.filter (fun e => !e.carried)
    built := none
    lastNotice := match b.notices.getLast? with | none => bp.lastNotice | some n => some n.index }) s1
  have ht : t = forEach (List.range 8) (advanceNotice port b.notices) s2 := by
    simp only [t, completeBeacon, hb]
    rfl
  have hs1 : s1.bcu = s.bcu ∧ s1.xch = s.xch := by
    refine forEach_keeps (fun u => u.bcu = s.bcu ∧ u.xch = s.xch) (recordAnnounced port stamp) b.entries ?_ s ⟨rfl, rfl⟩
    rintro e _ u ⟨hbcu, hxch⟩
    have hf := recordAnnounced_frame port stamp e u
    exact ⟨hf.2.2.2.2.2.1.trans hbcu, hf.2.2.2.2.2.2.2.2.1.trans hxch⟩
  have hport : beaconPort s1 port = beaconPort s port := by rw [beaconPort, hs1.1]; rfl
  have hs2 : beaconPort s2 port = _ := beaconPort_modBeacon port _ s1
  have hbuilt : (beaconPort s2 port).built = none := by rw [hs2]
  have hannounced := recordAnnounced_announced (port := port) stamp b.entries s
  have hcrs : t.crs = s1.crs := by
    rw [ht]
    refine forEach_keeps (fun u => u.crs = s1.crs) (advanceNotice port b.notices) (List.range 8) ?_ s2 rfl
    intro i _ u hu
    exact (advanceNotice_frame port b.notices i u).2.2.2.2.1.trans hu
  have hpath : ∀ n q, path t n q = path s1 n q := fun n q => by
    rw [path, client, hcrs]
    rfl
  obtain ⟨-, -, hnotices⟩ := advanceNotices (port := port) b.notices (List.range 8) s2 List.nodup_range
  rw [← ht] at hnotices
  have hat : ∀ i, noticeAt s2 i = noticeAt s i := fun i => by
    have hkept : s2.bcu.notices = s1.bcu.notices := rfl
    rw [noticeAt, hkept, hs1.1]
    rfl
  have hstaging : s2.xch.staging.length = s.xch.staging.length := by
    change s1.xch.staging.length = _
    rw [hs1.2]
  refine ⟨?_, ⟨fun n hn => ?_, fun e he hlive hlt => ?_, fun n q hq => ?_⟩, fun i hi hnone => ?_, fun i hi n hn => ?_⟩
  · rw [ht, advanceNotices_beacon b.notices (List.range 8) s2 hbuilt, hs2, hport]
    rfl
  · rw [hpath]
    exact hannounced.others n hn
  · rw [hpath]
    exact hannounced.announced e he hlive hlt
  · rw [hpath]
    exact hannounced.port_ne n q hq
  · exact (hnotices i (List.mem_range.2 hi)).1 (by rw [hat]; exact hnone)
  · exact noticeAdvanced_between ((hnotices i (List.mem_range.2 hi)).2 n (by rw [hat]; exact hn)) hstaging.ge rfl
      (List.prefix_refl _)

/-- R102, R104: the departure of a Range. -/
theorem departed_spec (n : Nat) (tag : Byte) (stamp : Nat) (s : State) :
    let t := departed port n tag stamp s
    (rangePort t port).history = ((rangePort s port).history ++ [stamp]).drop ((rangePort s port).history.length - 7) ∧
    (rangePort t port).tagCounter = (rangePort s port).tagCounter ∧
    (rangePort t port).table = (rangePort s port).table.map (fun e =>
      if e.tag = tag ∧ e.t1 = none then
        { e with t1 := some stamp, expiry := some (stamp + s.rng.settings.echoWait * 16000) } else e) ∧
    path t n port = { path s n port with urgent := false } ∧ ∀ k q, (k ≠ n ∨ q ≠ port) → path t k q = path s k q := by
  intro t
  let s1 := modRange port (fun r => { r with table := r.table.map (stampEntry stamp s.rng.settings.echoWait tag) }) s
  let s2 := modPath n port (fun q => { q with urgent := false }) s1
  have hr1 : rangePort s2 port = { rangePort s port with
      table := (rangePort s port).table.map (stampEntry stamp s.rng.settings.echoWait tag) } := rangePort_modRange port _ s
  have hrt : rangePort t port = { rangePort s2 port with
      history := ((rangePort s2 port).history ++ [stamp]).drop (((rangePort s2 port).history ++ [stamp]).length - 8) } :=
    rangePort_modRange port _ s2
  have hpath : ∀ k q, path t k q = path s2 k q := fun _ _ => rfl
  refine ⟨?_, ?_, ?_, ?_, fun k q hk => ?_⟩
  · rw [hrt, hr1]
    dsimp only
    rw [List.length_append, List.length_singleton]
    rfl
  · rw [hrt, hr1]
  · rw [hrt, hr1]
    rfl
  · rw [hpath]
    by_cases hn : n < s.crs.clients.length
    · exact path_modPath (s := s1) port _ hn
    · have hreset : ∀ u : State, u.crs.clients.length = s.crs.clients.length → path u n port = atPort Client.reset.paths port :=
        fun u hu => by rw [path, client_past (by rw [hu]; exact Nat.le_of_not_lt hn)]
      rw [hreset s2 (modPath_onSlot (n := n) port _ s1).length, hreset s rfl]
      cases port <;> rfl
  · rw [hpath]
    exact path_modPath_ne hk _ s1

/-- Settles O37: a Beacon by `completeBeacon_spec`, a Range by `departed_spec`. -/
theorem timestampPoints : Obligations.TimestampPoints := by
  intro s port
  have hexec : ∀ at_, exec (.txTimestampPoint port at_) s = .next (txTimestamp port at_ s) := fun _ => rfl
  refine ⟨fun _ => rfl, fun at_ hf => ?_, fun at_ bytes htx => ?_, fun at_ bytes n tag htx => ?_⟩
  · rw [hexec, txTimestamp]
    cases htx : (link s port).tx with
    | none => rfl
    | some f => exact congrArg Host.Outcome.next (if_pos (hf f htx))
  · let s1 := modLink port (frameLeaves { kind := .beacon, bytes := bytes, stamped := false } (s.tbs.stamp at_)) s
    let u := completeBeacon port (s.tbs.stamp at_) s1
    have ht : txTimestamp port at_ s = refreshRange port u := by
      rw [txTimestamp, htx]
      rfl
    have hframe := completeBeacon_frame port (s.tbs.stamp at_) s1
    obtain ⟨-, -, -, hlnk, hrng, -, -, hmem, -⟩ := hframe
    have hlink : link u port = link s1 port := congrArg (atPort · port) hlnk
    have hs1 : link s1 port = _ := link_modLink port _ s
    have hrange : rangePort u port = rangePort s port := congrArg (fun r : Ranging => atPort r.ports port) hrng
    refine ⟨refreshRange port u, (hexec at_).trans (congrArg _ ht), hmem, ?_, fun b hb => ?_, ?_, ?_⟩
    · refine (link_refreshRange port u).trans ?_
      rw [hlink, hs1]
      rfl
    · obtain ⟨hbeacon, ⟨hothers, hann, hport⟩, hnone, hsome⟩ := completeBeacon_spec (s := s1) (stamp := s.tbs.stamp at_) hb
      exact ⟨hbeacon, hothers, hann, hport, hnone, hsome⟩
    · rw [rangePort_refreshRange, hrange]
    · rw [rangePort_refreshRange, hrange]
  · let s1 := modLink port (frameLeaves { kind := .range n tag, bytes := bytes, stamped := false } (s.tbs.stamp at_)) s
    let u := departed port n tag (s.tbs.stamp at_) s1
    have ht : txTimestamp port at_ s = refreshRange port u := by
      rw [txTimestamp, htx]
      rfl
    have hlink : link u port = link s1 port := congrArg (atPort · port) (departed_frame port n tag (s.tbs.stamp at_) s1).2.2.2.1
    have hs1 : link s1 port = _ := link_modLink port _ s
    have hrange : rangePort s1 port = rangePort s port := rfl
    obtain ⟨hhist, hcounter, htable, hpath, hothers⟩ := departed_spec (port := port) n tag (s.tbs.stamp at_) s1
    refine ⟨refreshRange port u, (hexec at_).trans (congrArg _ ht), rfl, ?_, ?_, ?_, ?_, hpath, hothers⟩
    · refine (link_refreshRange port u).trans ?_
      rw [hlink, hs1]
      rfl
    · rw [rangePort_refreshRange]
      exact hhist
    · rw [rangePort_refreshRange]
      exact hcounter
    · rw [rangePort_refreshRange]
      exact htable
end
end Sys2Proof.Machine

/-! ## The state of a port (R61 to R64, R125, R126) -/

namespace Sys2Proof.Machine

section
variable {s t : State} {port : Port}

/-! ### A port out of UP and into it (R61, R62, R125) -/

/-- What a change of the state of a port leaves alone. -/
structure PortWork (port : Port) (s t : State) : Prop where
  settings : (link t port).settings = (link s port).settings
  counters : (link t port).counters = (link s port).counters
  level : (link t port).link = (link s port).link
  holdoff : (link t port).holdoff = (link s port).holdoff
  links : ∀ q, q ≠ port → link t q = link s q
  ranges : ∀ q, q ≠ port → rangePort t q = rangePort s q
  beacons : ∀ q, q ≠ port → beaconPort t q = { beaconPort s q with built := (beaconPort t q).built }
  mem : t.mem = s.mem
  store : t.xch.store = s.xch.store

theorem PortWork.refl (s : State) : PortWork port s s := ⟨rfl, rfl, rfl, rfl, fun _ _ => rfl, fun _ _ => rfl, fun _ _ => rfl, rfl, rfl⟩

theorem PortWork.trans {u : State} (h : PortWork port s t) (k : PortWork port t u) : PortWork port s u where
  settings := k.settings.trans h.settings
  counters := k.counters.trans h.counters
  level := k.level.trans h.level
  holdoff := k.holdoff.trans h.holdoff
  links := fun q hq => (k.links q hq).trans (h.links q hq)
  ranges := fun q hq => (k.ranges q hq).trans (h.ranges q hq)
  beacons := fun q hq => by rw [k.beacons q hq, h.beacons q hq]
  mem := k.mem.trans h.mem
  store := k.store.trans h.store

theorem modLink_portWork {f : LinkPort → LinkPort} (h : ∀ l, (f l).settings = l.settings ∧ (f l).counters = l.counters ∧
    (f l).link = l.link ∧ (f l).holdoff = l.holdoff) (s : State) : PortWork port s (modLink port f s) := by
  obtain ⟨hset, hcount, hlevel, hhold⟩ := h (link s port)
  exact ⟨by rw [link_modLink, hset], by rw [link_modLink, hcount], by rw [link_modLink, hlevel], by rw [link_modLink, hhold],
    fun q hq => link_modLink_ne hq f s, fun _ _ => rfl, fun _ _ => rfl, rfl, rfl⟩

theorem modBeacon_portWork (f : BeaconPort → BeaconPort) (s : State) : PortWork port s (modBeacon port f s) :=
  ⟨rfl, rfl, rfl, rfl, fun _ _ => rfl, fun _ _ => rfl, fun q hq => by rw [beaconPort_modBeacon_ne hq], rfl, rfl⟩

theorem refreshRange_portWork (s : State) : PortWork port s (refreshRange port s) :=
  ⟨by rw [link_refreshRange], by rw [link_refreshRange], by rw [link_refreshRange], by rw [link_refreshRange],
    fun _ hq => (refreshRange_ne hq s).1, fun _ hq => (refreshRange_ne hq s).2, fun _ _ => rfl, rfl, rfl⟩

theorem voidPort_portWork (s : State) : PortWork port s (voidPort port s) := by
  obtain ⟨-, -, -, hlnk, hbcu, -, -, hxch, hmem, -⟩ := voidPort_frame port s
  have hrng := (voidPort_spec port s).1
  have hlink : ∀ q, link (voidPort port s) q = link s q := fun q => congrArg (atPort · q) hlnk
  have hbeacon : ∀ q, beaconPort (voidPort port s) q = beaconPort s q := fun q => congrArg (fun b : BeaconUnit => atPort b.ports q) hbcu
  refine ⟨by rw [hlink], by rw [hlink], by rw [hlink], by rw [hlink], fun q _ => hlink q, fun q hq => ?_, fun q _ => by rw [hbeacon],
    hmem, congrArg Controller.store hxch⟩
  exact (congrArg (fun r : Ranging => atPort r.ports q) hrng).trans (rangePort_modRange_ne hq _ s)

theorem noticeLeaveUp_portWork (i : Nat) (s : State) : PortWork port s (noticeLeaveUp port i s) := by
  have hput : ∀ (n : Option Notice) (u : State), PortWork port u (putNotice i n u) := fun n u =>
    ⟨rfl, rfl, rfl, rfl, fun _ _ => rfl, fun _ _ => rfl, fun q _ => by cases q <;> rfl, rfl, rfl⟩
  have hstage : ∀ (body : JournalBody) (u : State), PortWork port u (stage body u) := fun body u => by
    obtain ⟨-, -, -, hlnk, -, hrng, hbcu, -, -, hmem, -⟩ := stage_frame body u
    have hlink : ∀ q, link (stage body u) q = link u q := fun q => congrArg (atPort · q) hlnk
    have hbeacon : ∀ q, beaconPort (stage body u) q = beaconPort u q := fun q => congrArg (fun b : BeaconUnit => atPort b.ports q) hbcu
    exact ⟨by rw [hlink], by rw [hlink], by rw [hlink], by rw [hlink], fun q _ => hlink q,
      fun q _ => congrArg (fun r : Ranging => atPort r.ports q) hrng, fun q _ => by rw [hbeacon], hmem, stage_store body u⟩
  have hmod : ∀ (f : Notice → Notice) (u : State), PortWork port u (modNotice i f u) := fun f u =>
    ⟨rfl, rfl, rfl, rfl, fun _ _ => rfl, fun _ _ => rfl, fun _ _ => rfl, rfl, rfl⟩
  have hsettle : ∀ u : State, PortWork port u (settleOnce i u) := fun u => by
    unfold settleOnce
    split
    · exact .refl u
    · split
      · exact (hput none u).trans (hstage _ _)
      · exact .refl u
  unfold noticeLeaveUp
  split
  · exact .refl s
  · split
    · exact (hmod _ s).trans (hsettle _)
    · exact .refl s

theorem beaconLeaveUp_portWork (s : State) : PortWork port s (beaconLeaveUp port s) := by
  rw [beaconLeaveUp]
  exact forEach_keeps (fun u => PortWork port s u) (noticeLeaveUp port) (List.range 8)
    (fun i _ u hu => hu.trans (noticeLeaveUp_portWork i u)) _ (modBeacon_portWork _ s)

theorem leaveUp_portWork (new : PortState) (s : State) : PortWork port s (leaveUp port new s) := by
  have hdrop : PortWork port s (modLink port (dropFrames new) s) := modLink_portWork (f := dropFrames new) (fun _ => ⟨rfl, rfl, rfl, rfl⟩) s
  rw [leaveUp]
  exact hdrop.trans ((voidPort_portWork _).trans ((beaconLeaveUp_portWork _).trans (refreshRange_portWork _)))

theorem leaveUp_state (new : PortState) (s : State) : (link (leaveUp port new s) port).state = new := by
  have hlnk : (beaconLeaveUp port (voidPort port (modLink port (dropFrames new) s))).lnk = (modLink port (dropFrames new) s).lnk :=
    (beaconLeaveUp_frame port _).2.2.2.1.trans (voidPort_frame port _).2.2.2.1
  have hlink : link (beaconLeaveUp port (voidPort port (modLink port (dropFrames new) s))) port = dropFrames new (link s port) :=
    (congrArg (atPort · port) hlnk).trans (link_modLink port _ s)
  rw [leaveUp, link_refreshRange, hlink]
  rfl

/-- R61, R125: a port that enters UP. -/
theorem enterUp_spec (s : State) :
    let t := enterUp port s
    PortWork port s t ∧ (link t port).state = .up ∧ ((link t port).rangeReq = true ↔ launchHolds t port) ∧
    beaconPort t port = { beaconPort s port with next := some (firstPoint (beaconPort s port).rate (now s)) } := by
  intro t
  let raised := modLink port (fun l => { l with state := .up }) s
  have hraised : PortWork port s raised := modLink_portWork (f := fun l => { l with state := .up }) (fun _ => ⟨rfl, rfl, rfl, rfl⟩) s
  have ht : t = refreshRange port (beaconEnterUp port raised) := rfl
  have hbeacon : PortWork port raised (beaconEnterUp port raised) := modBeacon_portWork _ raised
  rw [ht]
  refine ⟨hraised.trans (hbeacon.trans (refreshRange_portWork _)), ?_, (refreshRange_fresh port _).req, ?_⟩
  · rw [link_refreshRange]
    exact congrArg LinkPort.state (link_modLink port _ s)
  · exact beaconPort_modBeacon port _ raised

/-- R124: the first point of a rate of the list. -/
theorem firstPoint_listed {rate : Nat} (h : rate ∈ [1, 2, 4, 8, 16]) (t : Nat) :
    firstPoint rate t % (16000000000 / rate) = 0 ∧ t ≤ firstPoint rate t ∧ firstPoint rate t < t + 16000000000 / rate := by
  refine firstPoint_spec t ?_
  have hsix : spacing rate = 16000000000 / rate := rfl
  rw [hsix]
  simp only [List.mem_cons, List.not_mem_nil, or_false] at h
  rcases h with rfl | rfl | rfl | rfl | rfl <;> decide

/-- R61: the link-status input takes a level. -/
theorem linkLevel_eq (level : Bool) (s : State) :
    let s1 := modLink port (fun l => { l with link := level }) s
    linkLevel port level s = if (link s port).state = .down ∧ level = true then enterUp port s1
      else if (link s port).state = .up ∧ level = false then leaveUp port .down s1 else s1 := by
  intro s1
  have hmoves : ∀ (up down same : State) (st : PortState), (match st with
      | .disabled => same
      | .down => if level then up else same
      | .up => if level then same else down) =
        if st = .down ∧ level = true then up else if st = .up ∧ level = false then down else same := by
    intro up down same st
    cases st <;> cases level <;> rfl
  exact hmoves (enterUp port s1) (leaveUp port .down s1) s1 (link s port).state

/-- Settles O33: the three moves of `linkLevel_eq`. -/
theorem linkLevelMovesPortState : Obligations.LinkLevelMovesPortState := by
  intro s port level
  let s1 := modLink port (fun l => { l with link := level }) s
  have hexec : exec (.linkStatusChange port level) s = .next (linkLevel port level s) := rfl
  have hl1 : link s1 port = { link s port with link := level } := link_modLink port _ s
  have hlinks : ∀ q, q ≠ port → link s1 q = link s q := fun q hq => link_modLink_ne hq _ s
  rw [hexec, linkLevel_eq]
  by_cases henter : (link s port).state = .down ∧ level = true
  · obtain ⟨hdown, rfl⟩ := henter
    obtain ⟨hwork, hup, hreq, hbeacon⟩ := enterUp_spec (port := port) s1
    rw [if_pos ⟨hdown, rfl⟩]
    generalize enterUp port s1 = t at *
    refine ⟨t, rfl, ?_, hwork.mem, ?_, ?_, ?_, fun q hq => ⟨?_, hwork.ranges q hq, hwork.beacons q hq⟩, fun h => ?_, fun _ h => ?_,
      fun _ _ hrate => ⟨hreq, ?_⟩⟩
    · rw [hwork.level, hl1]
    · rw [hup, hdown]
      rfl
    · rw [hwork.settings, hl1]
    · rw [hwork.counters, hl1]
    · exact (hwork.links q hq).trans (hlinks q hq)
    · rw [hup, hdown] at h
      cases h
    · cases h
    · exact ⟨_, congrArg BeaconPort.next hbeacon, firstPoint_listed hrate (now s)⟩
  · by_cases hleave : (link s port).state = .up ∧ level = false
    · obtain ⟨hup, rfl⟩ := hleave
      have hwork := leaveUp_portWork (port := port) .down s1
      have hdown := leaveUp_state (port := port) .down s1
      obtain ⟨hleft, hrate⟩ := leaveUp_spec (p := port) (new := .down) (by decide) s1
      rw [if_neg henter, if_pos ⟨hup, rfl⟩]
      generalize leaveUp port .down s1 = t at *
      refine ⟨t, rfl, ?_, hwork.mem, ?_, ?_, ?_, fun q hq => ⟨?_, hwork.ranges q hq, hwork.beacons q hq⟩, fun h => ?_,
        fun _ _ => ⟨?_, hrate⟩, fun h => ?_⟩
      · rw [hwork.level, hl1]
      · rw [hdown, hup]
        rfl
      · rw [hwork.settings, hl1]
      · rw [hwork.counters, hl1]
      · exact (hwork.links q hq).trans (hlinks q hq)
      · rw [hup, hdown] at h
        cases h
      · obtain ⟨h1, h2, h3, h4, h5, hrest⟩ := hleft
        rw [hl1] at h5
        exact ⟨h1, h2, h3, h4, h5, hrest⟩
      · rw [hup] at h
        cases h
    · rw [if_neg henter, if_neg hleave]
      refine ⟨s1, rfl, by rw [hl1], rfl, ?_, by rw [hl1], by rw [hl1], fun q hq => ⟨hlinks q hq, rfl, rfl⟩, fun _ => rfl,
        fun hup hlevel => absurd ⟨hup, hlevel⟩ hleave, fun hdown hlevel => absurd ⟨hdown, hlevel⟩ henter⟩
      rw [hl1]
      cases hst : (link s port).state <;> cases level <;> simp_all

end

section
variable {s t : State} {port : Port}

/-! ### PORT-SETUP (R63, R64, R126) -/

theorem portOf_none_iff (b : Byte) : portOf b = none ↔ 1 < b.toNat := by
  revert b
  decide

theorem portSettingsOf_none (p : PortSetupP)
    (h : 1 < p.port.toNat ∨ p.typeCode = 0 ∨ p.station.getLsbD 40 = true ∨ p.rate.toNat ∉ [1, 2, 4, 8, 16]) :
    portSettingsOf p = none := by
  unfold portSettingsOf
  cases hport : portOf p.port with
  | none => rfl
  | some port =>
    have hlisted : ¬ 1 < p.port.toNat := fun h => by rw [(portOf_none_iff _).2 h] at hport; cases hport
    refine if_pos ?_
    simp only [Bool.or_eq_true, decide_eq_true_eq, Bool.not_eq_true', decide_eq_false_iff_not, isMulticast, or_assoc]
    exact h.resolve_left hlisted

theorem portSettingsOf_some {p : PortSetupP} (hport : portOf p.port = some port) (htype : p.typeCode ≠ 0)
    (hstation : p.station.getLsbD 40 = false) (hrate : p.rate.toNat ∈ [1, 2, 4, 8, 16]) :
    portSettingsOf p = some (port, { enable := p.enable != 0, station := p.station, typeCode := p.typeCode, domain := p.domain,
                                     rate := p.rate.toNat, reporting := p.reporting != 0 }) := by
  unfold portSettingsOf
  rw [hport]
  refine if_neg ?_
  simp only [Bool.or_eq_true, decide_eq_true_eq, Bool.not_eq_true', decide_eq_false_iff_not, isMulticast]
  rintro ((h | h) | h)
  · exact htype h
  · rw [hstation] at h
    cases h
  · exact h hrate

/-- R126: a port's beacon schedule as a rate is handed to it. -/
theorem handRate_spec (rate : Nat) (s : State) :
    PortWork port s (handRate port rate s) ∧ (handRate port rate s).lnk = s.lnk ∧ (handRate port rate s).rng = s.rng ∧
    (handRate port rate s).bcu.notices = s.bcu.notices ∧ (handRate port rate s).xch = s.xch ∧
    beaconPort (handRate port rate s) port = (if (link s port).state = .up then
        { beaconPort s port with pendingRate := if rate = (beaconPort s port).rate then none else some rate }
      else { beaconPort s port with rate := rate, pendingRate := none }) := by
  unfold handRate
  by_cases hup : (link s port).state = .up
  · rw [if_pos hup, if_pos hup]
    exact ⟨modBeacon_portWork _ s, rfl, rfl, rfl, rfl, beaconPort_modBeacon port _ s⟩
  · rw [if_neg hup, if_neg hup]
    exact ⟨modBeacon_portWork _ s, rfl, rfl, rfl, rfl, beaconPort_modBeacon port _ s⟩

/-- R61, R62: a port that has left UP, seen from a state that differs in what a port that leaves UP does not keep. -/
theorem upLeft_from {u : State} (h : upLeft port u t) (hmac : (link u port).macError = (link s port).macError)
    (htx : (link u port).tx = (link s port).tx) (hrng : rangePort u port = rangePort s port)
    (hbeacon : beaconPort u port = { beaconPort s port with
      rate := (beaconPort u port).rate, pendingRate := (beaconPort u port).pendingRate })
    (hnotices : ∀ i, noticeAt u i = noticeAt s i) (hstaging : u.xch.staging = s.xch.staging) : upLeft port s t := by
  obtain ⟨h1, h2, h3, h4, h5, h6, h7, h8, h9⟩ := h
  rw [hmac, htx] at h5
  rw [hrng] at h6 h7
  rw [hbeacon] at h8
  refine ⟨h1, h2, h3, h4, h5, h6, h7, h8, fun i hi => ?_⟩
  obtain ⟨hstands, honce⟩ := h9 i hi
  rw [hnotices] at hstands honce
  exact ⟨hstands, fun n hn hm ho => onceSettled_between (honce n hn hm ho) (by rw [hstaging]) rfl (List.prefix_refl _)⟩

/-- R62, R100: a port that has left UP has no Range request as it is judged anew. -/
theorem upLeft_answered (slot : Nat) (r : ResultCode) (data : List Byte) (h : upLeft port s t) (hup : (link t port).state ≠ .up) :
    upLeft port s (complete slot r data (refreshRange port t)) := by
  obtain ⟨h1, h2, h3, h4, h5, h6, h7, h8, h9⟩ := h
  let v := complete slot r data (refreshRange port t)
  have hlink : link v port = { link t port with rangeReq := (link (refreshRange port t) port).rangeReq } := link_refreshRange port t
  have hnone : (link (refreshRange port t) port).rangeReq = false :=
    Bool.eq_false_iff.2 fun h => hup ((rangeReq_refreshRange port t).1 h).1.choose_spec.2.2.2.2
  have hrange : rangePort v port = { rangePort t port with windowAt := (rangePort v port).windowAt } := rangePort_refreshRange port t
  refine ⟨?_, ?_, ?_, ?_, ?_, ?_, h7, h8, fun i hi => ?_⟩
  · exact (congrArg LinkPort.beaconReq hlink).trans h1
  · exact (congrArg LinkPort.rangeReq hlink).trans hnone
  · exact (congrArg LinkPort.tx hlink).trans h3
  · exact (congrArg LinkPort.rx hlink).trans h4
  · exact (congrArg LinkPort.macError hlink).trans h5
  · exact hrange.trans (by rw [h6])
  · obtain ⟨hstands, honce⟩ := h9 i hi
    exact ⟨hstands, fun n hn hm ho => onceSettled_between (honce n hn hm ho) (le_refl _) rfl (List.prefix_refl _)⟩

/-- R61: what the enable setting makes of the port. -/
theorem enableEffect_spec (enable : Bool) (s : State) :
    let t := enableEffect port enable s
    PortWork port s t ∧
    (link t port).state = (if enable = false then .disabled
      else if (link s port).state = .disabled then (if (link s port).link then .up else .down) else (link s port).state) ∧
    ((link s port).state = .up → enable = true → t = s) ∧
    ((link s port).state = .up → enable = false →
      upLeft port s t ∧ (beaconPort t port).rate = (beaconPort s port).pendingRate.getD (beaconPort s port).rate) ∧
    ((link s port).state ≠ .up → (beaconPort t port).rate = (beaconPort s port).rate ∧
      (beaconPort t port).pendingRate = (beaconPort s port).pendingRate ∧ ((link t port).state = .up →
        (beaconPort t port).next = some (firstPoint (beaconPort s port).rate (now s)))) := by
  have hmoved : ∀ new : PortState, PortWork port s (modLink port (fun l => { l with state := new }) s) ∧
      (link (modLink port (fun l => { l with state := new }) s) port).state = new := fun new =>
    ⟨modLink_portWork (f := fun l => { l with state := new }) (fun _ => ⟨rfl, rfl, rfl, rfl⟩) s, by rw [link_modLink]⟩
  intro t
  cases hst : (link s port).state with
  | disabled =>
    have hcases : t = if enable = false then s else if (link s port).link then enterUp port s
        else modLink port (fun l => { l with state := .down }) s := by
      simp only [t, enableEffect, hst]
      cases enable <;> rfl
    cases enable with
    | false =>
      rw [if_pos rfl] at hcases
      rw [hcases]
      refine ⟨.refl s, hst, (fun h => by cases h), (fun h => by cases h), fun _ => ⟨rfl, rfl, fun h => ?_⟩⟩
      rw [hst] at h
      cases h
    | true =>
      rw [if_neg (by decide)] at hcases
      by_cases hlevel : (link s port).link = true
      · obtain ⟨hwork, hup, -, hbeacon⟩ := enterUp_spec (port := port) s
        rw [if_pos hlevel] at hcases
        rw [hcases]
        refine ⟨hwork, ?_, (fun h => by cases h), (fun h => by cases h), fun _ => ⟨?_, ?_, fun _ => ?_⟩⟩
        · rw [hup, if_neg (by decide), if_pos rfl, if_pos hlevel]
        · rw [hbeacon]
        · rw [hbeacon]
        · rw [hbeacon]
      · obtain ⟨hwork, hdown⟩ := hmoved .down
        rw [if_neg hlevel] at hcases
        rw [hcases]
        refine ⟨hwork, ?_, (fun h => by cases h), (fun h => by cases h), fun _ => ⟨rfl, rfl, fun h => ?_⟩⟩
        · rw [hdown, if_neg (by decide), if_pos rfl, if_neg hlevel]
        · rw [hdown] at h
          cases h
  | down =>
    cases enable with
    | false =>
      obtain ⟨hwork, hdisabled⟩ := hmoved .disabled
      have ht : t = modLink port (fun l => { l with state := .disabled }) s := by
        simp only [t, enableEffect, hst, Bool.false_eq_true, if_false]
      rw [ht]
      refine ⟨hwork, hdisabled, (fun h => by cases h), (fun h => by cases h), fun _ => ⟨rfl, rfl, fun h => ?_⟩⟩
      rw [hdisabled] at h
      cases h
    | true =>
      have ht : t = s := by simp only [t, enableEffect, hst, if_true]
      rw [ht]
      refine ⟨.refl s, hst, (fun h => by cases h), (fun h => by cases h), fun _ => ⟨rfl, rfl, fun h => ?_⟩⟩
      rw [hst] at h
      cases h
  | up =>
    cases enable with
    | false =>
      have ht : t = leaveUp port .disabled s := by simp only [t, enableEffect, hst, Bool.false_eq_true, if_false]
      rw [ht]
      exact ⟨leaveUp_portWork .disabled s, leaveUp_state .disabled s, (fun _ h => by cases h),
        fun _ _ => leaveUp_spec (by decide) s, fun h => absurd rfl h⟩
    | true =>
      have ht : t = s := by simp only [t, enableEffect, hst, if_true]
      rw [ht]
      exact ⟨.refl s, hst, fun _ _ => rfl, (fun _ h => by cases h), fun h => absurd rfl h⟩

/-- Settles O34: the settings written, the rate handed over (`handRate_spec`), and the enable setting (`enableEffect_spec`). -/
theorem portSetupWritesSettings : Obligations.PortSetupWritesSettings := by
  intro s src p hfree
  let u := takeOrder src.slot.val src.cookie (.portSetup p) s
  have hexec : exec (.portSetup src p) s = .next (orderPortSetup p src.slot.val u) :=
    congrArg _ (handOver_run (.portSetup p) (orderPortSetup p) hfree)
  refine ⟨fun hbad => ?_, fun port hport htype hstation hrate => ?_⟩
  · rw [hexec, orderPortSetup, portSettingsOf_none p hbad]
    exact congrArg _ (finish_take src _ _ s)
  · let st : PortSettings := { enable := p.enable != 0, station := p.station, typeCode := p.typeCode, domain := p.domain,
                               rate := p.rate.toNat, reporting := p.reporting != 0 }
    let s1 := modLink port (fun l => { l with settings := st, holdoff := if st.enable && st.reporting then l.holdoff else none }) u
    let s2 := handRate port st.rate s1
    let s3 := enableEffect port st.enable s2
    let s4 := refreshRange port s3
    have ht : orderPortSetup p src.slot.val u = finish src.slot.val .ok s4 := by
      rw [orderPortSetup, portSettingsOf_some hport htype hstation hrate]
    have hl1 : link s1 port = { link s port with
        settings := st, holdoff := if st.enable && st.reporting then (link s port).holdoff else none } := link_modLink port _ u
    have hlinks1 : ∀ q, q ≠ port → link s1 q = link s q := fun q hq => link_modLink_ne hq _ u
    obtain ⟨hwork2, hlnk2, hrng2, hnotices2, hxch2, hbeacon2⟩ := handRate_spec (port := port) st.rate s1
    have hl2 : link s2 port = link s1 port := congrArg (atPort · port) hlnk2
    have hstate2 : (link s2 port).state = (link s port).state := by rw [hl2, hl1]
    obtain ⟨hwork3, hstate3, hstands, hleft, hdown⟩ := enableEffect_spec (port := port) st.enable s2
    have hwork := (hwork2.trans hwork3).trans (refreshRange_portWork (port := port) s3)
    have hlink : ∀ v : State, link (finish src.slot.val .ok v) port = link v port := fun _ => rfl
    have hfinal : link (finish src.slot.val .ok s4) port = { link s3 port with rangeReq := (link s4 port).rangeReq } :=
      link_refreshRange port s3
    have henable : st.enable = false ↔ p.enable = 0 := by simp [st]
    have hreporting : (st.enable && st.reporting) = true ↔ p.enable ≠ 0 ∧ p.reporting ≠ 0 := by simp [st]
    have hbeacon4 : beaconPort s4 port = beaconPort s3 port := rfl
    refine ⟨finish src.slot.val .ok s4, by rw [hexec, ht], hwork.mem, ?_, ?_, ?_, ?_, ?_, ?_, fun q hq => ⟨?_, ?_, ?_⟩, ?_, ?_, ?_, ?_, ?_⟩
    · exact storeEntry_worked (s := s) (m := s) rfl hwork.store
    · rw [hlink, hwork.settings, hl1]
    · rw [hfinal, hstate3, hstate2, hl2, hl1]
      simp only [henable]
    · rw [hlink, hwork.counters, hl1]
    · rw [hlink, hwork.level, hl1]
    · rw [hlink, hwork.holdoff, hl1]
      simp only [hreporting]
    · exact (hwork.links q hq).trans (hlinks1 q hq)
    · exact hwork.ranges q hq
    · exact hwork.beacons q hq
    · intro hup hen
      have hon : st.enable = true := Bool.not_eq_false _ ▸ fun h => hen (henable.1 h)
      have hs3 : s3 = s2 := hstands (hstate2.trans hup) hon
      have hb : beaconPort s3 port = { beaconPort s port with
          pendingRate := if p.rate.toNat = (beaconPort s port).rate then none else some p.rate.toNat } := by
        rw [hs3, hbeacon2, if_pos (by rw [hl1]; exact hup)]
        rfl
      refine ⟨(congrArg BeaconPort.rate hb : (beaconPort s3 port).rate = _), (congrArg BeaconPort.pendingRate hb : (beaconPort s3 port).pendingRate = _), ?_⟩
      have htable : (rangePort s4 port).table = (rangePort s3 port).table := table_refreshRange port s3
      exact htable.trans (by rw [hs3, rangePort, hrng2]; rfl)
    · intro hup hoff
      have hkeptState : (link s1 port).state = .up := by rw [hl1]; exact hup
      rw [if_pos hkeptState] at hbeacon2
      have hbeacon2 : beaconPort s2 port = { beaconPort s port with
          pendingRate := if p.rate.toNat = (beaconPort s port).rate then none else some p.rate.toNat } := hbeacon2
      obtain ⟨hleft, hrateLeft⟩ := hleft (hstate2.trans hup) (henable.2 hoff)
      have hleft : upLeft port s s3 := by
        refine upLeft_from hleft ?_ ?_ ?_ ?_ (fun i => ?_) (by rw [show s2.xch = s1.xch from hxch2]; rfl)
        · rw [hl2, hl1]
        · rw [hl2, hl1]
        · rw [rangePort, hrng2]
          rfl
        · rw [hbeacon2]
        · rw [noticeAt, hnotices2]
          rfl
      have hnot3 : (link s3 port).state ≠ .up := by
        rw [hstate3, if_pos (henable.2 hoff)]
        decide
      refine ⟨?_, ?_⟩
      · exact upLeft_answered src.slot.val .ok [] hleft hnot3
      · refine hrateLeft.trans ?_
        rw [hbeacon2]
        by_cases hsame : p.rate.toNat = (beaconPort s port).rate
        · simp [hsame]
        · simp [hsame]
    · intro hdownState
      have hkeptState : ¬ (link s1 port).state = .up := by rw [hl1]; exact hdownState
      rw [if_neg hkeptState] at hbeacon2
      obtain ⟨hrate3, hpending3, -⟩ := hdown (by rw [hstate2]; exact hdownState)
      exact ⟨hrate3.trans (by rw [hbeacon2]), hpending3.trans (by rw [hbeacon2])⟩
    · exact (refreshRange_fresh port s3).req
    · intro hdownState hupNow
      have hkeptState : ¬ (link s1 port).state = .up := by rw [hl1]; exact hdownState
      rw [if_neg hkeptState] at hbeacon2
      obtain ⟨-, -, hnext⟩ := hdown (by rw [hstate2]; exact hdownState)
      have hrate2 : (beaconPort s2 port).rate = p.rate.toNat := congrArg BeaconPort.rate hbeacon2
      have hnow : now s2 = now s := congrArg Timebase.now (handRate_frame port st.rate s1).1
      have hupState : (link s3 port).state = .up := by
        rw [hfinal] at hupNow
        exact hupNow
      rw [hrate2, hnow] at hnext
      exact ⟨_, hnext hupState, firstPoint_listed hrate (now s)⟩
end
end Sys2Proof.Machine

/-! The clients and their debts at a second boundary (O47). -/

namespace Sys2Proof.Machine

section
variable {s t : State}

/-! ## A run over the clients around one of them -/

theorem occupied_nodup (s : State) : (occupied s).Nodup := by
  rw [occupied_eq]; exact List.nodup_range.filter _

/-- What a run over the other clients leaves of client `n`. -/
structure Beside (n : Nat) (s t : State) : Prop where
  client : client t n = client s n
  length : t.crs.clients.length = s.crs.clients.length
  hands : Hands s t

theorem Beside.refl (n : Nat) (s : State) : Beside n s s := ⟨rfl, rfl, .refl s⟩

theorem Beside.trans {n : Nat} {u v w : State} (h : Beside n u v) (k : Beside n v w) : Beside n u w :=
  ⟨k.client.trans h.client, k.length.trans h.length, h.hands.trans k.hands⟩

/-- A run over the clients, each of which works on its own slot: what it makes of one client that is present. -/
theorem clients_around {f : Nat → State → State} (hslot : ∀ k u, OnSlot k u (f k u)) (hhands : ∀ k u, Hands u (f k u))
    {n : Nat} (hv : (client s n).state ≠ .vacant) :
    ∃ u, Beside n s u ∧ Beside n (f n u) (forEach (occupied s) f s) :=
  forEach_around (Beside.refl n) Beside.trans (mem_occupied.2 hv) (occupied_nodup s)
    (fun k hk u => ⟨(hslot k u).others n (Ne.symm hk), (hslot k u).length, hhands k u⟩) s

/-- A run over the clients leaves a slot that holds none. -/
theorem clients_vacant {f : Nat → State → State} (hslot : ∀ k u, OnSlot k u (f k u)) {n : Nat}
    (hv : (client s n).state = .vacant) : client (forEach (occupied s) f s) n = client s n :=
  forEach_keeps (fun u => client u n = client s n) f _
    (fun k hk u hu => ((hslot k u).others n fun e => mem_occupied.1 hk (e ▸ hv)).trans hu) s rfl

/-! ## The Roster's turn -/

/-- R85: a client flagged for REVERIFY with its verdicts cleared. -/
def reverified (c : Client) : Client := { c with reverify := true, offsetV := Judged.reset, pulseV := Judged.reset }

theorem stepClient_onSlot (n : Nat) (s : State) : OnSlot n s (stepClient n s) :=
  ((modClient_onSlot _ s).trans (evaluate_onSlot _ _)).trans (queueIfChanged_onSlot _)

theorem stepClient_hands (n : Nat) (s : State) : Hands s (stepClient n s) :=
  queueIfChanged_hands (evaluate_hands (modClient_hands (.refl s)))

/-- R85: one client at an applied step. -/
theorem stepClient_spec {n : Nat} (hv : (client s n).state ≠ .vacant) : stateFollows n .step s (stepClient n s) ∧
    ∃ st, client (stepClient n s) n = { reverified (client s n) with state := st } := by
  have hw : client (modClient n reverified s) n = reverified (client s n) := client_modClient _ (lt_of_occupied hv)
  have hwv : (client (modClient n reverified s) n).state ≠ .vacant := by rw [hw]; exact hv
  have hfollows := evaluate_follows n .step _ hwv
  obtain ⟨st, hst⟩ := evaluate_client n .step (modClient n reverified s)
  have hclient : client (stepClient n s) n = client (evaluate n .step (modClient n reverified s)) n :=
    client_queueIfChanged _ n
  refine ⟨stateFollows_grown hfollows (congrArg Client.state hw :) (modClient_hands (.refl s)).grows hclient
    (queueIfChanged_hands (.refl _)).grows, st, ?_⟩
  rw [hclient, hst, hw]

theorem ageNewcomers_hands (r : Report) (s : State) : Hands s (ageNewcomers r s) := (Hands.refl s).same rfl rfl fun _ => rfl

theorem crsBoundary_plain {r : Report} (hr : r.step = none) (s : State) : crsBoundary r s = ageNewcomers r s := by
  rw [crsBoundary, hr]

/-- R85: a client at an applied step, in the turn of the Roster. -/
theorem crsBoundary_client {r : Report} {d : Int} (hr : r.step = some d) {n : Nat} (hv : (client s n).state ≠ .vacant) :
    stateFollows n .step s (crsBoundary r s) ∧
      ∃ st, client (crsBoundary r s) n = { reverified (client s n) with state := st } := by
  let m := modCrs (fun r => { r with newcomers := r.newcomers.map (fun e => { e with heard := moveBy d e.heard }) }) s
  have heq : crsBoundary r s = ageNewcomers r (forEach (occupied m) stepClient m) := by rw [crsBoundary, hr]; rfl
  obtain ⟨u, hu, ht⟩ := clients_around (s := m) stepClient_onSlot stepClient_hands hv
  obtain ⟨hfollows, st, hst⟩ := stepClient_spec (s := u) (by rw [hu.client]; exact hv)
  have hclient : client (crsBoundary r s) n = client (stepClient n u) n := by rw [heq]; exact ht.client
  have hbefore : Grows s u := ((Hands.refl s).same (t := m) rfl rfl fun _ => rfl).grows.trans hu.hands.grows
  have hafter : Grows (stepClient n u) (crsBoundary r s) := by
    rw [heq]; exact (ht.hands.trans (ageNewcomers_hands r _)).grows
  refine ⟨stateFollows_grown hfollows (congrArg Client.state hu.client) hbefore hclient hafter, st, ?_⟩
  rw [hclient, hst, hu.client]; rfl

/-- A slot that holds no client is left by the Roster's turn. -/
theorem crsBoundary_vacant {r : Report} {n : Nat} (hv : (client s n).state = .vacant) : client (crsBoundary r s) n = client s n := by
  cases hr : r.step with
  | none => rw [crsBoundary_plain hr]; rfl
  | some d =>
    rw [crsBoundary, hr]
    exact clients_vacant (s := modCrs _ s) stepClient_onSlot hv

/-! ## The captures' turn -/

theorem captureIn_candidate {i : Nat} {cd : Candidate} (h : (captureIn s i).candidate = some cd) : i < s.evc.length := by
  by_contra hi
  rw [captureIn, List.getD_eq_getElem?_getD, List.getElem?_eq_none (Nat.le_of_not_lt hi)] at h
  cases h

/-- R164: a capture left unjudged, for a reason already held, touches no client. -/
theorem confirmIf_unjudged {reached : Nat → Bool} {i : Fin 4}
    (h : (captureIn s i.val).candidate = none ∨ (captureIn s i.val).unjudged ≠ none) :
    (confirmIf reached i s).crs = s.crs ∧ (confirmIf reached i s).bcu = s.bcu ∧ ∀ j, j ≠ i.val → captureIn (confirmIf reached i s) j = captureIn s j := by
  unfold confirmIf
  split
  · exact ⟨rfl, rfl, fun _ _ => rfl⟩
  next cd hcd =>
    have hu : (captureIn s i.val).unjudged ≠ none := h.resolve_left (by rw [hcd]; exact nofun)
    split
    case isFalse => exact ⟨rfl, rfl, fun _ _ => rfl⟩
    unfold confirm
    dsimp only
    split
    case isFalse => exact ⟨rfl, rfl, fun j hj => captureIn_modCapture_ne _ _ hj⟩
    have hi : i.val < s.evc.length := captureIn_candidate hcd
    obtain ⟨w, hw⟩ := Option.ne_none_iff_exists'.1 hu
    have hjudge : ∃ why, captureJudge (modCapture i.val (fun c => { c with settled := cd.rising, candidate := none }) s) i.val
        = .inl why := by
      rw [captureJudge, captureIn_modCapture _ hi, hw]
      cases w <;> exact ⟨_, rfl⟩
    obtain ⟨why, hwhy⟩ := hjudge
    simp only [capture, hwhy]
    refine ⟨by simp, by simp, fun j hj => ?_⟩
    have hrecord (u : State) (interval : Option Nat) (cap : Captured) :
        captureIn (captureRecord i cap interval why none u) j = captureIn u j := by simp [captureIn]
    rw [hrecord, captureIn_modCapture_ne _ _ hj, captureIn_modCapture_ne _ _ hj, captureIn_modCapture_ne _ _ hj]

/-- R167: the captures' turn touches no client: each input that an applied step confirms is left unjudged. -/
theorem evcBoundary_clients (r : Report) (s : State) : (evcBoundary r s).crs = s.crs ∧ (evcBoundary r s).bcu = s.bcu := by
  have hrun (f : Nat → Bool) (xs : List (Fin 4)) : ∀ u : State, xs.Nodup →
      (∀ i ∈ xs, (captureIn u i.val).candidate = none ∨ (captureIn u i.val).unjudged ≠ none) →
      (forEach xs (confirmIf f) u).crs = u.crs ∧ (forEach xs (confirmIf f) u).bcu = u.bcu := by
    induction xs with
    | nil => intro u _ _; exact ⟨rfl, rfl⟩
    | cons x xs ih =>
      intro u hnodup hall
      obtain ⟨hx, hxs⟩ := List.nodup_cons.1 hnodup
      obtain ⟨hcrs, hbcu, hothers⟩ := confirmIf_unjudged (reached := f) (hall x List.mem_cons_self)
      rw [forEach_cons, ← hcrs, ← hbcu]
      refine ih _ hxs fun i hi => ?_
      rw [hothers i.val fun e => hx (Fin.ext e ▸ hi)]
      exact hall i (List.mem_cons_of_mem _ hi)
  unfold evcBoundary
  split
  · exact ⟨rfl, rfl⟩
  next d _ =>
    refine hrun _ _ { s with evc := s.evc.map (stepCapture d) } (by decide) fun i _ => ?_
    change ((s.evc.map (stepCapture d)).getD i.val CaptureIn.reset).candidate = none ∨
      ((s.evc.map (stepCapture d)).getD i.val CaptureIn.reset).unjudged ≠ none
    rw [List.getD_eq_getElem?_getD, List.getElem?_map]
    cases s.evc[i.val]?
    · exact .inl rfl
    · exact .inr nofun

end
section
variable {s t : State} {n : Nat}

/-! ## The debts -/

/-- R98: a path after one unit of debt. -/
def owed (q : Path) : Path :=
  if 9 ≤ q.debt + 1 then { q with debt := 9, state := .lost, urgent := false } else { q with debt := q.debt + 1 }

/-- R98: a path due or not at a boundary. -/
def debited (isDue : Bool) (q : Path) : Path := if isDue then owed q else q

theorem stage_onSlot (body : JournalBody) (s : State) : OnSlot n s (stage body s) := .of_crs (by simp)

theorem addDebt_onSlot (epoch : Nat) (p : Port) (s : State) : OnSlot n s (addDebt epoch n p s) := by
  unfold addDebt
  split
  · dsimp only
    split
    · exact (modPath_onSlot p _ s).trans (stage_onSlot _ _)
    · exact modPath_onSlot p _ s
  · exact .refl s

/-- R98: what one unit of debt leaves of the client. -/
theorem addDebt_client (epoch : Nat) (p : Port) (hn : n < s.crs.clients.length) :
    client (addDebt epoch n p s) n = { client s n with paths := modPort p (debited (due s epoch n p)) (client s n).paths } := by
  have hself : modPort p (fun q => q) (client s n).paths = (client s n).paths := by cases p <;> rfl
  unfold addDebt
  cases hdue : due s epoch n p
  · exact (congrArg (fun ps => { client s n with paths := ps }) hself).symm
  rw [if_pos rfl]
  have howed : modPort p (debited true) (client s n).paths = modPort p (fun _ => owed (path s n p)) (client s n).paths := by
    cases p <;> rfl
  rw [howed]
  dsimp only
  by_cases h : 9 ≤ (path s n p).debt + 1
  · have : client (modPath n p (fun q => { q with debt := 9, state := .lost, urgent := false }) s) n = _ := client_modClient _ hn
    rw [if_pos h]
    simp only [client, stage_frame] at this ⊢
    rw [this, owed, if_pos h]
    cases p <;> rfl
  · have : client (modPath n p (fun q => { q with debt := q.debt + 1 }) s) n = _ := client_modClient _ hn
    rw [if_neg h, this, owed, if_neg h]
    cases p <;> rfl

/-- R98: the record of a path that becomes LOST. -/
theorem addDebt_lost {epoch : Nat} {p : Port} (hdue : due s epoch n p = true) (h : 8 ≤ (path s n p).debt) :
    handedOn s (addDebt epoch n p s) (.pathLost n p (client s n).config.addr (path s n p).delay (path s n p).timeouts
      (path s n p).rejects (path s n p).late) := by
  rw [addDebt, if_pos hdue]
  dsimp only
  rw [if_pos (by omega)]
  exact handedOn_stage_of rfl

theorem clientDebt_onSlot (epoch : Nat) (s : State) : OnSlot n s (clientDebt epoch n s) := by
  have hjoin (before : Client) (p : Port) (u : State) : OnSlot n u (joinIfLost before n p u) := .of_crs (by simp)
  exact ((((addDebt_onSlot epoch .a s).trans (addDebt_onSlot epoch .b _)).trans (evaluate_onSlot _ _)).trans
    (queueIfChanged_onSlot _)).trans ((hjoin _ .a _).trans (hjoin _ .b _))

/-- R98: the debts of both paths, A before B. -/
def bothDebts (epoch n : Nat) (s : State) : State := addDebt epoch n .b (addDebt epoch n .a s)

theorem bothDebts_client (epoch : Nat) (hn : n < s.crs.clients.length) : client (bothDebts epoch n s) n = { client s n with
    paths := ⟨debited (due s epoch n .a) (client s n).paths.a, debited (due s epoch n .b) (client s n).paths.b⟩ } := by
  have hn1 : n < (addDebt epoch n .a s).crs.clients.length := by rw [(addDebt_onSlot epoch .a s).length]; exact hn
  have hdue : due (addDebt epoch n .a s) epoch n .b = due s epoch n .b := by
    unfold due path
    rw [addDebt_client epoch .a hn]; rfl
  rw [bothDebts, addDebt_client epoch .b hn1, hdue, addDebt_client epoch .a hn]; rfl

theorem bothDebts_hands (epoch : Nat) (s : State) : Hands s (bothDebts epoch n s) := addDebt_hands (addDebt_hands (.refl s))

theorem bothDebts_lost {epoch : Nat} {p : Port} (hn : n < s.crs.clients.length) (hdue : due s epoch n p = true)
    (h : 8 ≤ (path s n p).debt) : handedOn s (bothDebts epoch n s) (.pathLost n p (client s n).config.addr (path s n p).delay
      (path s n p).timeouts (path s n p).rejects (path s n p).late) := by
  cases p with
  | a => exact (addDebt_hands (.refl _)).grows.handedOn (addDebt_lost hdue h)
  | b =>
    have hc := addDebt_client epoch .a hn
    have hpath : path (addDebt epoch n .a s) n .b = path s n .b := by unfold path; rw [hc]; rfl
    have hdue1 : due (addDebt epoch n .a s) epoch n .b = true := by
      unfold due
      rw [hpath, hc]; exact hdue
    have hlost := addDebt_lost hdue1 (by rw [hpath]; exact h)
    rw [hpath, hc] at hlost
    exact (addDebt_hands (.refl s)).grows.handedOn_before hlost

/-- R97: one unit of debt shows in what a client record carries. -/
theorem samePath_owed {q : Path} (h : q.state = .seeding ∨ q.state = .valid) : samePath (owed q) q = false := by
  unfold owed samePath
  split
  · rcases h with h | h <;> simp [h]
  · simp

theorem owed_state (q : Path) : (8 ≤ q.debt → owed q = { q with debt := 9, state := .lost, urgent := false }) ∧
    (q.debt < 8 → owed q = { q with debt := q.debt + 1 }) :=
  ⟨fun h => if_pos (by omega), fun h => if_neg (by omega)⟩

theorem due_state {epoch : Nat} {p : Port} (h : due s epoch n p = true) : (path s n p).state = .seeding ∨ (path s n p).state = .valid := by
  simp only [due, Bool.and_eq_true, Bool.or_eq_true, beq_iff_eq] at h
  exact h.1

theorem client_joinIfLost (before : Client) (p : Port) (k : Nat) (u : State) : client (joinIfLost before n p u) k = client u k := by
  simp [client]

/-- R120: the client of a path that has become LOST joins the port's queue. -/
theorem joinIfLost_joined {before : Client} {p : Port} (h : (path s n p).state = .lost) (hb : (atPort before.paths p).state ≠ .lost) :
    inRoll (joinIfLost before n p s) p n := by
  rw [joinIfLost, if_pos ⟨h, hb⟩]
  exact joinRoll_mem p n s

/-- R98, R119, R120: the debts of one client at a boundary. -/
theorem clientDebt_spec (epoch : Nat) (hv : (client s n).state ≠ .vacant) :
    stateFollows n .path s (clientDebt epoch n s) ∧
    (∃ st, client (clientDebt epoch n s) n = { client s n with state := st, paths :=
      ⟨debited (due s epoch n .a) (client s n).paths.a, debited (due s epoch n .b) (client s n).paths.b⟩ }) ∧
    ∀ p, due s epoch n p = true → n ∈ (clientDebt epoch n s).crs.queue ∧
      (8 ≤ (path s n p).debt → inRoll (clientDebt epoch n s) p n ∧
        handedOn s (clientDebt epoch n s) (.pathLost n p (client s n).config.addr (path s n p).delay
          (path s n p).timeouts (path s n p).rejects (path s n p).late)) := by
  have hc2 := bothDebts_client epoch (lt_of_occupied hv)
  have h2 := bothDebts_hands (n := n) epoch s
  have hlost2 := fun p => bothDebts_lost (p := p) (epoch := epoch) (lt_of_occupied hv)
  have heq : clientDebt epoch n s = joinIfLost (client s n) n .b (joinIfLost (client s n) n .a
      (queueIfChanged n (client s n) (evaluate n .path (bothDebts epoch n s)))) := rfl
  rw [heq]
  generalize bothDebts epoch n s = s2 at *
  have hv2 : (client s2 n).state = (client s n).state := by rw [hc2]
  have hfollows := evaluate_follows n .path s2 (by rw [hv2]; exact hv)
  have h3 : Hands s2 (evaluate n .path s2) := evaluate_hands (.refl s2)
  obtain ⟨st, hc3⟩ := evaluate_client n .path s2
  generalize evaluate n .path s2 = s3 at *
  have hpath3 (p : Port) : path s3 n p = debited (due s epoch n p) (path s n p) := by
    unfold path
    rw [hc3, hc2]
    cases p <;> rfl
  have h4 : Hands s3 (queueIfChanged n (client s n) s3) := queueIfChanged_hands (.refl s3)
  have hc4 := client_queueIfChanged (n := n) (before := client s n) s3 n
  have hq4 := @mem_queueIfChanged s3 n (client s n)
  generalize queueIfChanged n (client s n) s3 = s4 at *
  have h5 : Hands s4 (joinIfLost (client s n) n .a s4) := joinIfLost_hands (.refl s4)
  have h6 : Hands (joinIfLost (client s n) n .a s4) (joinIfLost (client s n) n .b (joinIfLost (client s n) n .a s4)) :=
    joinIfLost_hands (.refl _)
  have hclient : client (joinIfLost (client s n) n .b (joinIfLost (client s n) n .a s4)) n = client s3 n := by
    rw [client_joinIfLost, client_joinIfLost, hc4]
  refine ⟨stateFollows_grown hfollows hv2 h2.grows hclient (h4.trans (h5.trans h6)).grows, ⟨st, by rw [hclient, hc3, hc2]⟩,
    fun p hdue => ⟨(h5.trans h6).queue n (hq4 (Bool.eq_false_iff.2 fun hsame => ?_)), fun hlost => ?_⟩⟩
  · have hpath := samePath_of_sameMeasure hsame p
    have hsamed : samePath (path s3 n p) (path s n p) = true := hpath
    rw [hpath3, hdue] at hsamed
    exact absurd (samePath_owed (due_state hdue)) (by rw [show samePath (owed (path s n p)) (path s n p) = true from hsamed]; decide)
  · have hnow : (path s3 n p).state = .lost := by
      rw [hpath3, hdue]
      change (owed (path s n p)).state = _
      rw [(owed_state _).1 hlost]
    have hbefore : (atPort (client s n).paths p).state ≠ .lost := by
      change (path s n p).state ≠ .lost
      rcases due_state hdue with h | h <;> rw [h] <;> decide
    refine ⟨?_, (h3.trans (h4.trans (h5.trans h6))).grows.handedOn (hlost2 p hdue hlost)⟩
    cases p with
    | a => exact h6.roll _ _ (joinIfLost_joined (by unfold path; rw [hc4]; exact hnow) hbefore)
    | b => exact joinIfLost_joined (by unfold path; rw [client_joinIfLost, hc4]; exact hnow) hbefore

end
section
variable {s t : State} {n : Nat}

/-! ## The Ranging Engine's turn -/

/-- R107: a client with other last-expired tags. -/
def withExpired (a b : Option Byte) (c : Client) : Client :=
  { c with paths := ⟨{ c.paths.a with lastExpired := a }, { c.paths.b with lastExpired := b }⟩ }

theorem debited_expired (isDue : Bool) (e : Option Byte) (q : Path) :
    debited isDue { q with lastExpired := e } = { debited isDue q with lastExpired := e } := by
  unfold debited owed
  split_ifs <;> rfl

/-- R98, R107: the debts do not look at the last-expired tags. -/
theorem withExpired_debited (x y : Bool) (a b : Option Byte) (st : ClientState) (c : Client) :
    ({ withExpired a b c with state := st, paths := ⟨debited x (withExpired a b c).paths.a, debited y (withExpired a b c).paths.b⟩ } :
      Client) = withExpired a b { c with state := st, paths := ⟨debited x c.paths.a, debited y c.paths.b⟩ } := by
  unfold withExpired
  dsimp only
  rw [debited_expired x a c.paths.a, debited_expired y b c.paths.b]

theorem clearExpired_client (k : Nat) (p : Port) (s : State) :
    ∃ a b, client (clearExpired k p s) n = withExpired a b (client s n) := by
  obtain h | ⟨rfl, -, h⟩ := client_modClient_cases k n
    (fun c => { c with paths := modPort p (fun q => { q with lastExpired := none }) c.paths }) s
  · exact ⟨_, _, h⟩
  · cases p with
    | a => exact ⟨_, _, h⟩
    | b => exact ⟨_, _, h⟩

theorem voidPort_client (p : Port) (s : State) : ∃ a b, client (voidPort p s) n = withExpired a b (client s n) := by
  refine forEach_keeps (fun u => ∃ a b, client u n = withExpired a b (client s n)) (fun (e : Exchange) u => clearExpired e.slot p u) _
    (fun e _ u ⟨a, b, hu⟩ => ?_) s ⟨_, _, rfl⟩
  obtain ⟨a', b', h⟩ := clearExpired_client (n := n) e.slot p u
  exact ⟨a', b', by rw [h, hu]; rfl⟩

theorem rngStep_client (d : Int) (s : State) : ∃ a b, client (rngStep d s) n = withExpired a b (client s n) := by
  obtain ⟨a, b, h⟩ := voidPort_client (n := n) .a s
  obtain ⟨a', b', h'⟩ := voidPort_client (n := n) .b (voidPort .a s)
  exact ⟨a', b', h'.trans (by rw [h]; rfl)⟩

theorem rngStep_hands (d : Int) (s : State) : Hands s (rngStep d s) :=
  (voidPort_hands (voidPort_hands (.refl s))).same rfl rfl fun _ => rfl

/-- R98, R109: a client in the turn of the Ranging Engine. -/
theorem rngBoundary_client (r : Report) (hv : (client s n).state ≠ .vacant) :
    stateFollows n .path s (rngBoundary r s) ∧
    (∃ a b st, (r.step = none → a = (client s n).paths.a.lastExpired ∧ b = (client s n).paths.b.lastExpired) ∧
      client (rngBoundary r s) n = withExpired a b { client s n with state := st, paths :=
      ⟨debited (due s r.epoch n .a) (client s n).paths.a, debited (due s r.epoch n .b) (client s n).paths.b⟩ }) ∧
    ∀ p, due s r.epoch n p = true → n ∈ (rngBoundary r s).crs.queue ∧
      (8 ≤ (path s n p).debt → inRoll (rngBoundary r s) p n ∧
        handedOn s (rngBoundary r s) (.pathLost n p (client s n).config.addr (path s n p).delay
          (path s n p).timeouts (path s n p).rejects (path s n p).late)) := by
  obtain ⟨m, hm, a, b, hkept, hc, hsm⟩ : ∃ m, rngBoundary r s = refreshBoth (forEach (occupied m) (clientDebt r.epoch) m) ∧
      ∃ a b, (r.step = none → a = (client s n).paths.a.lastExpired ∧ b = (client s n).paths.b.lastExpired) ∧
        client m n = withExpired a b (client s n) ∧ Hands s m := by
    cases hr : r.step with
    | none => exact ⟨s, by rw [rngBoundary, hr], _, _, fun _ => ⟨rfl, rfl⟩, rfl, .refl s⟩
    | some d =>
      obtain ⟨a, b, h⟩ := rngStep_client (n := n) d s
      exact ⟨rngStep d s, by rw [rngBoundary, hr], a, b, nofun, h, rngStep_hands d s⟩
  rw [hm]
  have hmv : (client m n).state ≠ .vacant := by rw [hc]; exact hv
  obtain ⟨u, hu, ht⟩ := clients_around (fun k u => clientDebt_onSlot (n := k) r.epoch u) (fun k u => clientDebt_hands (.refl u)) hmv
  obtain ⟨hfollows, ⟨st, hst⟩, hdue⟩ := clientDebt_spec (s := u) r.epoch (by rw [hu.client]; exact hmv)
  generalize forEach (occupied m) (clientDebt r.epoch) m = w at *
  have hbefore := (hsm.trans hu.hands).grows
  have hafter : Grows (clientDebt r.epoch n u) (refreshBoth w) := (refreshBoth_hands ht.hands).grows
  have hcu : client u n = withExpired a b (client s n) := hu.client.trans hc
  have hpath (p : Port) : (path u n p).state = (path s n p).state ∧ (path u n p).debt = (path s n p).debt ∧
      (path u n p).delay = (path s n p).delay ∧ (path u n p).timeouts = (path s n p).timeouts ∧
      (path u n p).rejects = (path s n p).rejects ∧ (path u n p).late = (path s n p).late := by
    unfold path
    rw [hcu]
    cases p <;> exact ⟨rfl, rfl, rfl, rfl, rfl, rfl⟩
  have hsame (p : Port) : due u r.epoch n p = due s r.epoch n p := by
    unfold due
    dsimp only
    rw [(hpath p).1, hcu]; rfl
  refine ⟨stateFollows_grown hfollows (by rw [hcu]; rfl) hbefore ht.client hafter, ⟨a, b, st, hkept, ?_⟩, fun p hp => ?_⟩
  · refine ht.client.trans ?_
    rw [hst, hsame, hsame, hcu]
    exact withExpired_debited ..
  · obtain ⟨hq, hlost⟩ := hdue p (by rw [hsame]; exact hp)
    refine ⟨hafter.queue n hq, fun h8 => ?_⟩
    obtain ⟨hroll, hrecord⟩ := hlost (by rw [(hpath p).2.1]; exact h8)
    rw [(hpath p).2.2.1, (hpath p).2.2.2.1, (hpath p).2.2.2.2.1, (hpath p).2.2.2.2.2, hcu] at hrecord
    exact ⟨hafter.roll p n hroll, hafter.handedOn (hbefore.handedOn_before hrecord)⟩

theorem rngBoundary_vacant {r : Report} (hv : (client s n).state = .vacant) :
    ∃ a b, client (rngBoundary r s) n = withExpired a b (client s n) := by
  obtain ⟨m, hm, a, b, hc⟩ : ∃ m, rngBoundary r s = refreshBoth (forEach (occupied m) (clientDebt r.epoch) m) ∧
      ∃ a b, client m n = withExpired a b (client s n) := by
    cases hr : r.step with
    | none => exact ⟨s, by rw [rngBoundary, hr], _, _, rfl⟩
    | some d => exact ⟨rngStep d s, by rw [rngBoundary, hr], rngStep_client d s⟩
  rw [hm, client_refreshBoth]
  exact ⟨a, b, (clients_vacant (fun k u => clientDebt_onSlot (n := k) r.epoch u) (by rw [hc]; exact hv)).trans hc⟩

end
section
variable {s t : State} {n : Nat}

/-! ## The Beacon Unit's turn -/

theorem moveAnnounced_reset (d : Int) : moveAnnounced d Client.reset = Client.reset := rfl

/-- R131: a client in the turn of the Beacon Unit. -/
theorem bcuBoundary_crs (r : Report) (s : State) : (bcuBoundary r s).crs =
    { s.crs with clients := match r.step with | none => s.crs.clients | some d => s.crs.clients.map (moveAnnounced d) } := by
  unfold bcuBoundary
  have hannounce (u : State) (xs : List Nat) :
      (forEach xs (fun n s => announceBoundary r .b n (announceBoundary r .a n s)) u).crs = u.crs :=
    forEach_keeps (fun v => v.crs = u.crs) _ xs (fun k _ v hv => by simpa using hv) u rfl
  have hnotice (u : State) (xs : List Nat) : (forEach xs noticeEpoch u).crs = u.crs :=
    forEach_keeps (fun v => v.crs = u.crs) _ xs (fun k _ v hv => by simpa using hv) u rfl
  simp only [hnotice, hannounce, boundarySchedule_frame]
  cases r.step <;> rfl

theorem bcuBoundary_client (r : Report) (n : Nat) (s : State) :
    client (bcuBoundary r s) n = match r.step with | none => client s n | some d => moveAnnounced d (client s n) := by
  rw [client, bcuBoundary_crs]
  cases r.step with
  | none => rfl
  | some d =>
    change (s.crs.clients.map (moveAnnounced d)).getD n Client.reset = moveAnnounced d (s.crs.clients.getD n Client.reset)
    rw [List.getD_eq_getElem?_getD, List.getElem?_map, List.getD_eq_getElem?_getD]
    cases s.crs.clients[n]? <;> rfl

/-! ## What the other blocks leave of the debts -/

/-- Of a client, what the blocks other than the Ranging Engine leave: its configuration, whether it is present, and of its paths
all but the last announced times. -/
structure Owing (c d : Client) : Prop where
  config : d.config = c.config
  vacant : d.state = .vacant ↔ c.state = .vacant
  path : ∀ p, ∃ a, atPort d.paths p = { atPort c.paths p with announcedAt := a }

theorem Owing.refl (c : Client) : Owing c c := ⟨rfl, .rfl, fun _ => ⟨_, rfl⟩⟩

theorem Owing.trans {c d e : Client} (h : Owing c d) (k : Owing d e) : Owing c e where
  config := k.config.trans h.config
  vacant := k.vacant.trans h.vacant
  path p := by
    obtain ⟨a, ha⟩ := h.path p
    obtain ⟨b, hb⟩ := k.path p
    exact ⟨b, by rw [hb, ha]⟩

/-- What the blocks other than the Ranging Engine leave of the debts at a boundary; `plain`: without a step. -/
structure DebtStands (plain : Prop) (s t : State) : Prop where
  owing : ∀ n, Owing (client s n) (client t n)
  clients : plain → ∀ n, client t n = client s n
  length : t.crs.clients.length = s.crs.clients.length
  rng : t.rng = s.rng
  links : ∀ p, (link t p).state = (link s p).state ∧ (link t p).rangeReq = (link s p).rangeReq
  time : now t = now s
  grows : Grows s t

theorem DebtStands.refl (plain : Prop) (s : State) : DebtStands plain s s :=
  ⟨fun _ => .refl _, fun _ _ => rfl, rfl, rfl, fun _ => ⟨rfl, rfl⟩, rfl, .refl s⟩

theorem DebtStands.trans {plain : Prop} {u v w : State} (h : DebtStands plain u v) (k : DebtStands plain v w) : DebtStands plain u w where
  owing n := (h.owing n).trans (k.owing n)
  clients hp n := (k.clients hp n).trans (h.clients hp n)
  length := k.length.trans h.length
  rng := k.rng.trans h.rng
  links p := ⟨(k.links p).1.trans (h.links p).1, (k.links p).2.trans (h.links p).2⟩
  time := k.time.trans h.time
  grows := h.grows.trans k.grows

/-- A turn that leaves roster, ranging and links. -/
theorem DebtStands.of_frame {plain : Prop} (hcrs : t.crs = s.crs) (hrng : t.rng = s.rng)
    (hlink : ∀ p, (link t p).state = (link s p).state ∧ (link t p).rangeReq = (link s p).rangeReq) (htime : now t = now s)
    (hg : Grows s t) : DebtStands plain s t where
  owing n := by rw [client, client, hcrs]; exact .refl _
  clients _ n := by rw [client, client, hcrs]
  length := by rw [hcrs]
  rng := hrng
  links := hlink
  time := htime
  grows := hg

theorem crsStep_length (d : Int) (s : State) : (crsStep d s).crs.clients.length = s.crs.clients.length :=
  forEach_keeps (fun u => u.crs.clients.length = s.crs.clients.length) stepClient _
    (fun k _ u hu => (stepClient_onSlot k u).length.trans hu) _ rfl

theorem crsBoundary_length (r : Report) (s : State) : (crsBoundary r s).crs.clients.length = s.crs.clients.length := by
  cases hr : r.step with
  | none => rw [crsBoundary_plain hr]; rfl
  | some d => rw [crsBoundary, hr]; exact crsStep_length d s

theorem crsBoundary_owing (r : Report) (n : Nat) (s : State) : Owing (client s n) (client (crsBoundary r s) n) := by
  by_cases hv : (client s n).state = .vacant
  · rw [crsBoundary_vacant hv]; exact .refl _
  cases hr : r.step with
  | none => rw [crsBoundary_plain hr]; exact .refl _
  | some d =>
    obtain ⟨⟨htable, -⟩, st, hst⟩ := crsBoundary_client hr hv
    have hnow : (client (crsBoundary r s) n).state ≠ .vacant := by
      rw [htable, ← derivedState_eq]; exact derivedState_ne_vacant _
    rw [hst] at hnow ⊢
    exact ⟨rfl, iff_of_false hnow hv, fun _ => ⟨_, rfl⟩⟩

theorem blockBoundary_debtStands {r : Report} {b : Block} (hb : b ≠ .rng) (s : State) :
    DebtStands (r.step = none) s (blockBoundary r b s) := by
  have hg : Grows s (blockBoundary r b s) := blockBoundary_grows (.refl s)
  cases b
  case rng => exact absurd rfl hb
  case tbs =>
    refine .of_frame (by simp [blockBoundary]) (by simp [blockBoundary]) (fun p => by simp [blockBoundary, link]) ?_ hg
    obtain ⟨offset, leap, h⟩ := tbsBoundary_tbs r s
    simp [now, blockBoundary, h, Timebase.now]
  case crs =>
    exact {
      owing := fun n => crsBoundary_owing r n s
      clients := fun hr n => by rw [blockBoundary, crsBoundary_plain hr]; rfl
      length := crsBoundary_length r s
      rng := by simp [blockBoundary]
      links := fun p => by simp [blockBoundary, link]
      time := by simp [blockBoundary, now]
      grows := hg }
  case bcu =>
    exact {
      owing := fun n => by
        rw [blockBoundary, bcuBoundary_client]
        split
        · exact .refl _
        · exact ⟨rfl, .rfl, fun p => by cases p <;> exact ⟨_, rfl⟩⟩
      clients := fun hr n => by rw [blockBoundary, bcuBoundary_client, hr]
      length := by
        rw [blockBoundary, bcuBoundary_crs]
        dsimp only
        split <;> simp
      rng := by simp [blockBoundary]
      links := fun p => by simp [blockBoundary, link]
      time := by simp [blockBoundary, now]
      grows := hg }
  case evc =>
    exact .of_frame (evcBoundary_clients r s).1 (by simp [blockBoundary]) (fun p => by simp [blockBoundary, link])
      (by simp [blockBoundary, now]) hg
  case lnk =>
    refine .of_frame (by simp [blockBoundary]) (by simp [blockBoundary]) (fun p => ?_) (by simp [blockBoundary, now]) hg
    simp only [blockBoundary, lnkBoundary]
    split
    · exact ⟨rfl, rfl⟩
    · cases p <;> exact ⟨rfl, rfl⟩
  case rfi =>
    cases hr : r.step with
    | none => rw [blockBoundary, hr]; exact .refl _ s
    | some d =>
      refine .of_frame ?_ ?_ (fun p => ?_) ?_ hg <;> simp [blockBoundary, hr, now, link]
  case dsv =>
    exact .of_frame (by simp [blockBoundary]) (by simp [blockBoundary]) (fun p => by simp [blockBoundary, link])
      (by rw [now, now, blockBoundary, dsvBoundary_tbs]) hg
  all_goals
    exact .of_frame (by simp [blockBoundary]) (by simp [blockBoundary]) (fun p => by simp [blockBoundary, link])
      (by simp [blockBoundary, now]) hg

/-! ## The obligation -/

theorem Owing.debt_eq {c d : Client} (h : Owing c d) (p : Port) : (atPort d.paths p).debt = (atPort c.paths p).debt := by
  obtain ⟨a, ha⟩ := h.path p
  rw [ha]

/-- R100: whether a launch is permitted stands where the debts do. -/
theorem DebtStands.launchHolds {plain : Prop} {u v : State} (h : DebtStands plain u v) (p : Port) :
    Machine.launchHolds v p ↔ Machine.launchHolds u p := by
  have hrange : rangePort v p = rangePort u p := by rw [rangePort, h.rng]; rfl
  have hwants (n : Nat) : wantsLaunch v p n ↔ wantsLaunch u p n := by
    have howing := h.owing n
    have hdebt : (path v n p).debt = (path u n p).debt := (h.owing n).debt_eq p
    rw [wantsLaunch, wantsLaunch, h.length, Ne, Ne, howing.vacant, hdebt, hrange, (h.links p).1]
  rw [Machine.launchHolds, Machine.launchHolds, windowHasRoom, windowHasRoom, hrange, h.rng, h.time]
  simp only [hwants]

/-- What an epoch makes of a path that is due there or not, in what the debts look at. -/
def debtAfter (isDue : Bool) (q after : Path) : Prop :=
  after.state = (debited isDue q).state ∧ after.debt = (debited isDue q).debt ∧ after.urgent = (debited isDue q).urgent

/-- R98: what a boundary makes of a path, the other blocks before and after the turn of the Ranging Engine. -/
theorem path_debited {r : Report} {u w : State} {plain : Prop} (hu : DebtStands plain s u)
    (hw : DebtStands plain (rngBoundary r u) w) (n : Nat) (p : Port) :
    debtAfter (decide ((client s n).state ≠ .vacant) && due s r.epoch n p) (path s n p) (path w n p) := by
  obtain ⟨a, ha⟩ := (hw.owing n).path p
  obtain ⟨b, hb⟩ := (hu.owing n).path p
  have hpathu : path u n p = { path s n p with announcedAt := b } := hb
  have hpathw : path w n p = { path (rngBoundary r u) n p with announcedAt := a } := ha
  rw [hpathw]
  by_cases hvac : (client s n).state = .vacant
  · obtain ⟨x, y, h⟩ := rngBoundary_vacant (r := r) ((hu.owing n).vacant.2 hvac)
    have hpath : ∃ e, path (rngBoundary r u) n p = { path u n p with lastExpired := e } := by
      unfold path
      rw [h]
      cases p <;> exact ⟨_, rfl⟩
    obtain ⟨e, he⟩ := hpath
    rw [he, hpathu, decide_eq_false (by simpa using hvac)]
    exact ⟨rfl, rfl, rfl⟩
  · obtain ⟨-, ⟨x, y, st, -, h⟩, -⟩ := rngBoundary_client r (s := u) (n := n) fun hv => hvac ((hu.owing n).vacant.1 hv)
    have hpath : ∃ e, path (rngBoundary r u) n p = { debited (due u r.epoch n p) (path u n p) with lastExpired := e } := by
      unfold path
      rw [h]
      cases p <;> exact ⟨_, rfl⟩
    have hdue : due u r.epoch n p = due s r.epoch n p := by
      unfold due
      rw [hpathu, (hu.owing n).config]
    obtain ⟨e, he⟩ := hpath
    rw [he, hpathu, hdue, decide_eq_true hvac, Bool.true_and]
    unfold debtAfter debited owed
    dsimp only
    split_ifs <;> exact ⟨rfl, rfl, rfl⟩

/-- Settles O47: the Ranging Engine's turn, around which the other blocks leave the debts. -/
theorem boundaryGrowsDebt : Obligations.BoundaryGrowsDebt := by
  intro s blocks hok hb
  obtain ⟨u, hu, ht⟩ := boundary_around (DebtStands.refl (s.tbs.report.step = none)) DebtStands.trans .rng blocks s
    fun b hb v => blockBoundary_debtStands hb v
  rw [blockBoundary] at ht
  have hgu : Grows s u := (ticked_grows s).trans hu.grows
  refine ⟨_, exec_boundary hb, fun hd n hv => ?_, fun port => ?_, fun n port => ?_⟩
  · have hplain := (report_step_none_iff s).2 hd
    have hc : client u n = client s n := hu.clients hplain n
    obtain ⟨hfollows, -⟩ := rngBoundary_client s.tbs.report (s := u) (by rw [hc]; exact hv)
    exact stateFollows_grown hfollows (by rw [hc]) hgu (ht.clients hplain n) ht.grows
  · rw [(ht.links port).2, ht.launchHolds]
    exact (refreshBoth_fresh _ port).req
  · intro q after due'
    have hafter : debtAfter (decide ((client s n).state ≠ .vacant) && due s s.tbs.report.epoch n port) q after :=
      path_debited hu ht n port
    have hdue : due' ↔ (decide ((client s n).state ≠ .vacant) && due s s.tbs.report.epoch n port) = true := by
      simp only [due', q, due, report_epoch, nextSec_eq hok hb, Bool.and_eq_true, Bool.or_eq_true, beq_iff_eq, decide_eq_true_eq]
    have hworked (hyes : due') : n ∈ (boundary blocks s).crs.queue ∧ (8 ≤ q.debt → inRoll (boundary blocks s) port n ∧
        handedOn s (boundary blocks s) (.pathLost n port (client s n).config.addr q.delay q.timeouts q.rejects q.late)) := by
      have howing := hu.owing n
      obtain ⟨b, hpath⟩ := howing.path port
      have hpath : path u n port = { path s n port with announcedAt := b } := hpath
      have hdueu : due u s.tbs.report.epoch n port = true := by
        have : due u s.tbs.report.epoch n port = due s s.tbs.report.epoch n port := by
          unfold due
          rw [hpath, howing.config]; rfl
        rw [this]
        exact (Bool.and_eq_true_iff.1 (hdue.1 hyes)).2
      obtain ⟨-, -, h⟩ := rngBoundary_client s.tbs.report (s := u) (n := n) fun hv => hyes.1 (howing.vacant.1 hv)
      obtain ⟨hqueue, hlost⟩ := h port hdueu
      refine ⟨ht.grows.queue n hqueue, fun h8 => ?_⟩
      obtain ⟨hroll, hrecord⟩ := hlost (by rw [hpath]; exact h8)
      rw [hpath, howing.config] at hrecord
      exact ⟨ht.grows.roll port n hroll, ht.grows.handedOn (hgu.handedOn_before hrecord)⟩
    refine ⟨fun hno => ?_, fun hyes hlow => ?_, fun hyes hhigh => ?_⟩
    · rw [Bool.eq_false_iff.2 fun h => hno (hdue.2 h)] at hafter
      exact hafter
    · obtain ⟨hs, hd, hg⟩ := hafter
      rw [hdue.1 hyes] at hs hd hg
      have howed : debited true q = { q with debt := q.debt + 1 } := (owed_state q).2 hlow
      rw [howed] at hs hd hg
      exact ⟨hs, hd, hg, (hworked hyes).1⟩
    · obtain ⟨hs, hd, hg⟩ := hafter
      rw [hdue.1 hyes] at hs hd hg
      have howed : debited true q = { q with debt := 9, state := .lost, urgent := false } := (owed_state q).1 hhigh
      rw [howed] at hs hd hg
      obtain ⟨hqueued, hlost⟩ := hworked hyes
      exact ⟨hs, hd, hg, hqueued, hlost hhigh⟩

end
end Sys2Proof.Machine

/-! What ages and what is scheduled at a second boundary (O48, O49). -/

namespace Sys2Proof.Machine

section
variable {s₀ s t : State} {n : Nat}

/-! ## What the blocks leave of schedules, notices and newcomers -/

/-- From `s` to `t` the Beacon schedules, the notice blocks and the newcomer list stand. -/
structure ListsStand (s t : State) : Prop where
  schedule : ∀ p, (beaconPort t p).next = (beaconPort s p).next ∧ (beaconPort t p).rate = (beaconPort s p).rate ∧
    (beaconPort t p).pendingRate = (beaconPort s p).pendingRate
  notices : t.bcu.notices = s.bcu.notices
  newcomers : t.crs.newcomers = s.crs.newcomers ∧ t.crs.overflow = s.crs.overflow

theorem ListsStand.refl (s : State) : ListsStand s s := ⟨fun _ => ⟨rfl, rfl, rfl⟩, rfl, rfl, rfl⟩

theorem ListsStand.trans {u : State} (h : ListsStand s t) (k : ListsStand t u) : ListsStand s u where
  schedule p :=
    have ⟨hn, hr, hp⟩ := h.schedule p
    have ⟨kn, kr, kp⟩ := k.schedule p
    ⟨kn.trans hn, kr.trans hr, kp.trans hp⟩
  notices := k.notices.trans h.notices
  newcomers := ⟨k.newcomers.1.trans h.newcomers.1, k.newcomers.2.trans h.newcomers.2⟩

/-- A change that leaves the Beacon Unit and the two lists of the Roster. -/
theorem ListsStand.same (h : ListsStand s₀ s) (hb : t.bcu = s.bcu)
    (hn : t.crs.newcomers = s.crs.newcomers ∧ t.crs.overflow = s.crs.overflow) : ListsStand s₀ t :=
  h.trans ⟨fun p => by rw [beaconPort, hb]; exact ⟨rfl, rfl, rfl⟩, by rw [hb], hn⟩

theorem stage_lists {body : JournalBody} (h : ListsStand s₀ s) : ListsStand s₀ (stage body s) :=
  h.same (by simp) (by simp)

theorem queuePub_lists (h : ListsStand s₀ s) : ListsStand s₀ (queuePub n s) := h.same rfl ⟨rfl, rfl⟩

theorem queueIfChanged_lists {before : Client} (h : ListsStand s₀ s) : ListsStand s₀ (queueIfChanged n before s) := by
  obtain ⟨-, e⟩ | ⟨-, e⟩ := queueIfChanged_cases n before s <;> rw [e]
  · exact h
  · exact queuePub_lists h

theorem modClient_lists {f : Client → Client} (h : ListsStand s₀ s) : ListsStand s₀ (modClient n f s) := h.same rfl ⟨rfl, rfl⟩

theorem joinRoll_lists {p : Port} (h : ListsStand s₀ s) : ListsStand s₀ (joinRoll p n s) := by
  refine h.trans ⟨fun q => ?_, rfl, rfl, rfl⟩
  by_cases hq : q = p
  · subst hq
    rw [joinRoll, beaconPort_modBeacon]
    exact ⟨rfl, rfl, rfl⟩
  · rw [joinRoll_other hq]
    exact ⟨rfl, rfl, rfl⟩

theorem changeState_lists {st : ClientState} {cause : ClientCause} (h : ListsStand s₀ s) :
    ListsStand s₀ (changeState n st cause s) := by
  have hpub (body : JournalBody) : ListsStand s₀ (queuePub n (stage body (modClient n (fun c => { c with state := st }) s))) :=
    queuePub_lists (stage_lists (modClient_lists h))
  unfold changeState
  dsimp only
  split
  · exact hpub _
  · split <;> split
    · exact joinRoll_lists (joinRoll_lists (hpub _))
    · exact joinRoll_lists (hpub _)
    · exact joinRoll_lists (hpub _)
    · exact hpub _

theorem evaluate_lists {cause : ClientCause} (h : ListsStand s₀ s) : ListsStand s₀ (evaluate n cause s) := by
  obtain e | ⟨-, -, e⟩ := evaluate_cases n cause s <;> rw [e]
  · exact h
  · exact changeState_lists h

theorem closeGate_lists {cause : GateCause} (h : ListsStand s₀ s) : ListsStand s₀ (closeGate cause s) := by
  unfold closeGate
  split
  · exact stage_lists (h.same rfl ⟨rfl, rfl⟩)
  · exact h

theorem changeClass_lists {new : Nat} (h : ListsStand s₀ s) : ListsStand s₀ (changeClass new s) := by
  have hcopied : ListsStand s₀ (modBcu (fun b => { b with cls := new })
      (raiseCause .cls (stage (.classChange s.dsv.cls new s.dsv.state s.dsv.eps)
        (modDsv (fun d => { d with cls := new }) s)))) :=
    (stage_lists (h.same (t := modDsv (fun d => { d with cls := new }) s) rfl ⟨rfl, rfl⟩)).trans
      ⟨fun p => by cases p <;> exact ⟨rfl, rfl, rfl⟩, rfl, rfl, rfl⟩
  unfold changeClass pouClass
  dsimp only
  split
  · exact closeGate_lists (hcopied.same rfl ⟨rfl, rfl⟩)
  · exact hcopied.same rfl ⟨rfl, rfl⟩

theorem applyCandidate_lists {cand : Nat} (h : ListsStand s₀ s) : ListsStand s₀ (applyCandidate cand s) := by
  have hdwell (d : Nat) : ListsStand s₀ (modDsv (fun x => { x with dwell := d }) s) := h.same rfl ⟨rfl, rfl⟩
  unfold applyCandidate
  split
  · exact changeClass_lists (hdwell 0)
  · split
    · exact hdwell 0
    · split
      · exact changeClass_lists (hdwell 0)
      · exact hdwell _

theorem evaluateClass_lists (h : ListsStand s₀ s) : ListsStand s₀ (evaluateClass s) := by
  unfold evaluateClass
  split
  · exact applyCandidate_lists h
  · exact applyCandidate_lists h
  · exact applyCandidate_lists (h.same rfl ⟨rfl, rfl⟩)
  · exact applyCandidate_lists (h.same rfl ⟨rfl, rfl⟩)

theorem enterServo_lists {new : ServoState} {cause : ServoCause} (h : ListsStand s₀ s) : ListsStand s₀ (enterServo new cause s) := by
  unfold enterServo
  dsimp only
  split
  · exact evaluateClass_lists (stage_lists (h.same rfl ⟨rfl, rfl⟩))
  · exact evaluateClass_lists (stage_lists (h.same rfl ⟨rfl, rfl⟩))

theorem dsvBoundary_lists (s : State) : ListsStand s (dsvBoundary s) := by
  have h := ListsStand.refl s
  unfold dsvBoundary
  dsimp only
  split
  · split
    · exact enterServo_lists (h.same rfl ⟨rfl, rfl⟩)
    · exact evaluateClass_lists (h.same rfl ⟨rfl, rfl⟩)
  · exact evaluateClass_lists (h.same rfl ⟨rfl, rfl⟩)

theorem addDebt_lists {epoch : Nat} {p : Port} (h : ListsStand s₀ s) : ListsStand s₀ (addDebt epoch n p s) := by
  unfold addDebt
  split
  · dsimp only
    split
    · exact stage_lists (h.same rfl ⟨rfl, rfl⟩)
    · exact h.same rfl ⟨rfl, rfl⟩
  · exact h

theorem joinIfLost_lists {before : Client} {p : Port} (h : ListsStand s₀ s) : ListsStand s₀ (joinIfLost before n p s) := by
  unfold joinIfLost
  split
  · exact joinRoll_lists h
  · exact h

theorem clientDebt_lists {epoch : Nat} (h : ListsStand s₀ s) : ListsStand s₀ (clientDebt epoch n s) :=
  joinIfLost_lists (joinIfLost_lists (queueIfChanged_lists (evaluate_lists (addDebt_lists (addDebt_lists h)))))

theorem voidPort_lists {p : Port} (h : ListsStand s₀ s) : ListsStand s₀ (voidPort p s) :=
  (forEach_keeps (ListsStand s₀) (fun (e : Exchange) u => clearExpired e.slot p u) _
    (fun _ _ _ hu => hu.same rfl ⟨rfl, rfl⟩) s h).same rfl ⟨rfl, rfl⟩

theorem refreshBoth_lists (h : ListsStand s₀ s) : ListsStand s₀ (refreshBoth s) := h.same rfl ⟨rfl, rfl⟩

theorem rngBoundary_lists (r : Report) (s : State) : ListsStand s (rngBoundary r s) := by
  have hrun (m : State) (hm : ListsStand s m) : ListsStand s (refreshBoth (forEach (occupied m) (clientDebt r.epoch) m)) :=
    refreshBoth_lists (forEach_keeps (ListsStand s) _ _ (fun _ _ _ hu => clientDebt_lists hu) m hm)
  unfold rngBoundary
  split
  · exact hrun s (.refl s)
  · exact hrun _ ((voidPort_lists (voidPort_lists (.refl s))).same rfl ⟨rfl, rfl⟩)

theorem crsClients_lists (xs : List Nat) (s : State) : ListsStand s (forEach xs stepClient s) :=
  forEach_keeps (ListsStand s) stepClient xs (fun _ _ _ hu => queueIfChanged_lists (evaluate_lists (modClient_lists hu))) s (.refl s)

/-! ## The turn of the Roster -/

/-- R91: a held instant as a boundary moves it. -/
def heldAt (r : Report) (u : Nat) : Nat := match r.step with | none => u | some d => moveBy d u

/-- R91: the newcomers of a boundary: moved with a step, and dropped after 60 s. -/
theorem crsBoundary_newcomers (r : Report) (s : State) :
    (crsBoundary r s).crs.newcomers = (s.crs.newcomers.map (fun e => { e with heard := heldAt r e.heard })).filter
      (fun e => decide (r.instant < e.heard + 960000000000)) ∧
    (crsBoundary r s).crs.overflow = s.crs.overflow ∧
    (crsBoundary r s).bcu.notices = s.bcu.notices ∧ ∀ p, (beaconPort (crsBoundary r s) p).next = (beaconPort s p).next ∧
      (beaconPort (crsBoundary r s) p).rate = (beaconPort s p).rate ∧
      (beaconPort (crsBoundary r s) p).pendingRate = (beaconPort s p).pendingRate := by
  unfold heldAt
  cases hr : r.step with
  | none =>
    rw [crsBoundary_plain hr]
    exact ⟨by simp [ageNewcomers, modCrs], rfl, rfl, fun p => ⟨rfl, rfl, rfl⟩⟩
  | some d =>
    have heq : crsBoundary r s = ageNewcomers r (crsStep d s) := by rw [crsBoundary, hr]
    let m := modCrs (fun r => { r with newcomers := r.newcomers.map (fun e => { e with heard := moveBy d e.heard }) }) s
    have hrun : ListsStand m (crsStep d s) := crsClients_lists (occupied s) m
    obtain ⟨hnew, hover⟩ := hrun.newcomers
    rw [heq]
    refine ⟨?_, hover, hrun.notices, hrun.schedule⟩
    change (crsStep d s).crs.newcomers.filter _ = _
    rw [hnew]; rfl

end
section
variable {s₀ s t : State} {n : Nat}

/-! ## The other blocks -/

theorem blockBoundary_lists {r : Report} {b : Block} (hcrs : b ≠ .crs) (hbcu : b ≠ .bcu) (s : State) :
    ListsStand s (blockBoundary r b s) := by
  cases b
  case crs => exact absurd rfl hcrs
  case bcu => exact absurd rfl hbcu
  case dsv => exact dsvBoundary_lists s
  case rng => exact rngBoundary_lists r s
  case evc =>
    obtain ⟨hc, hb⟩ := evcBoundary_clients r s
    exact (ListsStand.refl s).same hb (by rw [show (blockBoundary r .evc s).crs = s.crs from hc]; exact ⟨rfl, rfl⟩)
  case rfi =>
    cases hr : r.step with
    | none => rw [blockBoundary, hr]; exact .refl s
    | some d => exact (ListsStand.refl s).same (by simp [blockBoundary, hr]) (by simp [blockBoundary, hr])
  all_goals exact (ListsStand.refl s).same (by simp [blockBoundary]) (by simp [blockBoundary])

/-- The newcomers of a boundary. -/
theorem boundary_newcomers (blocks : List Block) (s : State) :
    (boundary blocks s).crs.newcomers = (s.crs.newcomers.map (fun e => { e with heard := heldAt s.tbs.report e.heard })).filter
      (fun e => decide (s.tbs.report.instant < e.heard + 960000000000)) ∧
    (boundary blocks s).crs.overflow = s.crs.overflow := by
  obtain ⟨u, ⟨hun, huo⟩, htn, hto⟩ := boundary_around
    (R := fun u v => v.crs.newcomers = u.crs.newcomers ∧ v.crs.overflow = u.crs.overflow)
    (fun _ => ⟨rfl, rfl⟩) (fun h k => ⟨k.1.trans h.1, k.2.trans h.2⟩) .crs blocks s fun b hb v => by
      by_cases hbcu : b = .bcu
      · subst hbcu
        rw [blockBoundary, bcuBoundary_crs]
        exact ⟨rfl, rfl⟩
      · exact (blockBoundary_lists hb hbcu v).newcomers
  obtain ⟨hnew, hover, -⟩ := crsBoundary_newcomers s.tbs.report u
  exact ⟨htn.trans (hnew.trans (by rw [hun]; rfl)), hto.trans (hover.trans huo)⟩

/-! ## The turn of the Beacon Unit -/

/-- Of a client, what the blocks other than the Beacon Unit leave: a path that is VALID after them was before. -/
structure Announcing (c d : Client) : Prop where
  config : d.config = c.config
  vacant : d.state = .vacant ↔ c.state = .vacant
  path : ∀ p, ((atPort d.paths p).state = .valid → (atPort c.paths p).state = .valid) ∧
    (atPort d.paths p).announcedAt = (atPort c.paths p).announcedAt

theorem Announcing.refl (c : Client) : Announcing c c := ⟨rfl, .rfl, fun _ => ⟨id, rfl⟩⟩

theorem Announcing.trans {c d e : Client} (h : Announcing c d) (k : Announcing d e) : Announcing c e :=
  ⟨k.config.trans h.config, k.vacant.trans h.vacant,
    fun p => ⟨(h.path p).1 ∘ (k.path p).1, (k.path p).2.trans (h.path p).2⟩⟩

/-- What the other blocks leave for the Beacon Unit at a boundary. -/
structure BeaconStands (s t : State) : Prop where
  clients : ∀ n, Announcing (client s n) (client t n)
  schedule : ∀ p, (beaconPort t p).next = (beaconPort s p).next ∧ (beaconPort t p).rate = (beaconPort s p).rate ∧
    (beaconPort t p).pendingRate = (beaconPort s p).pendingRate
  notices : t.bcu.notices = s.bcu.notices
  links : ∀ p, (link t p).state = (link s p).state
  time : t.tbs.time = s.tbs.time
  grows : Grows s t

theorem BeaconStands.refl (s : State) : BeaconStands s s :=
  ⟨fun _ => .refl _, fun _ => ⟨rfl, rfl, rfl⟩, rfl, fun _ => rfl, rfl, .refl s⟩

theorem BeaconStands.trans {u : State} (h : BeaconStands s t) (k : BeaconStands t u) : BeaconStands s u where
  clients n := (h.clients n).trans (k.clients n)
  schedule p :=
    have ⟨hn, hr, hp⟩ := h.schedule p
    have ⟨kn, kr, kp⟩ := k.schedule p
    ⟨kn.trans hn, kr.trans hr, kp.trans hp⟩
  notices := k.notices.trans h.notices
  links p := (k.links p).trans (h.links p)
  time := k.time.trans h.time
  grows := h.grows.trans k.grows

theorem crsBoundary_announcing (r : Report) (n : Nat) (s : State) : Announcing (client s n) (client (crsBoundary r s) n) := by
  have howing := crsBoundary_owing r n s
  refine ⟨howing.config, howing.vacant, fun p => ?_⟩
  by_cases hv : (client s n).state = .vacant
  · rw [crsBoundary_vacant hv]; exact ⟨id, rfl⟩
  cases hr : r.step with
  | none => rw [crsBoundary_plain hr]; exact ⟨id, rfl⟩
  | some d =>
    obtain ⟨-, st, hst⟩ := crsBoundary_client hr hv
    rw [hst]; exact ⟨id, rfl⟩

theorem debited_announcing (isDue : Bool) (q : Path) : ((debited isDue q).state = .valid → q.state = .valid) ∧
    (debited isDue q).announcedAt = q.announcedAt := by
  unfold debited owed
  split_ifs
  · exact ⟨nofun, rfl⟩
  · exact ⟨id, rfl⟩
  · exact ⟨id, rfl⟩

theorem rngBoundary_announcing (r : Report) (n : Nat) (s : State) : Announcing (client s n) (client (rngBoundary r s) n) := by
  by_cases hv : (client s n).state = .vacant
  · obtain ⟨a, b, h⟩ := rngBoundary_vacant (r := r) hv
    rw [h]
    exact ⟨rfl, .rfl, fun p => by cases p <;> exact ⟨id, rfl⟩⟩
  obtain ⟨⟨htable, -⟩, ⟨a, b, st, -, h⟩, -⟩ := rngBoundary_client r hv
  have hnow : (client (rngBoundary r s) n).state ≠ .vacant := by
    rw [htable, ← derivedState_eq]; exact derivedState_ne_vacant _
  refine ⟨by rw [h]; rfl, iff_of_false hnow hv, fun p => ?_⟩
  rw [h]
  cases p
  · exact debited_announcing _ (client s n).paths.a
  · exact debited_announcing _ (client s n).paths.b

/-- R100: of a link the Ranging Engine writes the Range request alone. -/
theorem rngBoundary_link (r : Report) (p : Port) (s : State) :
    link (rngBoundary r s) p = { link s p with rangeReq := (link (rngBoundary r s) p).rangeReq } := by
  have hrun (m : State) (hm : m.lnk = s.lnk) : link (refreshBoth (forEach (occupied m) (clientDebt r.epoch) m)) p =
      { link s p with rangeReq := (link (refreshBoth (forEach (occupied m) (clientDebt r.epoch) m)) p).rangeReq } := by
    have hlink : link (forEach (occupied m) (clientDebt r.epoch) m) p = link s p :=
      congrArg (atPort · p) (forEach_keeps (fun u => u.lnk = s.lnk) _ _ (fun _ _ u hu => by simpa using hu) m hm)
    rw [← hlink]
    exact (refreshBoth_rest _ p).2
  unfold rngBoundary
  split
  · exact hrun s rfl
  · exact hrun _ (by simp)

theorem blockBoundary_beaconStands {r : Report} {b : Block} (hb : b ≠ .bcu) (s : State) : BeaconStands s (blockBoundary r b s) := by
  have hlinks (p : Port) : (link (blockBoundary r b s) p).state = (link s p).state := by
    by_cases hrng : b = .rng
    · subst hrng; rw [blockBoundary, rngBoundary_link]
    · exact ((blockBoundary_debtStands hrng s).links p).1
  have htime : (blockBoundary r b s).tbs.time = s.tbs.time := by
    by_cases htbs : b = .tbs
    · subst htbs
      obtain ⟨offset, leap, h⟩ := tbsBoundary_tbs r s
      simp [blockBoundary, h]
    · rw [blockBoundary_tbs htbs]
  have hg : Grows s (blockBoundary r b s) := blockBoundary_grows (.refl s)
  by_cases hcrs : b = .crs
  · subst hcrs
    obtain ⟨-, -, hnotices, hschedule⟩ := crsBoundary_newcomers r s
    exact ⟨fun n => crsBoundary_announcing r n s, hschedule, hnotices, hlinks, htime, hg⟩
  have hlists := blockBoundary_lists (r := r) hcrs hb s
  refine ⟨fun n => ?_, hlists.schedule, hlists.notices, hlinks, htime, hg⟩
  by_cases hrng : b = .rng
  · subst hrng; exact rngBoundary_announcing r n s
  · have hcrs : (blockBoundary r b s).crs = s.crs := by
      cases b
      case crs => exact absurd rfl hcrs
      case bcu => exact absurd rfl hb
      case rng => exact absurd rfl hrng
      case evc => exact (evcBoundary_clients r s).1
      case rfi => cases hr : r.step <;> simp [blockBoundary, hr]
      all_goals simp [blockBoundary]
    rw [client, client, hcrs]
    exact .refl _


/-! ### Its own turn -/

/-- R131: the announcements of one client. -/
def announceClient (r : Report) (n : Nat) (s : State) : State := announceBoundary r .b n (announceBoundary r .a n s)

/-- The Beacon Unit at a boundary with its schedules set. -/
def scheduled (r : Report) (s : State) : State :=
  boundarySchedule r .b (boundarySchedule r .a (match r.step with
    | none => s
    | some d => modCrs (fun c => { c with clients := c.clients.map (moveAnnounced d) }) s))

theorem bcuBoundary_eq (r : Report) (s : State) : bcuBoundary r s =
    forEach (List.range 8) noticeEpoch (forEach (occupied (scheduled r s)) (announceClient r) (scheduled r s)) := rfl

theorem announceBoundary_lists {r : Report} {p : Port} (h : ListsStand s₀ s) : ListsStand s₀ (announceBoundary r p n s) := by
  unfold announceBoundary
  split
  · exact joinRoll_lists h
  · exact h

theorem noticeEpoch_schedule (i : Nat) (p : Port) (s : State) :
    (beaconPort (noticeEpoch i s) p).next = (beaconPort s p).next ∧ (beaconPort (noticeEpoch i s) p).rate = (beaconPort s p).rate ∧
    (beaconPort (noticeEpoch i s) p).pendingRate = (beaconPort s p).pendingRate := by
  have hfree (n : Notice) : (freeNotice i n .epoch s).bcu = (putNotice i none s).bcu := by simp [freeNotice]
  unfold noticeEpoch
  (repeat' split) <;> first
    | exact ⟨rfl, rfl, rfl⟩
    | (rw [beaconPort, hfree]; cases p <;> exact ⟨rfl, rfl, rfl⟩)

/-- R124, R126, R127: what a boundary makes of a port's schedule. -/
def rescheduled (r : Report) (s : State) (p : Port) : BeaconPort :=
  if (link s p).state = .up then scheduleAt r (beaconPort s p) else beaconPort s p

theorem scheduled_port (r : Report) (p : Port) (s : State) : beaconPort (scheduled r s) p = rescheduled r s p := by
  have hone (q : Port) (u : State) : beaconPort (boundarySchedule r q u) p =
      if q = p then rescheduled r u p else beaconPort u p := by
    unfold boundarySchedule rescheduled
    by_cases hq : q = p
    · subst hq
      rw [if_pos rfl]
      split
      · rw [beaconPort_modBeacon]
      · rfl
    · rw [if_neg hq]
      split
      · rw [beaconPort_modBeacon_ne (Ne.symm hq)]
      · rfl
  unfold scheduled
  rw [hone]
  have hlink (q : Port) (u : State) : link (boundarySchedule r q u) = link u := by funext x; simp [link]
  cases r.step <;> cases p <;> simp [rescheduled, hone, hlink] <;> rfl

/-- R124, R126, R127: the schedules in the turn of the Beacon Unit. -/
theorem bcuBoundary_schedule (r : Report) (p : Port) (s : State) :
    (beaconPort (bcuBoundary r s) p).next = (rescheduled r s p).next ∧
    (beaconPort (bcuBoundary r s) p).rate = (rescheduled r s p).rate ∧
    (beaconPort (bcuBoundary r s) p).pendingRate = (rescheduled r s p).pendingRate := by
  rw [bcuBoundary_eq, ← scheduled_port]
  have hannounced : ListsStand (scheduled r s) (forEach (occupied (scheduled r s)) (announceClient r) (scheduled r s)) :=
    forEach_keeps (ListsStand _) _ _ (fun _ _ _ hu => announceBoundary_lists (announceBoundary_lists hu)) _ (.refl _)
  obtain ⟨hn, hr, hp⟩ := hannounced.schedule p
  rw [← hn, ← hr, ← hp]
  generalize forEach (occupied (scheduled r s)) (announceClient r) (scheduled r s) = v
  refine forEach_keeps (fun u => (beaconPort u p).next = (beaconPort v p).next ∧ (beaconPort u p).rate = (beaconPort v p).rate ∧
    (beaconPort u p).pendingRate = (beaconPort v p).pendingRate) noticeEpoch _ (fun i _ u hu => ?_) v ⟨rfl, rfl, rfl⟩
  obtain ⟨hn, hr, hp⟩ := noticeEpoch_schedule i p u
  rw [hn, hr, hp]
  exact hu

theorem scheduled_client (r : Report) (n : Nat) (s : State) :
    client (scheduled r s) n = match r.step with | none => client s n | some d => moveAnnounced d (client s n) := by
  have hcrs : (bcuBoundary r s).crs = (scheduled r s).crs := by
    rw [bcuBoundary_eq]
    refine forEach_keeps (fun u => u.crs = (scheduled r s).crs) noticeEpoch _ (fun i _ u hu => by simpa using hu) _ ?_
    exact forEach_keeps (fun u => u.crs = (scheduled r s).crs) (announceClient r) _
      (fun k _ u hu => by simpa [announceClient] using hu) _ rfl
  refine Eq.trans ?_ (bcuBoundary_client r n s)
  rw [client, client, hcrs]

theorem scheduled_hands (r : Report) (s : State) : Hands s (scheduled r s) := by
  unfold scheduled
  refine boundarySchedule_hands (boundarySchedule_hands ?_)
  split
  · exact .refl s
  · exact (Hands.refl s).same rfl rfl fun _ => rfl

theorem announceClient_hands (r : Report) (s : State) : Hands s (announceClient r n s) :=
  announceBoundary_hands (announceBoundary_hands (.refl s))

/-- R131: when an announcement is old. -/
theorem announceAged_iff (r : Report) (age : Nat) (q : Path) : announceAged r age q = true ↔
    q.state = .valid ∧ ∀ u, q.announcedAt = some u → u + age * 16000000000 < r.instant := by
  cases h : q.announcedAt with
  | none => simp [announceAged, h]
  | some u =>
    have hsec : sixPerSec = 16000000000 := rfl
    simp only [announceAged, h, Bool.and_eq_true, beq_iff_eq, decide_eq_true_iff, Option.some.injEq, forall_eq']
    rw [hsec]

/-- R131: a client whose announcement is old joins the queue of its port. -/
theorem announceBoundary_joins {r : Report} {p : Port} (h : announceAged r (client s n).config.announceAge (path s n p) = true) :
    inRoll (announceBoundary r p n s) p n := by
  rw [announceBoundary, if_pos h]
  exact joinRoll_mem p n s

/-- R131: the announcements in the turn of the Beacon Unit. -/
theorem bcuBoundary_announces {r : Report} {p : Port} (hv : (client s n).state ≠ .vacant) (hq : (path s n p).state = .valid)
    (hage : ∀ u, (path s n p).announcedAt = some u → heldAt r u + (client s n).config.announceAge * 16000000000 < r.instant) :
    inRoll (bcuBoundary r s) p n := by
  rw [bcuBoundary_eq]
  have hc := scheduled_client r n s
  have hcv : (client (scheduled r s) n).state ≠ .vacant := by
    rw [hc]; split <;> exact hv
  have haged : announceAged r (client (scheduled r s) n).config.announceAge (path (scheduled r s) n p) = true := by
    unfold path
    rw [hc, announceAged_iff]
    unfold heldAt at hage
    cases hr : r.step with
    | none =>
      rw [hr] at hage
      exact ⟨hq, hage⟩
    | some d =>
      rw [hr] at hage
      have hpath : atPort (moveAnnounced d (client s n)).paths p =
          { path s n p with announcedAt := (path s n p).announcedAt.map (moveBy d) } := by cases p <;> rfl
      dsimp only at hage ⊢
      rw [hpath]
      refine ⟨hq, fun w hw => ?_⟩
      obtain ⟨u, hu, rfl⟩ := Option.map_eq_some_iff.1 hw
      exact hage u hu
  obtain ⟨u, hu, ht⟩ := clients_around (s := scheduled r s) (f := announceClient r)
    (fun k v => .of_crs (by simp [announceClient])) (fun k v => announceClient_hands r v) hcv
  have hjoined : inRoll (announceClient r n u) p n := by
    have hagedu : announceAged r (client u n).config.announceAge (path u n p) = true := by
      unfold path
      rw [hu.client]; exact haged
    unfold announceClient
    cases p with
    | a => exact (announceBoundary_hands (.refl _)).roll _ _ (announceBoundary_joins hagedu)
    | b => exact announceBoundary_joins (by simpa [path, client] using hagedu)
  exact (forEach_hands (.refl _) fun i v hv => noticeEpoch_hands hv).roll p n (ht.hands.roll p n hjoined)

/-- R137: the notice block at an index, at a boundary. -/
theorem noticeEpoch_spec (i : Nat) (s : State) :
    (∀ j, j ≠ i → noticeAt (noticeEpoch i s) j = noticeAt s j) ∧
    ((∀ b epoch, noticeAt s i = some b → b.mode = .until_ epoch → s.tbs.time.sec < epoch) → noticeEpoch i s = s) ∧
    ∀ b epoch, noticeAt s i = some b → b.mode = .until_ epoch → epoch ≤ s.tbs.time.sec →
      noticeAt (noticeEpoch i s) i = none ∧ handedOn s (noticeEpoch i s) (.noticeDone i (.until_ epoch) b.carried .epoch) := by
  have hquiet : (∀ b epoch, noticeAt s i = some b → b.mode = .until_ epoch → s.tbs.time.sec < epoch) → noticeEpoch i s = s := by
    intro h
    unfold noticeEpoch
    split
    next b hb =>
      split
      next epoch hm => exact if_neg (Nat.not_le.2 (h b epoch hb hm))
      all_goals rfl
    · rfl
  have hfreed (b : Notice) (epoch : Nat) (hb : noticeAt s i = some b) (hm : b.mode = .until_ epoch)
      (hle : epoch ≤ s.tbs.time.sec) : noticeEpoch i s = freeNotice i b .epoch s := by
    simp only [noticeEpoch, hb, hm]
    exact if_pos hle
  refine ⟨fun j hj => ?_, hquiet, fun b epoch hb hm hle => ?_⟩
  · by_cases h : ∀ b epoch, noticeAt s i = some b → b.mode = .until_ epoch → s.tbs.time.sec < epoch
    · rw [hquiet h]
    · push Not at h
      obtain ⟨b, epoch, hb, hm, hle⟩ := h
      rw [hfreed b epoch hb hm hle]
      exact (freeNotice_spec b .epoch s (noticeAt_lt hb)).2.1 j hj
  · rw [hfreed b epoch hb hm hle]
    refine ⟨(freeNotice_spec b .epoch s (noticeAt_lt hb)).1, ?_⟩
    rw [freeNotice, hm]
    exact handedOn_stage_of rfl

/-- What the other indices leave of the block at index `i`. -/
structure NoticeStands (i : Nat) (s t : State) : Prop where
  notice : noticeAt t i = noticeAt s i
  time : t.tbs.time = s.tbs.time
  grows : Grows s t

theorem noticeEpoch_stands {i j : Nat} (h : j ≠ i) (s : State) : NoticeStands i s (noticeEpoch j s) :=
  ⟨(noticeEpoch_spec j s).1 i (Ne.symm h), by simp, (noticeEpoch_hands (.refl s)).grows⟩

/-- R137: the notice blocks in the turn of the Beacon Unit. -/
theorem bcuBoundary_notices (r : Report) (i : Nat) (s : State) :
    ((∀ b epoch, noticeAt s i = some b → b.mode = .until_ epoch → s.tbs.time.sec < epoch) →
      noticeAt (bcuBoundary r s) i = noticeAt s i) ∧
    ∀ b epoch, i < 8 → noticeAt s i = some b → b.mode = .until_ epoch → epoch ≤ s.tbs.time.sec →
      noticeAt (bcuBoundary r s) i = none ∧ handedOn s (bcuBoundary r s) (.noticeDone i (.until_ epoch) b.carried .epoch) := by
  have hstart : NoticeStands i s (forEach (occupied (scheduled r s)) (announceClient r) (scheduled r s)) := by
    have hnotices : ListsStand (scheduled r s) (forEach (occupied (scheduled r s)) (announceClient r) (scheduled r s)) :=
      forEach_keeps (ListsStand _) _ _ (fun _ _ _ hu => announceBoundary_lists (announceBoundary_lists hu)) _ (.refl _)
    have htime : (forEach (occupied (scheduled r s)) (announceClient r) (scheduled r s)).tbs = (scheduled r s).tbs :=
      forEach_keeps (fun u => u.tbs = (scheduled r s).tbs) _ _ (fun k _ u hu => by simpa [announceClient] using hu) _ rfl
    have hsn : (scheduled r s).bcu.notices = s.bcu.notices ∧ (scheduled r s).tbs = s.tbs := by
      unfold scheduled boundarySchedule
      cases r.step <;> dsimp only <;> split_ifs <;> exact ⟨rfl, rfl⟩
    refine ⟨?_, by rw [htime, hsn.2], (forEach_hands (scheduled_hands r s) fun k u hu => hu.trans (announceClient_hands r u)).grows⟩
    rw [noticeAt, hnotices.notices, hsn.1]; rfl
  rw [bcuBoundary_eq]
  generalize forEach (occupied (scheduled r s)) (announceClient r) (scheduled r s) = v at *
  obtain ⟨hvn, hvt, hvg⟩ := hstart
  refine ⟨fun hlater => ?_, fun b epoch hi hb hm hle => ?_⟩
  · refine (forEach_keeps (fun u => noticeAt u i = noticeAt s i ∧ u.tbs.time = s.tbs.time) noticeEpoch _
      (fun j _ u ⟨hun, hut⟩ => ⟨?_, by simpa using hut⟩) v ⟨hvn, hvt⟩).1
    by_cases hj : j = i
    · subst hj
      rw [(noticeEpoch_spec j u).2.1 (by rw [hun, hut]; exact hlater), hun]
    · rw [(noticeEpoch_spec j u).1 i (Ne.symm hj), hun]
  · obtain ⟨u, hu, ht⟩ := forEach_around (R := NoticeStands i) (fun u => ⟨rfl, rfl, .refl u⟩)
      (fun h k => ⟨k.notice.trans h.notice, k.time.trans h.time, h.grows.trans k.grows⟩)
      (List.mem_range.2 hi) List.nodup_range (fun j hj u => noticeEpoch_stands hj u) v
    obtain ⟨hnone, hrecord⟩ := (noticeEpoch_spec i u).2.2 b epoch (by rw [hu.notice, hvn, hb]) hm (by rw [hu.time, hvt]; exact hle)
    exact ⟨ht.notice.trans hnone, ht.grows.handedOn ((hvg.trans hu.grows).handedOn_before hrecord)⟩

/-- The boundary around the turn of the Beacon Unit. -/
theorem boundary_bcu (blocks : List Block) (s : State) :
    ∃ u, BeaconStands (ticked s) u ∧ BeaconStands (bcuBoundary s.tbs.report u) (boundary blocks s) :=
  boundary_around BeaconStands.refl BeaconStands.trans .bcu blocks s fun _ hb v => blockBoundary_beaconStands hb v

/-- Settles O48: newcomers in the Roster's turn, announcements and notices in that of the Beacon Unit. -/
theorem boundaryAgesNewcomersAnnouncementsNotices : Obligations.BoundaryAgesNewcomersAnnouncementsNotices := by
  intro s blocks hb r moved
  obtain ⟨hnew, hover⟩ := boundary_newcomers blocks s
  obtain ⟨u, hu, ht⟩ := boundary_bcu blocks s
  have hnoticeu (i : Nat) : noticeAt u i = noticeAt s i := by rw [noticeAt, hu.notices]; rfl
  have hnoticet (i : Nat) : noticeAt (boundary blocks s) i = noticeAt (bcuBoundary r u) i := by rw [noticeAt, noticeAt, ht.notices]
  have htime : (boundary blocks s).tbs.time = u.tbs.time := by rw [ht.time]; simp
  refine ⟨_, exec_boundary hb, hnew, hover, fun n port hv hvalid hage => ?_, fun i hi b epoch hbn hm hle => ?_, fun i hlater => ?_⟩
  · have hcu : Announcing (client s n) (client u n) := hu.clients n
    have hv' : (path (bcuBoundary r u) n port).state = .valid := ((ht.clients n).path port).1 hvalid
    have hvalidu : (path u n port).state = .valid := by
      rw [path, bcuBoundary_client] at hv'
      split at hv'
      · exact hv'
      · cases port <;> exact hv'
    have hjoin := bcuBoundary_announces (r := r) (fun h => hv (hcu.vacant.1 h)) hvalidu fun w hw => by
      rw [hcu.config]
      exact hage w (((hcu.path port).2).symm.trans hw)
    obtain ⟨e, he, hslot, -⟩ := ht.grows.roll port n hjoin
    exact List.mem_map.2 ⟨e, he, hslot⟩
  · obtain ⟨hnone, hrecord⟩ := (bcuBoundary_notices r i u).2 b epoch hi (by rw [hnoticeu, hbn]) hm (htime ▸ hle)
    exact ⟨(hnoticet i).trans hnone, staged_of_handedOn (ht.grows.handedOn hrecord)⟩
  · rw [hnoticet, (bcuBoundary_notices r i u).1 (by rw [hnoticeu, ← htime]; exact hlater), hnoticeu]

end
end Sys2Proof.Machine

/-! Schedules and synchronized starts at a second boundary (O49). -/

namespace Sys2Proof.Machine

section
variable {s t : State} {k : Nat}

/-! ## The turn of the channels -/

/-- The Timebase holds no posted step of the order at slot `k`. -/
def noPost (s : State) (k : Nat) : Prop := ∀ q, s.tbs.posted = some q → q.origin ≠ .host k

/-- What the other blocks leave for the channels and the order at slot `k` at a boundary: the gate may close, and with it pulses
end. -/
structure PulseStands (k : Nat) (s t : State) : Prop where
  channels : ∀ c, ∃ fall, (fall = (channel s c).fall ∨ fall = none) ∧ channel t c = { channel s c with fall := fall }
  gate : t.pou.gateOpen = true → s.pou.gateOpen = true
  kept : t.pou.gateOpen = s.pou.gateOpen → ∀ c, channel t c = channel s c
  length : t.pou.channels.length = s.pou.channels.length
  posted : noPost s k → noPost t k
  entry : noPost s k → storeEntry t k = storeEntry s k
  time : t.tbs.time = s.tbs.time

theorem PulseStands.refl (k : Nat) (s : State) : PulseStands k s s :=
  ⟨fun _ => ⟨_, .inl rfl, rfl⟩, id, fun _ _ => rfl, rfl, id, fun _ => rfl, rfl⟩

/-- Where the gate closes at most once it stands throughout if it does at the end. -/
theorem gate_between {a b c : Bool} : (b = true → a = true) → (c = true → b = true) → c = a → b = a ∧ c = b := by
  revert a b c
  decide

theorem PulseStands.trans {u : State} (h : PulseStands k s t) (j : PulseStands k t u) : PulseStands k s u where
  channels c := by
    obtain ⟨f, hf, hfc⟩ := h.channels c
    obtain ⟨g, hg, hgc⟩ := j.channels c
    refine ⟨g, ?_, by rw [hgc, hfc]⟩
    rw [hfc] at hg
    rcases hg with hg | hg
    · rw [hg]; exact hf
    · exact .inr hg
  gate := h.gate ∘ j.gate
  kept e c := by
    obtain ⟨h1, h2⟩ := gate_between h.gate j.gate e
    rw [j.kept h2, h.kept h1]
  length := j.length.trans h.length
  posted := j.posted ∘ h.posted
  entry hp := (j.entry (h.posted hp)).trans (h.entry hp)
  time := j.time.trans h.time

/-- A turn that leaves the unit. -/
theorem PulseStands.of_pou (hpou : t.pou = s.pou) (hposted : noPost s k → noPost t k)
    (hentry : noPost s k → storeEntry t k = storeEntry s k) (htime : t.tbs.time = s.tbs.time) : PulseStands k s t :=
  have hch (c : Nat) : channel t c = channel s c := by rw [channel, channel, hpou]
  ⟨fun c => ⟨_, .inl rfl, hch c⟩, by rw [hpou]; exact id, fun _ => hch, by rw [hpou], hposted, hentry, htime⟩

theorem stepApplied_stands (r : Report) (s : State) : PulseStands k s (stepApplied r s) := by
  have htbs := stepApplied_tbs r s
  refine .of_pou (by simp) (fun hp q hq => ?_) (fun hp => ?_) (by rw [htbs])
  · rw [htbs] at hq
    dsimp only at hq
    split at hq
    · exact hp q hq
    · cases hq
  · unfold stepApplied
    split
    next d q hstep hq =>
      have hstaged (slot : Nat) : storeEntry (stage (.stepApplied q.origin r.epoch d) s) slot = storeEntry s slot :=
        (stage_hands (.refl s)).storeEntry slot
      split
      next ho => exact hstaged k
      next slot ho =>
        refine (storeEntry_complete_ne _ _ _ fun e => hp q hq (by rw [ho, e])).trans (hstaged k)
    next => rfl

theorem applyLeap_stands (s : State) : PulseStands k s (applyLeap s) := by
  refine .of_pou (by simp) (fun hp q hq => hp q ?_) (fun _ => (applyLeap_hands (.refl s)).storeEntry k) ?_
  · unfold applyLeap at hq
    split at hq
    · exact hq
    · split at hq
      · simpa using hq
      · exact hq
  · unfold applyLeap
    split
    · rfl
    · split <;> simp

/-- R155: what a change of class leaves of the channels. -/
theorem dsvBoundary_stands (s : State) : PulseStands k s (dsvBoundary s) := by
  have htbs := dsvBoundary_tbs s
  have hposted : noPost s k → noPost (dsvBoundary s) k := by unfold noPost; rw [htbs]; exact id
  have hentry : noPost s k → storeEntry (dsvBoundary s) k = storeEntry s k := fun _ => (dsvBoundary_hands (.refl s)).storeEntry k
  obtain ⟨-, hsame, -, hwithin, hcloses⟩ := dsvBoundary_moves s
  by_cases hne : (dsvBoundary s).dsv.cls = s.dsv.cls
  · exact .of_pou (hsame hne) hposted hentry (by rw [htbs])
  by_cases hshut : s.pou.floor < (dsvBoundary s).dsv.cls ∧ s.pou.gateOpen = true
  case neg =>
    have hpou := hwithin hne hshut
    have hch (c : Nat) : channel (dsvBoundary s) c = channel s c := by rw [channel, channel, hpou]
    exact ⟨fun c => ⟨_, .inl rfl, hch c⟩, by rw [hpou]; exact id, fun _ => hch, by rw [hpou], hposted, hentry, by rw [htbs]⟩
  have hpou := (hcloses hne hshut.1 hshut.2).1
  refine ⟨fun c => ?_, fun _ => hshut.2, fun e => ?_, by rw [hpou]; simp [shutUnit], hposted, hentry, by rw [htbs]⟩
  · have hch : channel (dsvBoundary s) c = if (channel s c).active.gated then { channel s c with fall := none } else channel s c := by
      rw [channel, hpou]
      change (s.pou.channels.map _).getD c Channel.reset = _
      rw [List.getD_eq_getElem?_getD, List.getElem?_map, channel, List.getD_eq_getElem?_getD]
      cases s.pou.channels[c]? <;> rfl
    rw [hch]
    split
    · exact ⟨none, .inr rfl, rfl⟩
    · exact ⟨_, .inl rfl, rfl⟩
  · rw [hpou, hshut.2] at e
    exact nomatch e

theorem blockBoundary_pulseStands {r : Report} {b : Block} (hb : b ≠ .pou) (s : State) : PulseStands k s (blockBoundary r b s) := by
  by_cases htbs : b = .tbs
  · subst htbs
    exact (stepApplied_stands r s).trans (applyLeap_stands _)
  by_cases hdsv : b = .dsv
  · subst hdsv
    exact dsvBoundary_stands s
  have hpost : (blockBoundary r b s).tbs = s.tbs := blockBoundary_tbs htbs s
  exact .of_pou (blockBoundary_pou hdsv hb s) (by unfold noPost; rw [hpost]; exact id)
    (fun _ => (blockBoundary_hands htbs hb).storeEntry k) (by rw [hpost])

/-! ### Schedules come in -/

/-- R148: a channel after the schedules have come in. -/
def comeIn (isOpen : Bool) (ch : Channel) : Channel :=
  match ch.pending with
  | none => ch
  | some ps => transferred isOpen ps.sched ch

/-- R148: the channels after the schedules have come in. -/
theorem transfers_channel (r : Report) (hlen : s.pou.channels.length = 8) (c : Nat) :
    channel (forEach (List.range 8) (transfer r) s) c = comeIn s.pou.gateOpen (channel s c) := by
  have hgate (x : Nat) (u : State) : (transfer r x u).pou.gateOpen = u.pou.gateOpen ∧
      (transfer r x u).pou.channels.length = u.pou.channels.length := by
    unfold transfer
    split
    · exact ⟨rfl, rfl⟩
    · exact ⟨rfl, by simp⟩
  have hself (x : Nat) (u : State) (hx : x < u.pou.channels.length) :
      channel (transfer r x u) x = comeIn u.pou.gateOpen (channel u x) := by
    cases hp : (channel u x).pending with
    | none =>
      have hstay : transfer r x u = u := by simp only [transfer, hp]
      rw [hstay]
      simp only [comeIn, hp]
    | some ps =>
      have hmoved : channel (transfer r x u) x = transferred u.pou.gateOpen ps.sched (channel u x) := by
        simp only [transfer, hp]
        exact channel_modChannel _ hx
      rw [hmoved]
      simp only [comeIn, hp]
  rw [forEach_each (I := fun u => u.pou.gateOpen = s.pou.gateOpen ∧ u.pou.channels.length = 8)
    (g := fun _ => comeIn s.pou.gateOpen)
    (fun x u ⟨hg, hl⟩ => ⟨(hgate x u).1.trans hg, (hgate x u).2.trans hl⟩)
    (fun x y u _ hy => (transfer_channel r x y u).resolve_right fun h => hy h.1) (List.range 8)
    (fun x hx u ⟨hg, hl⟩ => hg ▸ hself x u (by rw [hl]; exact List.mem_range.1 hx)) List.nodup_range ⟨rfl, hlen⟩]
  split
  · rfl
  next hc =>
    rw [channel_past (by rw [hlen]; exact Nat.le_of_not_lt fun h => hc (List.mem_range.2 h))]
    rfl

/-! ### Channels start -/

/-- R151: the orders of a run of bits. -/
theorem bitMask_filter (q : Nat → Bool) :
    bitMask ((List.range 8).filter q) = ((List.range 8).map (fun c => if q c then 2 ^ c else 0)).sum := by
  have hall : ∀ b0 b1 b2 b3 b4 b5 b6 b7 : Bool,
      bitMask ((List.range 8).filter (fun c => [b0, b1, b2, b3, b4, b5, b6, b7].getD c false)) =
        ((List.range 8).map (fun c => if [b0, b1, b2, b3, b4, b5, b6, b7].getD c false then 2 ^ c else 0)).sum := by decide
  have hq : ∀ c ∈ List.range 8, q c = [q 0, q 1, q 2, q 3, q 4, q 5, q 6, q 7].getD c false := by
    intro c hc
    have := List.mem_range.1 hc
    interval_cases c <;> rfl
  rw [List.filter_congr hq, List.map_congr_left fun c hc => by rw [hq c hc]]
  exact hall ..

theorem armedBy_eq (k : Nat) (s : State) :
    armedBy k s = (List.range s.pou.channels.length).filter (fun c => (channel s c).arm == some k) := by
  have hzip : s.pou.channels.zipIdx = (List.range s.pou.channels.length).map (fun n => (channel s n, n)) := by
    refine List.ext_getElem (by simp) fun n h1 h2 => ?_
    have hn : n < s.pou.channels.length := by simpa using h1
    simp [channel, List.getD, hn]
  rw [armedBy, hzip, List.filter_map, List.map_map]
  exact List.map_id _

/-- What the other orders' starts leave of the channels that wait for the order at slot `k`, or for none, and of that order. -/
structure StartStands (k : Nat) (s t : State) : Prop where
  quiet : ∀ c, (channel s c).arm = none ∨ (channel s c).arm = some k → channel t c = channel s c
  armed : ∀ c, (channel t c).arm = some k → (channel s c).arm = some k
  length : t.pou.channels.length = s.pou.channels.length
  entry : storeEntry t k = storeEntry s k
  time : t.tbs.time = s.tbs.time

theorem StartStands.refl (k : Nat) (s : State) : StartStands k s s := ⟨fun _ _ => rfl, fun _ => id, rfl, rfl, rfl⟩

theorem StartStands.trans {u : State} (h : StartStands k s t) (j : StartStands k t u) : StartStands k s u where
  quiet c hc := (j.quiet c (by rw [h.quiet c hc]; exact hc)).trans (h.quiet c hc)
  armed c hc := h.armed c (j.armed c hc)
  length := j.length.trans h.length
  entry := j.entry.trans h.entry
  time := j.time.trans h.time

theorem startChannel_arm (t : Nat) (ch : Channel) : (startChannel t ch).arm = none := by
  simp only [startChannel]
  split_ifs <;> rfl

theorem startArm_stands {r : Report} {j : Nat} (h : j ≠ k) (s : State) : StartStands k s (startArm r j s) where
  quiet c hc := by
    rw [startArm_channel]
    refine if_neg fun ⟨_, hj⟩ => ?_
    rcases hc with hc | hc <;> rw [hc] at hj <;> cases hj
    exact h rfl
  armed c hc := by
    rw [startArm_channel] at hc
    split at hc
    · rw [startChannel_arm] at hc; cases hc
    · exact hc
  length := by
    unfold startArm
    dsimp only
    split
    · exact forEach_keeps (fun u => u.pou.channels.length = s.pou.channels.length) (fun c => modChannel c (startChannel r.instant)) _
        (fun c _ u hu => by simpa using hu) s rfl
    · rfl
  entry := startArm_storeEntry fun e => absurd e h
  time := by
    unfold startArm
    dsimp only
    split
    · exact forEach_keeps (fun u => u.tbs.time = s.tbs.time) (fun c => modChannel c (startChannel r.instant)) _
        (fun c _ u hu => hu) s rfl
    · rfl

/-- R146, R151: the starts around the order at one slot. -/
theorem starts_around (r : Report) (hk : k < 32) (s : State) :
    ∃ u, StartStands k s u ∧ StartStands k (startArm r k u) (forEach (List.range 32) (startArm r) s) :=
  forEach_around (StartStands.refl k) StartStands.trans (List.mem_range.2 hk) List.nodup_range
    (fun _ hj u => startArm_stands hj u) s

/-- R151: a held PULSE-ARM that starts. -/
theorem startArm_due {r : Report} {en : StoreEntry} (hlen : s.pou.channels.length = 8) (hen : storeEntry s k = some en)
    (hdue : armDue k s = true) :
    let armed := fun c => (channel s c).arm == some k
    let missed := fun c => armed c && (startChannel r.instant (channel s c)).state == .ready
    let bits := fun q : Nat → Bool => ((List.range 8).map (fun c => if q c then 2 ^ c else 0)).sum
    storeEntry (startArm r k s) k = some { en with
      status := .completed .ok (le 8 s.tbs.time.sec ++ le 1 (bits armed) ++ le 1 (bits missed)) false } := by
  intro armed missed bits
  let s1 := forEach (armedBy k s) (fun c => modChannel c (startChannel r.instant)) s
  have hstart : startArm r k s = complete k .ok (le 8 s.tbs.time.sec ++ le 1 (bitMask (armedBy k s)) ++
      le 1 (bitMask ((armedBy k s).filter (fun c => (channel s1 c).state == .ready)))) s1 := if_pos hdue
  have hstore : storeEntry s1 k = storeEntry s k :=
    forEach_keeps (fun u => storeEntry u k = storeEntry s k) (fun c => modChannel c (startChannel r.instant)) _ (fun _ _ _ hu => hu) s rfl
  have hch (c : Nat) (hc : c ∈ armedBy k s) : channel s1 c = startChannel r.instant (channel s c) := by
    have h1 : channel (startArm r k s) c = channel s1 c := by rw [hstart]; rfl
    rw [← h1, startArm_channel, if_pos ⟨hdue, (mem_armedBy.1 hc).2⟩]
  have hmissed : (armedBy k s).filter (fun c => (channel s1 c).state == .ready) =
      (List.range 8).filter (fun c => armed c && (startChannel r.instant (channel s c)).state == .ready) := by
    rw [List.filter_congr fun c hc => by rw [hch c hc], armedBy_eq, hlen, List.filter_filter]
    exact List.filter_congr fun c _ => Bool.and_comm _ _
  rw [hstart, storeEntry_complete, hstore, hen, hmissed, armedBy_eq, hlen, bitMask_filter, bitMask_filter]
  rfl

end
section
variable {s t : State} {k : Nat}

/-! ### What a channel keeps and takes -/

theorem comeIn_arm (isOpen : Bool) (ch : Channel) (k : Nat) : (comeIn isOpen ch).arm = some k ↔
    ch.arm = some k ∧ ch.pending.all (fun q => q.sched.mode != .off) = true := by
  unfold comeIn
  cases hp : ch.pending with
  | none => simp
  | some ps =>
    have harm : (transferred isOpen ps.sched ch).arm = if ps.sched.mode = .off then none else ch.arm := by
      have hoff : transferState ch.state ps.sched.mode = .off ↔ ps.sched.mode = .off := by
        unfold transferState
        by_cases h : ps.sched.mode = .off
        · simp [h]
        · simp only [h, if_false, iff_false]
          cases ch.state <;> decide
      simp only [transferred, hoff]
      split_ifs <;> rfl
    by_cases h : ps.sched.mode = .off
    · simp [harm, h]
    · simp [harm, h]

theorem comeIn_kept (isOpen : Bool) (ch : Channel) : (comeIn isOpen ch).active = (ch.pending.map (·.sched)).getD ch.active ∧
    (comeIn isOpen ch).lastRise = ch.lastRise := by
  unfold comeIn
  cases ch.pending with
  | none => exact ⟨rfl, rfl⟩
  | some ps =>
    simp only [transferred]
    split_ifs <;> exact ⟨rfl, rfl⟩

theorem comeIn_waiting {isOpen : Bool} {ch : Channel} (hw : ch.state = .waiting)
    (hoff : ch.pending.all (fun q => q.sched.mode != .off) = true) : (comeIn isOpen ch).state = .waiting := by
  unfold comeIn
  cases hp : ch.pending with
  | none => exact hw
  | some ps =>
    rw [hp] at hoff
    have hmode : ps.sched.mode ≠ .off := by simpa using hoff
    simp [transferred, transferState, hmode, hw]

/-- R146, R151: a channel started at `i` is missed. -/
def startMissed (i : Nat) (ch : Channel) : Bool :=
  ch.active.mode == .single && (decide (ch.active.start * 16 < i) || ch.lastRise.any (fun l => decide (ch.active.start ≤ l)))

theorem startChannel_spec (i : Nat) (ch : Channel) : (startChannel i ch).arm = none ∧ (startChannel i ch).runStart = some i ∧
    (startChannel i ch).active = ch.active ∧ (startChannel i ch).state = if startMissed i ch then .ready else .running := by
  have hmissed : singleMissed { ch with state := .running, arm := none, runStart := some i } = startMissed i ch := rfl
  simp only [startChannel, hmissed]
  split_ifs <;> exact ⟨rfl, rfl, rfl, rfl⟩

theorem stepChannel_kept (d : Int) (i : Nat) (ch : Channel) : (stepChannel d i ch).arm = ch.arm ∧
    (stepChannel d i ch).runStart = ch.runStart ∧ (ch.state ≠ .running → (stepChannel d i ch).state = ch.state) ∧
    (ch.active.mode ≠ .single → (stepChannel d i ch).state = ch.state) := by
  unfold stepChannel
  by_cases h : singleStepped d i ch = true
  · rw [if_pos h]
    simp only [singleStepped, Bool.and_eq_true, beq_iff_eq] at h
    exact ⟨rfl, rfl, fun hr => absurd h.1.1 hr, fun hm => absurd h.1.2 hm⟩
  · rw [if_neg h]
    exact ⟨rfl, rfl, fun _ => rfl, fun _ => rfl⟩

/-- R151, R153: the channels in their turn leave what they made of arm, run start and state before a step, but for a running
SINGLE channel. -/
theorem pouBoundary_channel (r : Report) (c : Nat) (s : State) :
    (channel (pouBoundary r s) c).arm = (channel (started r s) c).arm ∧
    (channel (pouBoundary r s) c).runStart = (channel (started r s) c).runStart ∧
    ((channel (started r s) c).state ≠ .running → (channel (pouBoundary r s) c).state = (channel (started r s) c).state) ∧
    (r.step = none ∨ (channel (started r s) c).active.mode ≠ .single →
      (channel (pouBoundary r s) c).state = (channel (started r s) c).state) := by
  rw [pouBoundary_eq]
  cases hr : r.step with
  | none => exact ⟨rfl, rfl, fun _ => rfl, fun _ => rfl⟩
  | some d =>
    dsimp only
    rw [channel_pouStep]
    obtain ⟨ha, hs, hn, hm⟩ := stepChannel_kept d (now (started r s)) (channel (started r s) c)
    exact ⟨ha, hs, hn, fun h => hm (h.resolve_left nofun)⟩

theorem armDue_held {en : StoreEntry} {p : PulseArmP} (hen : storeEntry s k = some en) (ho : en.order = .pulseArm p)
    (hh : en.status = .held) : armDue k s = decide (p.epoch.toNat ≤ s.tbs.time.sec) := by
  obtain ⟨o, c, st⟩ := en
  obtain rfl : o = .pulseArm p := ho
  obtain rfl : st = .held := hh
  simp [armDue, hen]

/-- R148, R151: the channels' turn around the starts of the order at slot `k`. -/
theorem started_around (r : Report) (hk : k < 32) (hlen : s.pou.channels.length = 8) (hpend : noPending s k) :
    ∃ u, (∀ c, (comeIn s.pou.gateOpen (channel s c)).arm = some k → channel u c = comeIn s.pou.gateOpen (channel s c)) ∧
      (∀ c, (channel u c).arm = some k → (comeIn s.pou.gateOpen (channel s c)).arm = some k) ∧
      u.pou.channels.length = 8 ∧ storeEntry u k = storeEntry s k ∧ u.tbs.time = s.tbs.time ∧
      StartStands k (startArm r k u) (started r s) := by
  have heq : started r s = forEach (List.range 32) (startArm r) (forEach (List.range 8) (transfer r) s) := rfl
  have hm := transfers_channel r hlen
  rw [heq]
  have hmlen : (forEach (List.range 8) (transfer r) s).pou.channels.length = 8 :=
    forEach_keeps (fun u => u.pou.channels.length = 8) (transfer r) _ (fun c _ u hu => by
      unfold transfer
      split
      · exact hu
      · simpa using hu) s hlen
  have hmtime : (forEach (List.range 8) (transfer r) s).tbs = s.tbs := forEach_keeps (fun u => u.tbs = s.tbs) (transfer r) _ (fun c _ u hu => by simpa using hu) s rfl
  have hmentry : noPending (forEach (List.range 8) (transfer r) s) k ∧
      storeEntry (forEach (List.range 8) (transfer r) s) k = storeEntry s k :=
    forEach_keeps (fun u => noPending u k ∧ storeEntry u k = storeEntry s k) (transfer r) _
      (fun c _ u ⟨hp, hu⟩ => ⟨transfer_noPending hp, (transfer_storeEntry (hp c)).trans hu⟩) s ⟨hpend, rfl⟩
  generalize forEach (List.range 8) (transfer r) s = m at *
  obtain ⟨u, hu, ht⟩ := starts_around r hk m
  refine ⟨u, fun c hc => ?_, fun c hc => ?_, hu.length.trans hmlen, hu.entry.trans hmentry.2, by rw [hu.time, hmtime], ht⟩
  · rw [hu.quiet c (.inr (by rw [hm]; exact hc)), hm]
  · have := hu.armed c hc
    rwa [hm] at this

end
section
variable {s t : State} {k : Nat}

theorem storeEntry_pouBoundary (r : Report) (k : Nat) (s : State) : storeEntry (pouBoundary r s) k = storeEntry (started r s) k := by
  rw [pouBoundary_eq]
  generalize started r s = v
  split <;> rfl

/-- The boundary around the turn of the channels. -/
theorem boundary_pou (k : Nat) (blocks : List Block) (s : State) :
    ∃ u, PulseStands k (ticked s) u ∧ PulseStands k (pouBoundary s.tbs.report u) (boundary blocks s) :=
  boundary_around (PulseStands.refl k) PulseStands.trans .pou blocks s fun _ hb v => blockBoundary_pulseStands hb v

/-- R126, R127: what a boundary makes of a schedule. -/
theorem rescheduled_spec (r : Report) (p : Port) (s : State) :
    let b := beaconPort s p
    let rate := b.pendingRate.getD b.rate
    let sp := 16000000000 / rate
    let next := b.next.map (fun u => if r.epoch = 0 then u - 2 ^ 48 * 16000000000 else u)
    let t := rescheduled r s p
    ((link s p).state = .up → t.rate = rate ∧ t.pendingRate = none ∧
      (b.pendingRate = none → r.step = none → t.next = next) ∧
      ((b.pendingRate ≠ none ∨ r.step ≠ none) → rate ∈ [1, 2, 4, 8, 16] →
        ∃ u, t.next = some u ∧ u % sp = 0 ∧ r.instant ≤ u ∧ u ≤ r.instant + sp ∧
          (if r.epoch * 16000000000 < next.getD 0 then r.instant < u else u < r.instant + sp))) ∧
    ((link s p).state ≠ .up → t.next = b.next ∧ t.rate = b.rate ∧ t.pendingRate = b.pendingRate) := by
  intro b rate sp next t
  refine ⟨fun hup => ?_, fun hdown => ?_⟩
  · have ht : t = scheduleAt r b := if_pos hup
    have hnext : b.next.map (wrapNext r) = next := rfl
    have hset (hne : b.pendingRate ≠ none ∨ r.step ≠ none) : t.next = some (reschedule r rate (next.getD 0)) := by
      rw [ht]
      simp only [scheduleAt, hnext, rate]
      cases hp : b.pendingRate with
      | some x => rfl
      | none =>
        cases hs : r.step with
        | some d => rfl
        | none => exact absurd hne (by simp [hp, hs])
    have hrate : t.rate = rate ∧ t.pendingRate = none ∧ (b.pendingRate = none → r.step = none → t.next = next) := by
      rw [ht]
      simp only [scheduleAt, hnext, rate]
      cases hp : b.pendingRate with
      | some x => exact ⟨rfl, rfl, nofun⟩
      | none =>
        cases hs : r.step with
        | some d => exact ⟨rfl, rfl, nofun⟩
        | none => exact ⟨rfl, rfl, fun _ _ => rfl⟩
    refine ⟨hrate.1, hrate.2.1, hrate.2.2, fun hne hlist => ⟨_, hset hne, ?_⟩⟩
    have hpos : 0 < spacing rate := by
      simp only [List.mem_cons, List.not_mem_nil, or_false] at hlist
      rcases hlist with h | h | h | h | h <;> rw [h] <;> decide
    have hspec := reschedule_spec r (next.getD 0) hpos
    have hsp : spacing rate = sp := rfl
    have hsec : sixPerSec = 16000000000 := rfl
    rw [hsp, hsec] at hspec
    exact hspec
  · have ht : t = b := if_neg hdown
    rw [ht]
    exact ⟨rfl, rfl, rfl⟩

/-- Settles O49: the channels' turn for the held orders, that of the Beacon Unit for the schedules. -/
theorem boundaryStartsArmsAndReschedulesBeacons : Obligations.BoundaryStartsArmsAndReschedulesBeacons := by
  intro s blocks hlen hb r
  refine ⟨_, exec_boundary hb, ?_, fun port => ?_⟩
  · intro k en p hk hen ho hheld hpending hposted after starts missed bits
    obtain ⟨u, hu, ht⟩ := boundary_pou k blocks s
    have hpost : noPost (ticked s) k := fun q hq => hposted q ((boundaryTick_leap s.tbs).2.2 ▸ hq)
    have hpend : noPending u k := by
      intro c ps hps
      obtain ⟨fall, -, hc⟩ := hu.channels c
      rw [hc] at hps
      exact noPending_of_mem hpending c ps hps
    obtain ⟨v, hvch, hvarm, hvlen, hventry, hvtime, hst⟩ := started_around r hk (hu.length.trans hlen) hpend
    have hpou : (pouBoundary r u).tbs = u.tbs := by simp
    have htime : (boundary blocks s).tbs.time = v.tbs.time := by rw [ht.time, hpou, hvtime]
    have hentry : storeEntry (boundary blocks s) k = storeEntry (startArm r k v) k := by
      have hpu : noPost (pouBoundary r u) k := by
        unfold noPost
        rw [hpou]
        exact hu.posted hpost
      rw [ht.entry hpu, storeEntry_pouBoundary, hst.entry]
    have hven : storeEntry v k = some en := by rw [hventry, hu.entry hpost]; exact hen
    have hstarts (c : Nat) : (comeIn u.pou.gateOpen (channel u c)).arm = some k ↔ starts c = true := by
      obtain ⟨fall, -, hc⟩ := hu.channels c
      rw [comeIn_arm, hc]
      simp only [starts, Bool.and_eq_true, decide_eq_true_eq]
      rfl
    have hchannel (c : Nat) (hc : starts c = true) : channel v c = comeIn u.pou.gateOpen (channel u c) := hvch c ((hstarts c).2 hc)
    have harm (c : Nat) : ((channel v c).arm == some k) = starts c := by
      refine Bool.eq_iff_iff.2 (beq_iff_eq.trans ⟨fun h => (hstarts c).1 (hvarm c h), fun h => ?_⟩)
      rw [hchannel c h]; exact (hstarts c).2 h
    have hafter (c : Nat) (hc : starts c = true) : (channel v c).active = after c ∧ (channel v c).lastRise = (channel s c).lastRise := by
      obtain ⟨fall, -, hu'⟩ := hu.channels c
      obtain ⟨ha, hl⟩ := comeIn_kept u.pou.gateOpen (channel u c)
      rw [hchannel c hc, ha, hl, hu']
      exact ⟨rfl, rfl⟩
    have hmissed (c : Nat) (hc : starts c = true) : startMissed r.instant (channel v c) = missed c := by
      obtain ⟨ha, hl⟩ := hafter c hc
      simp only [startMissed, ha, hl, missed, hc, Bool.true_and]
    have harmDue := armDue_held hven ho hheld
    rw [htime]
    refine ⟨fun hdue => ?_, fun hearly => ?_⟩
    · have hdue : armDue k v = true := harmDue.trans (decide_eq_true hdue)
      refine ⟨?_, fun c hc8 hc => ?_⟩
      · rw [hentry, startArm_due hvlen hven hdue]
        have hbits : (fun c => (channel v c).arm == some k) = starts := funext harm
        have hmissedBits : (fun c => starts c && (startChannel r.instant (channel v c)).state == .ready) = missed := by
          funext c
          cases hc : starts c with
          | false => simp [missed, hc]
          | true =>
            rw [(startChannel_spec r.instant (channel v c)).2.2.2, hmissed c hc]
            cases missed c <;> rfl
        rw [hbits, hmissedBits]
      · have hv : (channel v c).arm = some k := beq_iff_eq.1 ((harm c).trans hc)
        have hch : channel (started r u) c = startChannel r.instant (channel v c) := by
          have hself : channel (startArm r k v) c = startChannel r.instant (channel v c) := by
            rw [startArm_channel, if_pos ⟨hdue, hv⟩]
          rw [← hself]
          exact hst.quiet c (.inl (by rw [hself]; exact startChannel_arm _ _))
        obtain ⟨ha, hrun, hact, hstate⟩ := startChannel_spec r.instant (channel v c)
        rw [hmissed c hc] at hstate
        obtain ⟨hpa, hps, hpn, hpm⟩ := pouBoundary_channel r c u
        rw [hch] at hpa hps hpn hpm
        obtain ⟨fall, -, htc⟩ := ht.channels c
        rw [htc]
        refine ⟨hpa.trans ha, hps.trans hrun, fun hm => ?_, fun hm hmode => ?_⟩
        · rw [hm] at hstate
          exact (hpn (by rw [hstate]; decide)).trans hstate
        · rw [hm] at hstate
          exact (hpm (hmode.imp_right fun h => by rw [hact, (hafter c hc).1]; exact h)).trans hstate
    · have hdue : armDue k v = false := harmDue.trans (decide_eq_false (Nat.not_le.2 hearly))
      have hself : startArm r k v = v := if_neg (by rw [hdue]; decide)
      rw [hentry, hself]
      refine ⟨hven, fun c hc8 hc hwait => ?_⟩
      have hv : (channel v c).arm = some k := beq_iff_eq.1 ((harm c).trans hc)
      have hch : channel (started r u) c = channel v c := (hst.quiet c (.inr (by rw [hself]; exact hv))).trans (by rw [hself])
      obtain ⟨fall', -, huc⟩ := hu.channels c
      have hvwait : (channel v c).state = .waiting := by
        rw [hchannel c hc]
        have hoff := ((comeIn_arm _ _ _).1 ((hstarts c).2 hc)).2
        exact comeIn_waiting (by rw [huc]; exact hwait) hoff
      obtain ⟨hpa, -, hpn, -⟩ := pouBoundary_channel r c u
      rw [hch] at hpa hpn
      obtain ⟨fall, -, htc⟩ := ht.channels c
      rw [htc]
      exact ⟨(hpn (by rw [hvwait]; decide)).trans hvwait, hpa.trans hv⟩
  · obtain ⟨u, hu, ht⟩ := boundary_bcu blocks s
    obtain ⟨hun, hur, hup⟩ := hu.schedule port
    obtain ⟨htn, htr, htp⟩ := ht.schedule port
    obtain ⟨hbn, hbr, hbp⟩ := bcuBoundary_schedule r port u
    obtain ⟨hup', hdown⟩ := rescheduled_spec r port u
    rw [hu.links, hun, hur, hup] at hup' hdown
    rw [← hbn, ← hbr, ← hbp, ← htn, ← htr, ← htp] at hup' hdown
    exact ⟨hup', hdown⟩

end
end Sys2Proof.Machine

/-! The Event Capture Unit (O53, O54). -/

namespace Sys2Proof.Machine

section
variable {s t : State} {i : Fin 4} {cap : Captured} {cd : Candidate}

/-! ## Captures (R163 to R166) -/

theorem modCapture_modCapture (k : Nat) (f g : CaptureIn → CaptureIn) (s : State) :
    modCapture k f (modCapture k g s) = modCapture k (f ∘ g) s := by
  simp [modCapture, List.modify_modify_eq]

/-- A change of one input is decided by what it makes of that input. -/
theorem modCapture_congr {k : Nat} {f g : CaptureIn → CaptureIn} (h : f (captureIn s k) = g (captureIn s k)) :
    modCapture k f s = modCapture k g s := by
  have hevc : s.evc.modify k f = s.evc.modify k g := by
    refine List.ext_getElem? fun j => ?_
    rw [List.getElem?_modify, List.getElem?_modify]
    by_cases hj : k = j
    · subst hj
      simp only [if_true]
      rw [captureIn, List.getD_eq_getElem?_getD] at h
      cases hc : s.evc[k]? with
      | none => rfl
      | some c => rw [hc] at h; exact congrArg some h
    · simp only [hj, if_false]
  rw [modCapture, modCapture, hevc]

/-- R161: the directions that a setting selects. -/
theorem selects_iff (e : EdgeSelect) (rising : Bool) :
    selects e rising = true ↔ e = .both ∨ e = .rising ∧ rising = true ∨ e = .falling ∧ rising = false := by
  cases e <;> cases rising <;> decide

/-- R166: an input's CAPTURE record, unless it is quiet. -/
def captureHanded (i : Fin 4) (quiet : Bool) (rising : Bool) (stamp : Nat) (interval : Option Nat) (count : Nat)
    (outcome : CaptureOutcome) (p : Option Int) (s : State) : State :=
  if quiet then s else stage (.capture i rising stamp interval count outcome p) s

/-- R163: an input as a capture counts it. -/
def counted (cap : Captured) (ci : CaptureIn) : CaptureIn :=
  { ci with latest := some cap, count := (ci.count + 1) % 65536, stepMark := false, unjudged := none }

theorem storeCapture_eq (cap : Captured) (ci : CaptureIn) : storeCapture cap ci = counted cap ci := rfl

/-- R163, R166: what a counted capture leaves before its client takes it: the record and the input's counts. -/
theorem captureRecord_spec {f : CaptureIn → CaptureIn} (hi : i.val < s.evc.length)
    (hf : ∀ ci, (f ci).quiet = ci.quiet ∧ (f ci).count = ci.count)
    (interval : Option Nat) (outcome : CaptureOutcome) (p : Option Int) :
    let u := captureRecord i cap interval outcome p (modCapture i.val f (modCapture i.val (storeCapture cap) s))
    u = { s with evc := u.evc, xch := u.xch } ∧
    u.xch = (captureHanded i (captureIn s i.val).quiet cap.rising cap.stamp interval (((captureIn s i.val).count + 1) % 65536)
      outcome p s).xch ∧
    captureIn u i.val = f (counted cap (captureIn s i.val)) ∧ ∀ j, j ≠ i.val → captureIn u j = captureIn s j := by
  intro u
  let m := modCapture i.val f (modCapture i.val (storeCapture cap) s)
  have hm : captureIn m i.val = f (counted cap (captureIn s i.val)) := by
    rw [captureIn_modCapture _ (by simpa using hi), captureIn_modCapture _ hi, storeCapture_eq]
  have hothers (j : Nat) (hj : j ≠ i.val) : captureIn m j = captureIn s j := by
    rw [captureIn_modCapture_ne _ _ hj, captureIn_modCapture_ne _ _ hj]
  obtain ⟨hquiet, hcount⟩ := hf (counted cap (captureIn s i.val))
  have hu : u = if (captureIn s i.val).quiet then m
      else stage (.capture i cap.rising cap.stamp interval (((captureIn s i.val).count + 1) % 65536) outcome p) m := by
    change captureRecord i cap interval outcome p m = _
    rw [captureRecord, hm, hquiet, hcount]
    rfl
  unfold captureHanded
  rw [hu]
  split
  · exact ⟨rfl, rfl, hm, hothers⟩
  · refine ⟨?_, stage_xch_congr _ rfl rfl, ?_, fun j hj => ?_⟩
    · generalize JournalBody.capture .. = body
      unfold stage
      split <;> rfl
    · simpa [captureIn] using hm
    · simpa [captureIn] using hothers j hj

/-- R164: a capture left unjudged. -/
theorem capture_unjudged {why : CaptureOutcome} (hi : i.val < s.evc.length) (hj : captureJudge s i.val = .inl why) :
    let t := capture i cap s
    t = { s with evc := t.evc, xch := t.xch } ∧
    t.xch = (captureHanded i (captureIn s i.val).quiet cap.rising cap.stamp (captureInterval (captureIn s i.val) cap.stamp)
      (((captureIn s i.val).count + 1) % 65536) why none s).xch ∧
    captureIn t i.val = { counted cap (captureIn s i.val) with unjudgedCount := min ((captureIn s i.val).unjudgedCount + 1) 65535 } ∧
    ∀ j, j ≠ i.val → captureIn t j = captureIn s j := by
  have ht : capture i cap s = captureRecord i cap (captureInterval (captureIn s i.val) cap.stamp) why none
      (modCapture i.val (fun c => { c with unjudgedCount := incSat16 c.unjudgedCount }) (modCapture i.val (storeCapture cap) s)) := by
    simp only [capture, hj]
  rw [ht]
  exact captureRecord_spec (f := fun c => { c with unjudgedCount := incSat16 c.unjudgedCount }) hi (fun _ => ⟨rfl, rfl⟩) _ why none

/-! ### A judged capture (R86, R88) -/

/-- R88: what a judged capture leaves of its client. -/
structure PulseTaken (n : Nat) (p : Int) (within : Bool) (s t : State) : Prop where
  client : ∃ st, client t n = { client s n with pulseError := some p, pulseV := judge within (client s n).pulseV, state := st }
  follows : stateFollows n .verdict s t
  others : ∀ m, m ≠ n → Machine.client t m = Machine.client s m
  queued : n ∈ t.crs.queue
  staging : s.xch.staging <+: t.xch.staging
  unchanged : (Machine.client t n).state = (Machine.client s n).state → t.bcu = s.bcu ∧ t.xch = s.xch

theorem pulseResult_taken {n : Nat} {p : Int} {within : Bool} (hv : (client s n).state ≠ .vacant) :
    PulseTaken n p within s (pulseResult n p within s) := by
  let m := modClient n (fun c => { c with pulseError := some p, pulseV := judge within c.pulseV }) s
  have hm : client m n = { client s n with pulseError := some p, pulseV := judge within (client s n).pulseV } :=
    client_modClient _ (lt_of_occupied hv)
  have hstate : (client m n).state = (client s n).state := by rw [hm]
  have hmv : (client m n).state ≠ .vacant := by rw [hstate]; exact hv
  obtain ⟨st, hst⟩ := evaluate_client n .verdict m
  have hands : Hands m (pulseResult n p within s) := queuePub_hands (evaluate_hands (.refl m))
  have hg : Grows s m := (modClient_hands (.refl s)).grows
  exact {
    client := ⟨st, by
      change client (evaluate n .verdict m) n = _
      rw [hst, hm]⟩
    follows := stateFollows_grown (evaluate_follows n .verdict m hmv) hstate hg rfl (queuePub_hands (.refl _)).grows
    others := fun k hk => ((evaluate_onSlot .verdict m).others k hk).trans (client_modClient_ne _ s hk)
    queued := mem_queuePub n _
    staging := hands.staged.1
    unchanged := fun hsame => by
      have hsame : (client (evaluate n .verdict m) n).state = (client m n).state := hsame.trans hstate.symm
      obtain e | ⟨-, hne, e⟩ := evaluate_cases n .verdict m
      · change (evaluate n .verdict m).bcu = _ ∧ (evaluate n .verdict m).xch = _
        rw [e]
        exact ⟨rfl, rfl⟩
      · rw [e] at hsame
        rw [(changeState_spec n _ .verdict m).1 (lt_of_occupied hmv)] at hsame
        exact absurd hsame hne }

/-- R165: the phase of a stamp within its second, from the nearest second on. -/
theorem pulseErrorOf_eq (stamp delay : Nat) : pulseErrorOf stamp delay = ((stamp % 16000000000 : Nat) : Int) -
    (if stamp % 16000000000 < 8000000000 then 0 else 16000000000) - delay := by
  have hsec : sixPerSec = 16000000000 := rfl
  unfold pulseErrorOf wrapSecond
  rw [hsec]
  dsimp only
  split_ifs <;> omega

/-- R88, R163 to R166: a judged capture. -/
theorem capture_judged {n : Nat} (hi : i.val < s.evc.length) (hj : captureJudge s i.val = .inr n)
    (hv : (client s n).state ≠ .vacant) :
    let ci := captureIn s i.val
    let p := pulseErrorOf cap.stamp ci.wiringDelay
    let within := pulseWithin p (client s n)
    let outcome : CaptureOutcome := if within then .within else .beyond
    let handed := captureHanded i ci.quiet cap.rising cap.stamp (captureInterval ci cap.stamp) ((ci.count + 1) % 65536) outcome (some p) s
    let t := capture i cap s
    ∃ u, PulseTaken n p within u t ∧ u = { s with evc := u.evc, xch := handed.xch } ∧ t.mem = s.mem ∧
      captureIn t i.val = if within then { counted cap ci with withinCount := min (ci.withinCount + 1) 65535 }
        else { counted cap ci with beyondCount := min (ci.beyondCount + 1) 65535 } := by
  intro ci p within outcome handed t
  have hpulse (u : State) : (pulseResult n p within u).evc = u.evc ∧ (pulseResult n p within u).mem = u.mem := by simp
  have hfinal (f : CaptureIn → CaptureIn) (hf : ∀ ci, (f ci).quiet = ci.quiet ∧ (f ci).count = ci.count)
      (ht : t = pulseResult n p within (captureRecord i cap (captureInterval ci cap.stamp) outcome (some p)
        (modCapture i.val f (modCapture i.val (storeCapture cap) s)))) :
      ∃ u, PulseTaken n p within u t ∧ u = { s with evc := u.evc, xch := handed.xch } ∧ t.mem = s.mem ∧
        captureIn t i.val = f (counted cap ci) := by
    obtain ⟨heq, hxch, hcount, -⟩ := captureRecord_spec (cap := cap) hi hf (captureInterval ci cap.stamp) outcome (some p)
    rw [ht]
    generalize captureRecord i cap (captureInterval ci cap.stamp) outcome (some p)
      (modCapture i.val f (modCapture i.val (storeCapture cap) s)) = u at *
    have hcu : client u n = client s n := by rw [heq]; rfl
    refine ⟨u, pulseResult_taken (by rw [hcu]; exact hv), ?_, ?_, ?_⟩
    · rw [← hxch]; exact heq
    · rw [(hpulse u).2, heq]
    · rw [captureIn, (hpulse u).1]; exact hcount
  cases hw : within with
  | true =>
    obtain ⟨u, htaken, heq, hmem, hcount⟩ := hfinal (fun c => { c with withinCount := incSat16 c.withinCount }) (fun _ => ⟨rfl, rfl⟩) (by
      simp only [t, capture, hj]
      rw [show outcome = .within from if_pos hw, hw]
      exact if_pos hw)
    rw [hw] at htaken
    exact ⟨u, htaken, heq, hmem, hcount.trans (if_pos rfl).symm⟩
  | false =>
    obtain ⟨u, htaken, heq, hmem, hcount⟩ := hfinal (fun c => { c with beyondCount := incSat16 c.beyondCount }) (fun _ => ⟨rfl, rfl⟩) (by
      simp only [t, capture, hj]
      rw [show outcome = .beyond from if_neg (by rw [hw]; decide), hw]
      exact if_neg (by rw [show pulseWithin _ (client _ n) = false from hw]; decide))
    rw [hw] at htaken
    exact ⟨u, htaken, heq, hmem, hcount.trans (if_neg (by decide)).symm⟩

end
section
variable {s t : State} {i : Fin 4} {cap : Captured} {cd : Candidate}

/-! ### When a capture is judged (R164) -/

/-- R164: why a capture of an input is left unjudged, where it is. -/
def unjudgedWhy (s : State) (ci : CaptureIn) : CaptureOutcome :=
  match ci.unjudged with
  | some .setup => .setup
  | some .step => .step
  | none => match ci.slot with
    | none => .noClient
    | some n => if (client s n).state = .vacant then .vacant else .mismatch

theorem captureJudge_unjudged (h : (captureIn s i.val).unjudged ≠ none ∨ ∀ n, (captureIn s i.val).slot = some n →
    (client s n).state = .vacant ∨ (client s n).config.capture ≠ some i) :
    captureJudge s i.val = .inl (unjudgedWhy s (captureIn s i.val)) := by
  unfold captureJudge unjudgedWhy
  dsimp only
  cases hu : (captureIn s i.val).unjudged with
  | some w => cases w <;> rfl
  | none =>
    have h := h.resolve_left (· hu)
    cases hslot : (captureIn s i.val).slot with
    | none => rfl
    | some n =>
      dsimp only
      by_cases hv : (client s n).state = .vacant
      · rw [if_pos hv, if_pos hv]
      · have hne := (h n hslot).resolve_left hv
        have hany : (client s n).config.capture.any (fun c => c.val == i.val) = false := by
          cases hcap : (client s n).config.capture with
          | none => rfl
          | some c => exact beq_false_of_ne fun e => hne (by rw [hcap, Fin.ext e])
        rw [if_neg hv, if_neg hv, if_neg (by rw [hany]; decide)]

theorem captureJudge_judged {n : Nat} (hu : (captureIn s i.val).unjudged = none) (hslot : (captureIn s i.val).slot = some n)
    (hv : (client s n).state ≠ .vacant) (hc : (client s n).config.capture = some i) : captureJudge s i.val = .inr n := by
  unfold captureJudge
  dsimp only
  rw [hu, hslot]
  dsimp only
  rw [if_neg hv, hc, if_pos (by simp)]

/-- R164: what a judgement looks at. -/
theorem captureJudge_congr {u : State} (hcrs : u.crs = s.crs) (hu : (captureIn u i.val).unjudged = (captureIn s i.val).unjudged)
    (hslot : (captureIn u i.val).slot = (captureIn s i.val).slot) : captureJudge u i.val = captureJudge s i.val := by
  have hclient (n : Nat) : client u n = client s n := by rw [client, client, hcrs]
  simp only [captureJudge, hu, hslot, hclient]

/-! ### Edges and confirmation (R161, R162) -/

theorem lineChange_eq (i : Fin 4) (level : Bool) (at_ : Instant) (s : State) : lineChange i level at_ s =
    modCapture i.val (fun c => { c with
      line := level
      candidate := if c.edge = .off then c.candidate
        else if level = c.settled then none
        else if c.candidate.isSome then c.candidate
        else some { stamp := s.tbs.stamp at_, rising := level, confirmAt := s.tbs.stamp at_ + c.minWidth * 16 } }) s := by
  unfold lineChange
  dsimp only
  split
  next hoff =>
    refine modCapture_congr ?_
    rw [if_pos hoff]
  next hoff =>
    split
    next hl =>
      rw [modCapture_modCapture]
      refine modCapture_congr ?_
      dsimp only [Function.comp]
      rw [if_neg hoff, if_pos hl]
    next hl =>
      split
      next hc =>
        refine modCapture_congr ?_
        rw [if_neg hoff, if_neg hl, if_pos hc]
      next hc =>
        rw [modCapture_modCapture]
        refine modCapture_congr ?_
        dsimp only [Function.comp]
        rw [if_neg hoff, if_neg hl, if_neg hc]

/-- R162: an input whose candidate edge is confirmed, before a capture. -/
def settledBy (cd : Candidate) (c : CaptureIn) : CaptureIn := { c with settled := cd.rising, candidate := none }

theorem confirmIf_early {reached : Nat → Bool} (h : ∀ cd, (captureIn s i.val).candidate = some cd → reached cd.confirmAt = false) :
    confirmIf reached i s = s := by
  unfold confirmIf
  split
  · rfl
  next cd hcd => exact if_neg (by rw [h cd hcd]; decide)

theorem confirmIf_reached {reached : Nat → Bool} (hcd : (captureIn s i.val).candidate = some cd) (h : reached cd.confirmAt = true) :
    confirmIf reached i s = if selects (captureIn s i.val).edge cd.rising = true then
      capture i { stamp := cd.stamp, rising := cd.rising } (modCapture i.val (settledBy cd) s)
    else modCapture i.val (settledBy cd) s := by
  unfold confirmIf
  rw [hcd]
  exact if_pos h

theorem captureIn_settled (hcd : (captureIn s i.val).candidate = some cd) :
    captureIn (modCapture i.val (settledBy cd) s) i.val = settledBy cd (captureIn s i.val) :=
  captureIn_modCapture _ (captureIn_candidate hcd)

theorem captureHanded_xch {u : State} {quiet rising : Bool} {stamp count : Nat} {interval : Option Nat} {outcome : CaptureOutcome}
    {p : Option Int} (hx : u.xch = s.xch) (ht : u.tbs = s.tbs) :
    (captureHanded i quiet rising stamp interval count outcome p u).xch =
      (captureHanded i quiet rising stamp interval count outcome p s).xch := by
  unfold captureHanded
  split
  · exact hx
  · exact stage_xch_congr _ hx (by rw [ht])

/-- R161 to R166: a candidate that is confirmed as a capture left unjudged. -/
theorem confirmIf_unjudged_capture {reached : Nat → Bool} (hcd : (captureIn s i.val).candidate = some cd)
    (h : reached cd.confirmAt = true) (hsel : selects (captureIn s i.val).edge cd.rising = true) {why : CaptureOutcome}
    (hj : captureJudge s i.val = .inl why) :
    let ci := captureIn s i.val
    let t := confirmIf reached i s
    t = { s with evc := t.evc, xch := t.xch } ∧
    t.xch = (captureHanded i ci.quiet cd.rising cd.stamp (captureInterval ci cd.stamp) ((ci.count + 1) % 65536) why none s).xch ∧
    captureIn t i.val = { counted { stamp := cd.stamp, rising := cd.rising } (settledBy cd ci) with
      unjudgedCount := min (ci.unjudgedCount + 1) 65535 } ∧
    ∀ j, j ≠ i.val → captureIn t j = captureIn s j := by
  have hi := captureIn_candidate hcd
  have hin := captureIn_settled hcd
  rw [confirmIf_reached hcd h, if_pos hsel]
  have hj1 : captureJudge (modCapture i.val (settledBy cd) s) i.val = .inl why := by
    rw [← hj]
    refine captureJudge_congr rfl ?_ ?_ <;> rw [hin] <;> rfl
  obtain ⟨heq, hxch, hcount, hothers⟩ := capture_unjudged (cap := { stamp := cd.stamp, rising := cd.rising })
    (s := modCapture i.val (settledBy cd) s) (by simpa using hi) hj1
  rw [hin] at hxch hcount
  refine ⟨heq, hxch.trans ?_, hcount, fun j hj => (hothers j hj).trans (captureIn_modCapture_ne _ _ hj)⟩
  exact captureHanded_xch rfl rfl

theorem captureHanded_grows {quiet rising : Bool} {stamp count : Nat} {interval : Option Nat} {outcome : CaptureOutcome}
    {p : Option Int} {u : State} (hx : u.xch = (captureHanded i quiet rising stamp interval count outcome p s).xch)
    (hcrs : u.crs = s.crs) (hbcu : u.bcu = s.bcu) : Grows s u := by
  refine ⟨?_, fun n hn => hcrs ▸ hn, fun q n hn => by rwa [inRoll, beaconPort, hbcu]⟩
  rw [hx, captureHanded]
  split
  · exact List.prefix_refl _
  · exact stage_prefix _ s

/-- Settles O53: the candidate edge by the line, the confirmation by whether its capture is judged. -/
theorem capturesJudged : Obligations.CapturesJudged := by
  intro s i ci
  refine ⟨fun level at_ => congrArg Host.Outcome.next (lineChange_eq i level at_ s),
    fun hearly => congrArg Host.Outcome.next (confirmIf_early hearly), fun cd hcd hreached => ?_⟩
  intro settled chosen counted' err interval handed why
  have hsel : selects ci.edge cd.rising = true ↔ chosen := selects_iff _ _
  refine ⟨fun hno => congrArg Host.Outcome.next ?_, fun hyes hun => ?_, fun n hyes hu hslot hv hc => ?_⟩
  · rw [confirmIf_reached hcd hreached, if_neg (mt hsel.1 hno)]
    exact modCapture_congr rfl
  · obtain ⟨heq, hxch, hcount, -⟩ := confirmIf_unjudged_capture hcd hreached (hsel.2 hyes) (captureJudge_unjudged hun)
    refine ⟨_, rfl, ?_, ?_, hxch, hcount⟩
    · rw [heq]
    · rw [heq]
  · have hi := captureIn_candidate hcd
    have hin := captureIn_settled hcd
    let m := modCapture i.val (settledBy cd) s
    have hjudge : captureJudge m i.val = .inr n := by
      rw [captureJudge_congr (s := s) (u := m) rfl (by rw [hin]; rfl) (by rw [hin]; rfl)]
      exact captureJudge_judged hu hslot hv hc
    have hrun : exec (.captureConfirmation i) s = .next (capture i { stamp := cd.stamp, rising := cd.rising } m) :=
      congrArg Host.Outcome.next ((confirmIf_reached hcd hreached).trans (if_pos (hsel.2 hyes)))
    obtain ⟨u, htaken, heq, hmem, hcount⟩ := capture_judged (cap := { stamp := cd.stamp, rising := cd.rising }) (s := m)
      (by simpa [m] using hi) hjudge hv
    have herr : pulseErrorOf cd.stamp (captureIn m i.val).wiringDelay = err := by rw [hin]; exact pulseErrorOf_eq _ _
    have hwithin : pulseWithin err (client m n) = decide (err.natAbs ≤ (client s n).config.pulseTol * 16) := rfl
    dsimp only at htaken heq hcount
    rw [herr, hwithin] at htaken heq hcount
    rw [hrun]
    generalize capture i { stamp := cd.stamp, rising := cd.rising } m = t at *
    have hmc : client m = client s := rfl
    have hux : u.xch = (handed (if decide (err.natAbs ≤ (client s n).config.pulseTol * 16) then .within else .beyond) (some err)).xch := by
      rw [heq, hin]
      exact captureHanded_xch (s := s) (u := m) rfl rfl
    have hucrs : u.crs = s.crs := by rw [heq]; rfl
    have hubcu : u.bcu = s.bcu := by rw [heq]; rfl
    have hcu : ∀ k, client u k = client s k := fun k => by rw [client, client, hucrs]
    clear heq
    obtain ⟨⟨st, hst⟩, hfollows, hothers, hqueued, hstaging, hunchanged⟩ := htaken
    rw [hcu] at hst hunchanged
    rw [hux, hubcu] at hunchanged
    rw [hux] at hstaging
    have hdec (P : Prop) [Decidable P] : (if decide P = true then CaptureOutcome.within else .beyond) = if P then .within else .beyond := by
      simp only [decide_eq_true_eq]
    have hg : Grows s u := captureHanded_grows hux hucrs hubcu
    have hclient : client t n = { client s n with pulseError := some err, pulseV := (client t n).pulseV, state := (client t n).state } := by
      rw [hst]
    have hpulse : (client t n).pulseV = judge (decide (err.natAbs ≤ (client s n).config.pulseTol * 16)) (client s n).pulseV := by rw [hst]
    refine ⟨t, rfl, hmem, by rw [hst], hqueued, fun k hk => (hothers k hk).trans (hcu k),
      stateFollows_grown hfollows (by rw [hcu]) hg rfl (.refl t), hclient, fun hsame => ?_, ?_⟩
    · obtain ⟨hb, hx⟩ := hunchanged hsame
      rw [hdec] at hx
      exact ⟨hb, hx⟩
    · rw [hpulse, judge_eq]
      by_cases hle : err.natAbs ≤ (client s n).config.pulseTol * 16
      · rw [decide_eq_true hle, if_pos rfl] at hcount hstaging
        rw [if_pos hle, decide_eq_true hle, if_pos rfl]
        rw [hin] at hcount
        exact ⟨hstaging, hcount, rfl, rfl, rfl⟩
      · rw [decide_eq_false hle, if_neg (by decide)] at hcount hstaging
        rw [if_neg hle, decide_eq_false hle, if_neg (by decide)]
        rw [hin] at hcount
        exact ⟨hstaging, hcount, rfl, rfl, rfl⟩

end
section
variable {s t : State} {p : CaptureSetupP}

/-! ## CAPTURE-SETUP (R159, R160) -/

/-- R159: the input that CAPTURE-SETUP names. -/
theorem captureInputOf_eq (b : Byte) : captureInputOf b = if h : b.toNat < 4 then some ⟨b.toNat, h⟩ else none := rfl

theorem edgeOf_none_iff (b : Byte) : edgeOf b = none ↔ 3 < b.toNat := by
  revert b
  decide

theorem edgeOf_both {b : Byte} {e : EdgeSelect} (h : edgeOf b = some e) : e = .both ↔ b = 3 := by
  unfold edgeOf at h
  split_ifs at h with h0 h1 h2 h3 <;> cases h <;> simp_all

/-- R159: the slot that CAPTURE-SETUP names. -/
theorem assocOf_eq (n : BitVec 16) : assocOf n = if n = 65535 then some none else if 256 ≤ n.toNat then none else some (some n.toNat) := by
  unfold assocOf
  split_ifs <;> first | rfl | omega

/-- R159: an order of CAPTURE-SETUP that is refused. -/
def setupBad (p : CaptureSetupP) : Prop :=
  3 < p.input.toNat ∨ 3 < p.edge.toNat ∨ (p.slot ≠ 65535 ∧ 256 ≤ p.slot.toNat) ∨ (p.edge = 3 ∧ p.slot ≠ 65535)

theorem orderCaptureSetup_bad (h : setupBad p) (slot : Nat) (s : State) : orderCaptureSetup p slot s = finish slot .badField s := by
  unfold orderCaptureSetup
  split
  next i edge assoc hi he ha =>
    refine if_pos ?_
    rw [captureInputOf_eq] at hi
    rw [assocOf_eq] at ha
    have hin : p.input.toNat < 4 := by by_contra hn; rw [dif_neg hn] at hi; cases hi
    have hedge : ¬ 3 < p.edge.toNat := by rw [← edgeOf_none_iff, he]; exact nofun
    have hslot : p.slot = 65535 ∨ p.slot.toNat < 256 ∧ assoc = some p.slot.toNat := by
      by_cases hn : p.slot = 65535
      · exact .inl hn
      · rw [if_neg hn] at ha
        by_cases hl : 256 ≤ p.slot.toNat
        · rw [if_pos hl] at ha; cases ha
        · rw [if_neg hl] at ha; exact .inr ⟨by omega, (Option.some.inj ha).symm⟩
    obtain h | h | ⟨hne, h⟩ | ⟨h3, hne⟩ := h
    · omega
    · exact absurd h hedge
    · exact absurd (hslot.resolve_left hne).1 (by omega)
    · obtain ⟨-, rfl⟩ := hslot.resolve_left hne
      simp [(edgeOf_both he).2 h3]
  next => rfl

/-- R159: an order of CAPTURE-SETUP that passes. -/
theorem orderCaptureSetup_passed (h : ¬ setupBad p) {edge : EdgeSelect} (he : edgeOf p.edge = some edge) : ∃ i : Fin 4, i.val = p.input.toNat ∧
    ∀ slot s, orderCaptureSetup p slot s =
      let assoc : Option Nat := if p.slot = 65535 then none else some p.slot.toNat
      let s1 := modCapture i.val (setupInput edge assoc p) s
      let s2 := if (captureIn s i.val).edge = .off then s1 else confirmIf (fun t => decide (t ≤ now s)) i s1
      complete slot (okOr (captureWidth p.minWidth.toNat != p.minWidth.toNat || decide (1600000 < p.wiringDelay.toNat)))
        (captureData (captureIn s2 i.val)) s2 := by
  unfold setupBad at h
  push Not at h
  obtain ⟨hin, -, hslot, hboth⟩ := h
  have hi : captureInputOf p.input = some ⟨p.input.toNat, by omega⟩ := by rw [captureInputOf_eq, dif_pos]
  have ha : assocOf p.slot = some (if p.slot = 65535 then none else some p.slot.toNat) := by
    rw [assocOf_eq]
    split_ifs with hn hl
    · rfl
    · exact absurd (hslot hn) (by omega)
    · rfl
  refine ⟨⟨p.input.toNat, by omega⟩, rfl, fun slot s => ?_⟩
  unfold orderCaptureSetup
  rw [hi, he, ha]
  refine if_neg ?_
  by_cases hn : p.slot = 65535
  · simp [hn]
  · have : edge ≠ .both := fun e => hn (hboth ((edgeOf_both he).1 e))
    simp [this]

theorem captureWidth_eq (n : Nat) : captureWidth n = max 100 (min 100000 n) / 100 * 100 := by
  unfold captureWidth clampNat
  omega

/-- R160: the result of CAPTURE-SETUP. -/
theorem captureSetup_result (p : CaptureSetupP) :
    okOr (captureWidth p.minWidth.toNat != p.minWidth.toNat || decide (1600000 < p.wiringDelay.toNat)) =
      if max 100 (min 100000 p.minWidth.toNat) / 100 * 100 = p.minWidth.toNat ∧ p.wiringDelay.toNat ≤ 1600000 then .ok else .adjusted := by
  rw [captureWidth_eq]
  generalize max 100 (min 100000 p.minWidth.toNat) / 100 * 100 = w
  by_cases h1 : w = p.minWidth.toNat <;> by_cases h2 : p.wiringDelay.toNat ≤ 1600000 <;> simp [okOr, h1, h2]

/-! ### Layouts row by row -/

theorem laidOut_nil (bs : List Byte) : laidOut bs [] := nofun

theorem laidOut_cons (bs : List Byte) (off n : Nat) (v : Int) (rows : List (Nat × Nat × Int)) :
    laidOut bs ((off, n, v) :: rows) ↔ (fieldLe bs off n : Int) = v % (256 ^ n : Nat) ∧ laidOut bs rows := List.forall_mem_cons

/-- R160: a capture's time and direction and the four counts. -/
def captureRow (stamp code a b c d : Nat) : List Byte :=
  timeBytes stamp ++ le 1 code ++ le 2 a ++ le 2 b ++ le 2 c ++ le 2 d

theorem captureRow_fields (stamp code a b c d : Nat) :
    (captureRow stamp code a b c d).length = 22 ∧
    laidOut (captureRow stamp code a b c d) [(0, 8, (stamp / 16000000000 : Nat)), (8, 4, (stamp % 16000000000 / 16 : Nat)),
      (12, 1, (stamp % 16 : Nat)), (13, 1, code)] ∧
    laidOut (captureRow stamp code a b c d) [(14, 2, a), (16, 2, b), (18, 2, c), (20, 2, d)] := by
  have hsec : secOf stamp = stamp / 16000000000 := rfl
  have hns : nsOf stamp = stamp % 16000000000 / 16 := rfl
  have hsix : sixOf stamp = stamp % 16 := rfl
  refine ⟨by simp [captureRow], ?_, ?_⟩
  · simp [laidOut_cons, laidOut_nil, captureRow, timeBytes, fieldLe_skip, fieldLe_here, hsec, hns, hsix]
  · simp [laidOut_cons, laidOut_nil, captureRow, fieldLe_skip, fieldLe_here, fieldLe_all]

/-- R160: the result data of CAPTURE-SETUP. -/
theorem captureData_fields (ci : CaptureIn) : (captureData ci).length = 22 ∧
    laidOut (captureData ci) [(14, 2, ci.count), (16, 2, ci.withinCount), (18, 2, ci.beyondCount), (20, 2, ci.unjudgedCount)] ∧
    (ci.latest = none → laidOut (captureData ci) [(0, 8, 0), (8, 4, 0), (12, 1, 0), (13, 1, 0)]) ∧
    ∀ l, ci.latest = some l → laidOut (captureData ci) [(0, 8, (l.stamp / 16000000000 : Nat)),
      (8, 4, (l.stamp % 16000000000 / 16 : Nat)), (12, 1, (l.stamp % 16 : Nat)), (13, 1, if l.rising then 1 else 2)] := by
  cases hl : ci.latest with
  | none =>
    have hdata : captureData ci = captureRow 0 0 ci.count ci.withinCount ci.beyondCount ci.unjudgedCount := by
      simp only [captureData, hl]
      rfl
    obtain ⟨hlen, hstamp, hcounts⟩ := captureRow_fields 0 0 ci.count ci.withinCount ci.beyondCount ci.unjudgedCount
    rw [hdata]
    exact ⟨hlen, hcounts, fun _ => hstamp, nofun⟩
  | some l =>
    have hdata : captureData ci =
        captureRow l.stamp (if l.rising then 1 else 2) ci.count ci.withinCount ci.beyondCount ci.unjudgedCount := by
      simp only [captureData, hl]
      rfl
    obtain ⟨hlen, hstamp, hcounts⟩ :=
      captureRow_fields l.stamp (if l.rising then 1 else 2) ci.count ci.withinCount ci.beyondCount ci.unjudgedCount
    rw [hdata]
    refine ⟨hlen, hcounts, nofun, fun m hm => ?_⟩
    obtain rfl := Option.some.inj hm
    cases hr : l.rising <;> rw [hr] at hstamp <;> exact hstamp

/-! ### The order -/

/-- R159, R160: the settings that CAPTURE-SETUP writes. -/
def writtenInput (edge : EdgeSelect) (p : CaptureSetupP) (ci : CaptureIn) : CaptureIn :=
  { ci with
    edge := edge, slot := if p.slot = 65535 then none else some p.slot.toNat, quiet := p.quiet != 0
    minWidth := max 100 (min 100000 p.minWidth.toNat) / 100 * 100, wiringDelay := min p.wiringDelay.toNat 1600000
    unjudged := some .setup }

/-- R160: an input as CAPTURE-SETUP leaves it, before a candidate is confirmed. -/
theorem setupInput_eq (edge : EdgeSelect) (p : CaptureSetupP) (ci : CaptureIn) :
    setupInput edge (if p.slot = 65535 then none else some p.slot.toNat) p ci =
      if ci.edge = .off then
        if edge = .off then writtenInput edge p ci
        else { writtenInput edge p ci with settled := ci.line, candidate := none, latest := none }
      else if edge = .off then { writtenInput edge p ci with candidate := none }
      else { writtenInput edge p ci with candidate := ci.candidate.map fun cd =>
        { cd with confirmAt := cd.stamp + max 100 (min 100000 p.minWidth.toNat) / 100 * 100 * 16 } } := by
  unfold setupInput writtenInput flagOf
  rw [captureWidth_eq]

/-- R160: the state after the settings, and after a candidate that is then confirmed. -/
def setupState (i : Fin 4) (edge : EdgeSelect) (p : CaptureSetupP) (s : State) : State :=
  let s1 := modCapture i.val (setupInput edge (if p.slot = 65535 then none else some p.slot.toNat) p) s
  if (captureIn s i.val).edge = .off then s1 else confirmIf (fun t => decide (t ≤ now s)) i s1

section
variable {i : Fin 4} {edge : EdgeSelect}

/-- What CAPTURE-SETUP leaves beyond its input: everything but the records handed on. -/
structure SetupStands (i : Fin 4) (s u : State) : Prop where
  rest : u = { s with evc := u.evc, xch := u.xch }
  others : ∀ j, j ≠ i.val → captureIn u j = captureIn s j
  store : u.xch.store = s.xch.store

theorem modCapture_setupStands (f : CaptureIn → CaptureIn) (s : State) : SetupStands i s (modCapture i.val f s) :=
  ⟨rfl, fun _ hj => captureIn_modCapture_ne f s hj, rfl⟩

theorem SetupStands.trans {u : State} (h : SetupStands i s t) (k : SetupStands i t u) : SetupStands i s u :=
  ⟨by rw [k.rest, h.rest], fun j hj => (k.others j hj).trans (h.others j hj), k.store.trans h.store⟩

/-- R160: an input that has no candidate to confirm. -/
theorem setupState_written (hi : i.val < s.evc.length) (h : (captureIn s i.val).edge = .off ∨ edge = .off ∨
    ∀ cd, (captureIn s i.val).candidate = some cd → now s < cd.stamp + max 100 (min 100000 p.minWidth.toNat) / 100 * 100 * 16) :
    SetupStands i s (setupState i edge p s) ∧ captureIn (setupState i edge p s) i.val =
      setupInput edge (if p.slot = 65535 then none else some p.slot.toNat) p (captureIn s i.val) := by
  have hu : setupState i edge p s =
      modCapture i.val (setupInput edge (if p.slot = 65535 then none else some p.slot.toNat) p) s := by
    unfold setupState
    dsimp only
    by_cases hb : (captureIn s i.val).edge = .off
    · exact if_pos hb
    rw [if_neg hb]
    refine confirmIf_early fun cd hcd => ?_
    rw [captureIn_modCapture _ hi, setupInput_eq, if_neg hb] at hcd
    by_cases he : edge = .off
    · rw [if_pos he] at hcd; cases hcd
    · rw [if_neg he] at hcd
      obtain ⟨c, hc, rfl⟩ := Option.map_eq_some_iff.1 hcd
      exact decide_eq_false (Nat.not_le.2 (((h.resolve_left hb).resolve_left he) c hc))
  rw [hu]
  exact ⟨modCapture_setupStands _ s, captureIn_modCapture _ hi⟩

/-- R160: an input whose candidate is confirmed at once. -/
theorem setupState_confirmed {cd : Candidate} (hi : i.val < s.evc.length) (hb : (captureIn s i.val).edge ≠ .off) (he : edge ≠ .off)
    (hcd : (captureIn s i.val).candidate = some cd)
    (hreached : cd.stamp + max 100 (min 100000 p.minWidth.toNat) / 100 * 100 * 16 ≤ now s) :
    let ci := captureIn s i.val
    let settled : CaptureIn := { writtenInput edge p ci with settled := cd.rising, candidate := none }
    let u := setupState i edge p s
    SetupStands i s u ∧ (selects edge cd.rising = false → captureIn u i.val = settled) ∧
    (selects edge cd.rising = true → captureIn u i.val = { settled with
        unjudged := none, stepMark := false, latest := some { stamp := cd.stamp, rising := cd.rising }
        count := (ci.count + 1) % 65536, unjudgedCount := min (ci.unjudgedCount + 1) 65535 } ∧
      (p.quiet = 0 → handedOn s u (.capture i cd.rising cd.stamp (captureInterval ci cd.stamp) ((ci.count + 1) % 65536) .setup none))) := by
  intro ci settled u
  let s1 := modCapture i.val (setupInput edge (if p.slot = 65535 then none else some p.slot.toNat) p) s
  have hs1 : captureIn s1 i.val = { writtenInput edge p ci with
      candidate := some { cd with confirmAt := cd.stamp + max 100 (min 100000 p.minWidth.toNat) / 100 * 100 * 16 } } := by
    rw [captureIn_modCapture _ hi, setupInput_eq, if_neg hb, if_neg he, hcd]
    rfl
  have hu : u = confirmIf (fun t => decide (t ≤ now s)) i s1 := if_neg hb
  have hcd1 : (captureIn s1 i.val).candidate =
      some { cd with confirmAt := cd.stamp + max 100 (min 100000 p.minWidth.toNat) / 100 * 100 * 16 } := by rw [hs1]
  have hreached1 := decide_eq_true hreached
  have hedge1 : (captureIn s1 i.val).edge = edge := by rw [hs1]; rfl
  have hstand1 : SetupStands i s s1 := modCapture_setupStands _ s
  cases hsel : selects edge cd.rising with
  | false =>
    have hu' : u = modCapture i.val (settledBy { cd with confirmAt := cd.stamp + max 100 (min 100000 p.minWidth.toNat) / 100 * 100 * 16 }) s1 := by
      rw [hu, confirmIf_reached hcd1 hreached1, hedge1, if_neg (by rw [hsel]; decide)]
    refine ⟨by rw [hu']; exact hstand1.trans (modCapture_setupStands _ s1), fun _ => ?_, nofun⟩
    rw [hu', captureIn_settled hcd1, hs1]
    rfl
  | true =>
    have hj : captureJudge s1 i.val = .inl .setup := by
      have := captureJudge_unjudged (s := s1) (i := i) (.inl (by rw [hs1]; exact nofun))
      rw [this, hs1]
      rfl
    obtain ⟨heq, hxch, hcount, hothers⟩ :=
      confirmIf_unjudged_capture (reached := fun t => decide (t ≤ now s)) hcd1 hreached1 (by rw [hedge1]; exact hsel) hj
    rw [← hu] at heq hxch hcount hothers
    have hstore : u.xch.store = s.xch.store := by
      rw [hxch, captureHanded]
      split
      · rfl
      · exact (stage_store ..).trans rfl
    refine ⟨hstand1.trans ⟨heq, hothers, hstore.trans hstand1.store.symm⟩, nofun, fun _ => ⟨?_, fun hquiet => ?_⟩⟩
    · rw [hcount, hs1]
      rfl
    · have hq : (captureIn s1 i.val).quiet = false := by
        rw [hs1]
        simp [writtenInput, hquiet]
      rw [hs1] at hxch
      rw [captureHanded, if_neg (by rw [← hs1, hq]; decide)] at hxch
      have hrecord := handedOn_stage (.capture i cd.rising cd.stamp (captureInterval ci cd.stamp) ((ci.count + 1) % 65536) .setup none) s1
      refine handedOn_mono hrecord (le_refl _) ?_
      rw [hxch]
      exact List.prefix_refl _

end

/-- Settles O54: the checks, the settings by the edge setting before and after, and a candidate confirmed at once. -/
theorem captureSetupWritesSettings : Obligations.CaptureSetupWritesSettings := by
  intro s src p hfree hlen slot bad width
  refine ⟨fun hbad => ?_, fun edge hgood he => ?_⟩
  · refine congrArg Host.Outcome.next ((handOver_run _ _ hfree).trans ?_)
    rw [orderCaptureSetup_bad hbad, finish_take]
  · obtain ⟨i, hi, hrun⟩ := orderCaptureSetup_passed (p := p) hgood he
    let m := takeOrder src.slot.val src.cookie (.captureSetup p) s
    let u := setupState i edge p m
    let t := complete src.slot.val (okOr (captureWidth p.minWidth.toNat != p.minWidth.toNat ||
      decide (1600000 < p.wiringDelay.toNat))) (captureData (captureIn u i.val)) u
    have hexec : exec (.captureSetup src p) s = .next t :=
      congrArg Host.Outcome.next ((handOver_run _ _ hfree).trans (hrun _ _))
    have hlen4 : i.val < m.evc.length := by
      have := i.isLt
      change i.val < s.evc.length
      omega
    have hin (k : Nat) : captureIn t k = captureIn u k := rfl
    have hstands : SetupStands i m u := by
      by_cases h : (captureIn m i.val).edge = .off ∨ edge = .off ∨ ∀ cd, (captureIn m i.val).candidate = some cd →
          now m < cd.stamp + max 100 (min 100000 p.minWidth.toNat) / 100 * 100 * 16
      · exact (setupState_written hlen4 h).1
      · push Not at h
        obtain ⟨hb, hon, cd, hcd, hle⟩ := h
        exact (setupState_confirmed hlen4 hb hon hcd hle).1
    have hwritten := setupState_written (s := m) (p := p) (edge := edge) hlen4
    refine ⟨t, hexec, ?_, ?_⟩
    · change complete _ _ _ u = _
      rw [hstands.rest]; rfl
    · intro i' before ci written
      have hbefore : before = captureIn m i.val := by rw [hi]; rfl
      have hci : ci = captureIn u i.val := by
        change captureIn u p.input.toNat = _
        rw [hi]
      rw [hbefore, hci]
      have hw : written = writtenInput edge p (captureIn m i.val) := by
        rw [← hbefore]; rfl
      refine ⟨fun j hj => hstands.others j (by rw [hi]; exact hj), ⟨captureData (captureIn u i.val), ?_, captureData_fields _⟩, ?_⟩
      · rw [← captureSetup_result]
        exact storeEntry_worked rfl hstands.store
      · rw [hw]
        refine ⟨fun hoff hon => ?_, fun hoff hoff' => ?_, fun hon hoff => ?_, fun hb hon => ⟨fun hnone => ?_, fun cd hcd => ?_⟩⟩
        · rw [(hwritten (.inl hoff)).2, setupInput_eq, if_pos hoff, if_neg hon]
        · rw [(hwritten (.inl hoff)).2, setupInput_eq, if_pos hoff, if_pos hoff']
        · rw [(hwritten (.inr (.inl hoff))).2, setupInput_eq, if_neg hon, if_pos hoff]
        · rw [(hwritten (.inr (.inr (by rw [hnone]; exact nofun)))).2, setupInput_eq, if_neg hb, if_neg hon, hnone]
          simp [writtenInput, hnone]
        · intro time settled chosen interval
          have hsel : selects edge cd.rising = true ↔ chosen := selects_iff _ _
          refine ⟨fun hlt => ?_, fun hle hno => ?_, fun hle hyes => ?_⟩
          · have hearly : ∀ cd', (captureIn m i.val).candidate = some cd' →
                now m < cd'.stamp + max 100 (min 100000 p.minWidth.toNat) / 100 * 100 * 16 := by
              intro cd' hcd'
              obtain rfl := Option.some.inj (hcd.symm.trans hcd')
              exact hlt
            rw [(hwritten (.inr (.inr hearly))).2, setupInput_eq, if_neg hb, if_neg hon, hcd]
            rfl
          · exact (setupState_confirmed hlen4 hb hon hcd hle).2.1 (Bool.eq_false_iff.2 (mt hsel.1 hno))
          · obtain ⟨hcaptured, hrecord⟩ := (setupState_confirmed hlen4 hb hon hcd hle).2.2 (hsel.2 hyes)
            refine ⟨hcaptured, fun input hinput hquiet => ?_⟩
            obtain rfl : input = i := Fin.ext (hinput.trans hi.symm)
            have hint : interval = captureInterval (captureIn m input.val) cd.stamp := by
              simp only [interval, captureInterval]
              cases (captureIn m input.val).latest <;> rfl
            rw [hint]
            exact hrecord hquiet

end
end Sys2Proof.Machine

/-! The Pulse Output Unit's orders and edges (O51, O50). -/

namespace Sys2Proof.Machine

section
variable {s t : State} {p : PulseProgramP} {mode : PulseMode}

/-! ## PULSE-PROGRAM (R147) -/

theorem pulseModeOf_none_iff (b : Byte) : pulseModeOf b = none ↔ 4 < b.toNat := by
  revert b
  decide

/-- Ch. 8.2: the codes of the modes. -/
def pulseModeByte : PulseMode → Byte
  | .off => 0
  | .second => 1
  | .train => 2
  | .single => 3
  | .mark => 4

theorem pulseModeOf_some {b : Byte} (h : pulseModeOf b = some mode) : b = pulseModeByte mode := by
  revert b
  cases mode <;> decide

/-- R147: the fields of a PULSE-PROGRAM that its mode uses are out of their ranges. -/
def fieldsBad (p : PulseProgramP) : Prop :=
  let long := p.at16.toNat % 4294967296
  p.mode ≠ 0 ∧ (999999999 < p.at8.toNat ∨ p.at12.toNat < 1) ∨
  (p.mode = 1 ∨ p.mode = 3 ∨ p.mode = 4) ∧ 999999999 < p.at12.toNat ∨
  p.mode = 2 ∧ (long < 1000 ∨ 1000000000 < long ∨ 1000000000 % long ≠ 0 ∨ long ≤ p.at12.toNat) ∨
  p.mode = 4 ∧ (long < 1 ∨ 999999999 < long ∨ p.markClass.toNat < 1 ∨ 6 < p.markClass.toNat)

theorem scheduleOk_fields (h : pulseModeOf p.mode = some mode) : scheduleOk p (scheduleOf p mode) = true ↔ ¬ fieldsBad p := by
  have hmode := pulseModeOf_some h
  rw [scheduleOk_iff]
  unfold fieldsBad scheduleOf
  cases mode <;> simp [hmode, pulseModeByte] <;> omega

/-- R147: a PULSE-PROGRAM that is refused for its fields. -/
def programBad (p : PulseProgramP) : Prop :=
  4 < p.mode.toNat ∨ 7 < p.channel.toNat ∨ 1 < p.polarity.toNat ∨ fieldsBad p

theorem orderPulseProgram_bad (h : programBad p) (slot : Nat) (s : State) : orderPulseProgram p slot s = finish slot .badField s := by
  unfold orderPulseProgram
  split
  · rfl
  next mode hmode =>
    have hlisted : ¬ 4 < p.mode.toNat := by rw [← pulseModeOf_none_iff, hmode]; exact nofun
    refine if_pos ?_
    simp only [Bool.or_eq_true, decide_eq_true_eq, Bool.not_eq_true', or_assoc]
    refine (h.resolve_left hlisted).imp_right fun h => h.imp_right fun hf => ?_
    exact Bool.eq_false_iff.2 fun hok => (scheduleOk_fields hmode).1 hok hf

theorem orderPulseProgram_good (h : ¬ programBad p) (hmode : pulseModeOf p.mode = some mode) (slot : Nat) (s : State) :
    orderPulseProgram p slot s =
      if p.mode = 3 ∧ (p.at16.toNat * 1000000000 + p.at8.toNat) * 16 ≤ now s then finish slot .past s
      else modChannel p.channel.toNat (fun ch => { ch with pending := some { sched := scheduleOf p mode, slot := slot } })
        (replacePending p.channel.toNat s) := by
  unfold programBad at h
  push Not at h
  obtain ⟨-, hch, hpol, hfields⟩ := h
  have hok := (scheduleOk_fields hmode).2 hfields
  have hsingle : p.mode = 3 ↔ mode = .single := by
    have hcode := pulseModeOf_some hmode
    rw [hcode]
    cases mode <;> simp [pulseModeByte]
  unfold orderPulseProgram
  rw [hmode]
  refine (if_neg ?_).trans ?_
  · simp [hok]
    omega
  · by_cases hpast : p.mode = 3 ∧ (p.at16.toNat * 1000000000 + p.at8.toNat) * 16 ≤ now s
    · rw [if_pos hpast]
      refine if_pos ?_
      simp only [Bool.and_eq_true, beq_iff_eq, decide_eq_true_eq]
      exact ⟨hsingle.1 hpast.1, hpast.2⟩
    · rw [if_neg hpast]
      refine if_neg fun hc => hpast ?_
      simp only [Bool.and_eq_true, beq_iff_eq, decide_eq_true_eq] at hc
      exact ⟨hsingle.2 hc.1, hc.2⟩

theorem replacePending_pou (c : Nat) (s : State) : (replacePending c s).pou = s.pou ∧ (replacePending c s).mem = s.mem ∧
    (replacePending c s).xch.staging = s.xch.staging := by
  unfold replacePending
  split <;> exact ⟨rfl, rfl, rfl⟩

/-! ## PULSE-ARM (R150) -/

theorem inRange_iff (lo hi n : Nat) : inRange lo hi n = true ↔ lo ≤ n ∧ n ≤ hi := by
  simp [inRange]

/-- R150: a PULSE-ARM that is refused for its fields. -/
def armBad (p : PulseArmP) : Prop :=
  p.count.toNat < 1 ∨ 8 < p.count.toNat ∨ (∃ c ∈ armChannels p, 7 < c) ∨ ¬ (armChannels p).Nodup

theorem armBad_iff (p : PulseArmP) : (!inRange 1 8 p.count.toNat || (armChannels p).any (fun c => decide (7 < c)) ||
    !decide (armChannels p).Nodup) = true ↔ armBad p := by
  have hcount : inRange 1 8 p.count.toNat = false ↔ p.count.toNat < 1 ∨ 8 < p.count.toNat := by
    rw [Bool.eq_false_iff, Ne, inRange_iff]; omega
  simp only [Bool.or_eq_true, Bool.not_eq_true', hcount, List.any_eq_true, decide_eq_true_eq, decide_eq_false_iff_not, armBad,
    or_assoc]

theorem anyOff_iff {cs : List Nat} : cs.any (fun c => (channel s c).state == .off) = true ↔ ∃ c ∈ cs, (channel s c).state = .off := by
  simp

theorem anyBusy_iff {cs : List Nat} : cs.any (fun c => (channel s c).state != .ready) = true ↔ ∃ c ∈ cs, (channel s c).state ≠ .ready := by
  simp

/-- R150: the channels that a PULSE-ARM sets waiting. -/
theorem armed_channel {p : PulseArmP} (hlen : s.pou.channels.length = 8) (h : ¬ armBad p) (slot c : Nat) :
    channel (forEach (armChannels p) (fun c => modChannel c (fun ch => { ch with state := .waiting, arm := some slot })) s) c =
      if c ∈ armChannels p then { channel s c with state := .waiting, arm := some slot } else channel s c := by
  unfold armBad at h
  push Not at h
  obtain ⟨-, -, hlow, hnodup⟩ := h
  exact forEach_each (I := fun u => u.pou.channels.length = 8)
    (g := fun _ ch => { ch with state := .waiting, arm := some slot }) (fun x u hu => by simpa using hu)
    (fun x y u _ hy => channel_modChannel_ne _ u hy) (armChannels p)
    (fun x hx u hu => channel_modChannel _ (by have := hlow x hx; omega)) hnodup hlen c

end
section
variable {s t : State} {c k : Nat}

/-! ## A schedule that comes in (R148) -/

/-- R148: the channel state after a schedule of mode `mode` has come in, but for a SINGLE start that can no longer be driven. -/
def stateIn (ch : Channel) (mode : PulseMode) : ChannelState :=
  if mode = .off then .off else if ch.state = .off then .ready else ch.state

theorem transferState_eq (ch : Channel) (mode : PulseMode) : transferState ch.state mode = stateIn ch mode := by
  unfold transferState stateIn
  by_cases h : mode = .off
  · rw [if_pos h, if_pos h]
  · rw [if_neg h, if_neg h]
    cases ch.state <;> rfl

/-- R146, R148: the SINGLE start of a schedule that comes in can no longer be driven. -/
def missedIn (ch : Channel) (sc : Schedule) : Prop :=
  stateIn ch sc.mode = .running ∧ sc.mode = .single ∧
    ((∃ u, ch.runStart = some u ∧ sc.start * 16 < u) ∨ ∃ l, ch.lastRise = some l ∧ sc.start ≤ l)

/-- R148: a channel into which a schedule comes, field by field. -/
theorem transferred_spec (isOpen : Bool) (sc : Schedule) (ch : Channel) :
    let t := transferred isOpen sc ch
    t.active = sc ∧ t.lastRise = ch.lastRise ∧ t.runStart = ch.runStart ∧
    t.arm = (if sc.mode = .off then none else ch.arm) ∧
    (missedIn ch sc → t.state = .ready ∧ t.fall = none) ∧
    (¬ missedIn ch sc → t.state = stateIn ch sc.mode ∧
      t.fall = if sc.mode = .off ∨ sc.idleHigh ≠ ch.active.idleHigh ∨ sc.gated = true ∧ isOpen = false then none else ch.fall) := by
  have hoff : stateIn ch sc.mode = .off ↔ sc.mode = .off := by
    unfold stateIn
    by_cases h : sc.mode = .off
    · simp [h]
    · rw [if_neg h]
      by_cases hs : ch.state = .off <;> simp [h, hs]
  have hends : (sc.mode == .off || sc.idleHigh != ch.active.idleHigh || (sc.gated && !isOpen)) = true ↔
      sc.mode = .off ∨ sc.idleHigh ≠ ch.active.idleHigh ∨ sc.gated = true ∧ isOpen = false := by
    simp [or_assoc]
  intro t
  let ch1 : Channel := { ch with
    state := stateIn ch sc.mode, active := sc, pending := none, arm := if sc.mode = .off then none else ch.arm
    fall := if sc.mode = .off ∨ sc.idleHigh ≠ ch.active.idleHigh ∨ sc.gated = true ∧ isOpen = false then none else ch.fall }
  have hmissed : (ch1.state = .running ∧ singleMissed ch1 = true) ↔ missedIn ch sc := by
    simp [ch1, singleMissed, missedIn, Option.any_eq_true]
  have ht : t = if ch1.state = .running ∧ singleMissed ch1 = true then toReady ch1 else ch1 := by
    simp only [t, transferred, transferState_eq, hoff, hends, ch1]
  rw [ht]
  by_cases h : missedIn ch sc
  · rw [if_pos (hmissed.2 h)]
    exact ⟨rfl, rfl, rfl, rfl, fun _ => ⟨rfl, rfl⟩, fun hn => absurd h hn⟩
  · rw [if_neg (mt hmissed.1 h)]
    exact ⟨rfl, rfl, rfl, rfl, fun hm => absurd hm h, fun _ => ⟨rfl, rfl⟩⟩

/-! ### The turn of one channel -/

/-- The other channels hold no pending schedule of the order at slot `k`. -/
def othersFree (c k : Nat) (s : State) : Prop := ∀ d q, d ≠ c → (channel s d).pending = some q → q.slot ≠ k

/-- What the other channels' schedules leave of channel `c` and of the order at slot `k`. -/
structure TransferStands (c k : Nat) (s t : State) : Prop where
  channel : Machine.channel t c = Machine.channel s c
  gate : t.pou.gateOpen = s.pou.gateOpen
  length : t.pou.channels.length = s.pou.channels.length
  free : othersFree c k s → othersFree c k t
  entry : othersFree c k s → storeEntry t k = storeEntry s k

theorem TransferStands.refl (c k : Nat) (s : State) : TransferStands c k s s := ⟨rfl, rfl, rfl, id, fun _ => rfl⟩

theorem TransferStands.trans {u : State} (h : TransferStands c k s t) (j : TransferStands c k t u) : TransferStands c k s u :=
  ⟨j.channel.trans h.channel, j.gate.trans h.gate, j.length.trans h.length, j.free ∘ h.free,
    fun hf => (j.entry (h.free hf)).trans (h.entry hf)⟩

theorem transfer_pou (r : Report) (d : Nat) (s : State) : (transfer r d s).pou.gateOpen = s.pou.gateOpen ∧
    (transfer r d s).pou.channels.length = s.pou.channels.length := by
  unfold transfer
  split
  · exact ⟨rfl, rfl⟩
  · exact ⟨rfl, by simp⟩

theorem transfer_free {r : Report} {d : Nat} (h : othersFree c k s) : othersFree c k (transfer r d s) := by
  intro e q he hq
  obtain hsame | ⟨-, ps, -, hmoved⟩ := transfer_channel r d e s
  · exact h e q he (hsame ▸ hq)
  · rw [hmoved, transferred_pending] at hq; cases hq

theorem transfer_stands {r : Report} {d : Nat} (h : d ≠ c) (s : State) : TransferStands c k s (transfer r d s) :=
  ⟨(transfer_channel r d c s).resolve_right fun hc => h hc.1.symm, (transfer_pou r d s).1, (transfer_pou r d s).2, transfer_free,
    fun hf => transfer_storeEntry fun ps hps => hf d ps h hps⟩

/-- R148: the order of a schedule that comes in completes. -/
theorem transfer_completes {r : Report} {ps : PendingSchedule} {en : StoreEntry} (hc : c < s.pou.channels.length)
    (hp : (channel s c).pending = some ps) (hen : storeEntry s ps.slot = some en) :
    storeEntry (transfer r c s) ps.slot = some { en with status := .completed .ok (le 8 r.epoch ++
      le 1 (channelStateCode (transferred s.pou.gateOpen ps.sched (channel s c)).state)) false } := by
  have hself : channel (modChannel c (transferred s.pou.gateOpen ps.sched) s) c = transferred s.pou.gateOpen ps.sched (channel s c) :=
    channel_modChannel _ hc
  have ht : transfer r c s = complete ps.slot .ok (le 8 r.epoch ++
      le 1 (channelStateCode (channel (modChannel c (transferred s.pou.gateOpen ps.sched) s) c).state))
      (modChannel c (transferred s.pou.gateOpen ps.sched) s) := by
    simp only [transfer, hp]
  have hsame : storeEntry (modChannel c (transferred s.pou.gateOpen ps.sched) s) ps.slot = some en := hen
  rw [ht, storeEntry_complete, hsame, hself]
  rfl

/-- R148, R151: the starts leave a channel that waits for no order. -/
theorem starts_unarmed {r : Report} (h : (channel s c).arm = none) : channel (forEach (List.range 32) (startArm r) s) c = channel s c :=
  forEach_keeps (fun u => channel u c = channel s c) (startArm r) _ (fun k _ u hu => by
    rw [startArm_channel, hu, h]
    exact if_neg fun hc => nomatch hc.2) s rfl

/-- R151: what the starts leave of every channel. -/
theorem starts_kept (r : Report) (c : Nat) (s : State) :
    let t := forEach (List.range 32) (startArm r) s
    (channel t c).active = (channel s c).active ∧ (channel t c).pending = (channel s c).pending ∧
      (channel t c).lastRise = (channel s c).lastRise := by
  have hstart (i : Nat) (ch : Channel) : (startChannel i ch).active = ch.active ∧ (startChannel i ch).pending = ch.pending ∧
      (startChannel i ch).lastRise = ch.lastRise := by
    simp only [startChannel]
    split_ifs <;> exact ⟨rfl, rfl, rfl⟩
  exact forEach_keeps (fun u => (channel u c).active = (channel s c).active ∧ (channel u c).pending = (channel s c).pending ∧
    (channel u c).lastRise = (channel s c).lastRise) (startArm r) _ (fun k _ u ⟨ha, hp, hl⟩ => by
      rw [startArm_channel]
      split
      · obtain ⟨ka, kp, kl⟩ := hstart r.instant (channel u c)
        exact ⟨ka.trans ha, kp.trans hp, kl.trans hl⟩
      · exact ⟨ha, hp, hl⟩) s ⟨rfl, rfl, rfl⟩

end
section
variable {s t : State} {c k : Nat}

theorem orderPulseProgram_past {p : PulseProgramP} {mode : PulseMode} {slot : Nat} (h : ¬ programBad p)
    (hmode : pulseModeOf p.mode = some mode) (hpast : p.mode = 3 ∧ (p.at16.toNat * 1000000000 + p.at8.toNat) * 16 ≤ now s) :
    orderPulseProgram p slot s = finish slot .past s := (orderPulseProgram_good h hmode slot s).trans (if_pos hpast)

theorem orderPulseProgram_held {p : PulseProgramP} {mode : PulseMode} {slot : Nat} (h : ¬ programBad p)
    (hmode : pulseModeOf p.mode = some mode) (hpast : ¬ (p.mode = 3 ∧ (p.at16.toNat * 1000000000 + p.at8.toNat) * 16 ≤ now s)) :
    orderPulseProgram p slot s = modChannel p.channel.toNat
      (fun ch => { ch with pending := some { sched := scheduleOf p mode, slot := slot } }) (replacePending p.channel.toNat s) :=
  (orderPulseProgram_good h hmode slot s).trans (if_neg hpast)

theorem stepChannel_rest (d : Int) (i : Nat) (ch : Channel) : (stepChannel d i ch).active = ch.active ∧
    (stepChannel d i ch).lastRise = ch.lastRise ∧ (stepChannel d i ch).fall = none := by
  unfold stepChannel
  split_ifs <;> exact ⟨rfl, rfl, rfl⟩

/-- R153: what a step leaves of the channels in their turn. -/
theorem pouBoundary_rest (r : Report) (c : Nat) (s : State) :
    (channel (pouBoundary r s) c).active = (channel (started r s) c).active ∧
    (channel (pouBoundary r s) c).pending = (channel (started r s) c).pending ∧
    (channel (pouBoundary r s) c).lastRise = (channel (started r s) c).lastRise ∧
    ((channel (started r s) c).fall = none → (channel (pouBoundary r s) c).fall = none) ∧
    (r.step = none → channel (pouBoundary r s) c = channel (started r s) c) := by
  rw [pouBoundary_eq]
  cases hr : r.step with
  | none => exact ⟨rfl, rfl, rfl, id, fun _ => rfl⟩
  | some d =>
    dsimp only
    rw [channel_pouStep]
    obtain ⟨ha, hl, hf⟩ := stepChannel_rest d (now (started r s)) (channel (started r s) c)
    exact ⟨ha, stepChannel_pending _ _ _, hl, fun _ => hf, nofun⟩

/-- R151: the starts leave an order that is no PULSE-ARM. -/
theorem starts_entry {r : Report} {k : Nat} (h : notArm s k) : storeEntry (forEach (List.range 32) (startArm r) s) k = storeEntry s k :=
  forEach_keeps (fun u => storeEntry u k = storeEntry s k) (startArm r) _ (fun j _ u hu =>
    (startArm_storeEntry fun e => e ▸ armDue_of_notArm (by unfold notArm; rw [hu]; exact h)).trans hu) s rfl

/-- R148: the order of a schedule that comes in, in the channels' turn. -/
theorem started_entry {r : Report} {ps : PendingSchedule} {en : StoreEntry} (hlen : s.pou.channels.length = 8) (hc : c < 8)
    (hp : (channel s c).pending = some ps) (hen : storeEntry s ps.slot = some en) (ho : ∃ o, en.order = .pulseProgram o)
    (hfree : othersFree c ps.slot s) : storeEntry (started r s) ps.slot = some { en with
      status := .completed .ok (le 8 r.epoch ++
        le 1 (channelStateCode (transferred s.pou.gateOpen ps.sched (channel s c)).state)) false } := by
  obtain ⟨v, hv, hw⟩ := forEach_around (TransferStands.refl c ps.slot) TransferStands.trans (List.mem_range.2 hc) List.nodup_range
    (fun d hd u => transfer_stands (r := r) hd u) s
  have hdone := transfer_completes (r := r) (s := v) (by rw [hv.length, hlen]; exact hc) (by rw [hv.channel]; exact hp)
    ((hv.entry hfree).trans hen)
  rw [hv.gate, hv.channel] at hdone
  have hall := (hw.entry (transfer_free (hv.free hfree))).trans hdone
  exact starts_entry (fun en' q he hq => by
    obtain ⟨o, ho⟩ := ho
    obtain rfl := Option.some.inj (hall.symm.trans he)
    rw [show en.order = .pulseArm q from hq] at ho
    cases ho) |>.trans hall

/-- R148, R151: a channel into which a schedule comes, before a step. -/
theorem started_comesIn {r : Report} {ps : PendingSchedule} (hlen : s.pou.channels.length = 8) (hp : (channel s c).pending = some ps) :
    ((channel (started r s) c).active = ps.sched ∧ (channel (started r s) c).pending = none ∧
      (channel (started r s) c).lastRise = (channel s c).lastRise) ∧
    ((channel s c).arm = none ∨ ps.sched.mode = .off →
      channel (started r s) c = transferred s.pou.gateOpen ps.sched (channel s c)) := by
  have hst : started r s = forEach (List.range 32) (startArm r) (forEach (List.range 8) (transfer r) s) := rfl
  have hin := transfers_channel r hlen c
  have hcome : comeIn s.pou.gateOpen (channel s c) = transferred s.pou.gateOpen ps.sched (channel s c) := by simp only [comeIn, hp]
  rw [hcome] at hin
  rw [hst]
  generalize forEach (List.range 8) (transfer r) s = w at hin ⊢
  obtain ⟨hact, hpend, hlast⟩ := starts_kept r c w
  obtain ⟨ha, hl, -, harm, -⟩ := transferred_spec s.pou.gateOpen ps.sched (channel s c)
  refine ⟨⟨?_, ?_, ?_⟩, fun hun => ?_⟩
  · rw [hact, hin, ha]
  · rw [hpend, hin, transferred_pending]
  · rw [hlast, hin, hl]
  · refine (starts_unarmed ?_).trans hin
    rw [hin, harm]
    split
    · rfl
    · exact hun.resolve_right ‹_›

/-- Ch. 11.8: the codes of the channel states. -/
theorem channelStateCode_eq (st : ChannelState) :
    channelStateCode st = match st with | .off => 0 | .ready => 1 | .waiting => 2 | .running => 3 := by
  cases st <;> rfl

/-- Settles O51: the checks of the two orders, and the channels' turn at a boundary. -/
theorem pulseOrdersHeldUntilBoundary : Obligations.PulseOrdersHeldUntilBoundary := by
  intro s src hlen
  refine ⟨fun p hfree => ?_, fun blocks c ps hb hps => ?_, fun p hfree => ?_⟩
  · intro c phase width long bad past
    have hrun : exec (.pulseProgram src p) s =
        .next (orderPulseProgram p src.slot.val (takeOrder src.slot.val src.cookie (.pulseProgram p) s)) :=
      congrArg Host.Outcome.next (handOver_run _ _ hfree)
    refine ⟨fun hbad => ?_, fun hgood hpast => ?_, fun mode hgood hpast hmode => ?_⟩
    · rw [hrun, orderPulseProgram_bad hbad, finish_take]
    · have hlisted : pulseModeOf p.mode ≠ none := fun h => hgood (.inl ((pulseModeOf_none_iff _).1 h))
      obtain ⟨mode, hmode⟩ := Option.ne_none_iff_exists'.1 hlisted
      rw [hrun, orderPulseProgram_past (s := takeOrder src.slot.val src.cookie (.pulseProgram p) s) hgood hmode hpast, finish_take]
    · rw [hrun, orderPulseProgram_held (s := takeOrder src.slot.val src.cookie (.pulseProgram p) s) hgood hmode hpast]
      have hc : c < s.pou.channels.length := by
        have : ¬ 7 < c := fun h => hgood (.inr (.inl h))
        omega
      let m := takeOrder src.slot.val src.cookie (.pulseProgram p) s
      obtain ⟨hpou, hmem, hstaging⟩ := replacePending_pou c m
      have hch (d : Nat) : channel (replacePending c m) d = channel s d := by rw [channel, hpou]; rfl
      refine ⟨_, rfl, hmem, hstaging, ?_, fun d hd => (channel_modChannel_ne _ _ hd).trans (hch d), fun hnone => ?_, fun ps en hps hne hen => ?_⟩
      · rw [channel_modChannel _ (by rw [hpou]; exact hc), hch]
      · have : replacePending c m = m := by
          have : (channel m c).pending = none := hnone
          simp only [replacePending, this]
        change (replacePending c m).xch = _
        rw [this]; rfl
      · have hreplaced : replacePending c m = finish ps.slot .replaced m := by
          have : (channel m c).pending = some ps := hps
          simp only [replacePending, this]
        have hentry (j : Nat) : storeEntry (modChannel c (fun ch => { ch with pending := some { sched := scheduleOf p mode, slot := src.slot.val } })
            (replacePending c m)) j = storeEntry (finish ps.slot .replaced m) j := by rw [← hreplaced]; rfl
        refine ⟨(hentry _).trans ?_, (hentry _).trans ?_⟩
        · rw [finish, storeEntry_complete, storeEntry_takeOrder_ne _ _ _ hne, hen]; rfl
        · rw [finish, storeEntry_complete_ne _ _ _ (Ne.symm hne)]; rfl
  · intro ch state missed moved
    have hc : c < 8 := by
      by_contra hn
      rw [channel_past (by omega)] at hps
      cases hps
    obtain ⟨u, hu, ht⟩ := boundary_pou ps.slot blocks s
    have hulen : u.pou.channels.length = 8 := hu.length.trans hlen
    obtain ⟨fall, hfall, huc⟩ := hu.channels c
    have huc : channel u c = { ch with fall := fall } := huc
    obtain ⟨fall', hfall', htc⟩ := ht.channels c
    have hups : (channel u c).pending = some ps := by rw [huc]; exact hps
    obtain ⟨⟨hact, hpend, hlast⟩, hsettled⟩ := started_comesIn (r := s.tbs.report) hulen hups
    obtain ⟨hpact, hppend, hplast, hpfall, hplain⟩ := pouBoundary_rest s.tbs.report c u
    obtain ⟨hparm, hprun, hpquiet, hpstate⟩ := pouBoundary_channel s.tbs.report c u
    obtain ⟨htact, htlast, htrun, htarm, htmissed, htkept⟩ := transferred_spec u.pou.gateOpen ps.sched (channel u c)
    have hmissed : missedIn (channel u c) ps.sched ↔ missed := by rw [huc]; exact Iff.rfl
    have hstate : stateIn (channel u c) ps.sched.mode = state := by rw [huc]; rfl
    rw [hmissed] at htmissed htkept
    rw [hstate] at htkept
    have hmoved : (transferred u.pou.gateOpen ps.sched (channel u c)).state = moved := by
      by_cases hm : missed
      · exact (htmissed hm).1.trans (if_pos hm).symm
      · exact (htkept hm).1.trans (if_neg hm).symm
    refine ⟨_, exec_boundary hb, ?_, ?_, ?_, fun en hen ho hfree hposted => ?_, fun hoff => ?_, fun hun hno => ?_, fun hun hdue hgate => ?_⟩
    · rw [htc]; exact hpact.trans hact
    · rw [htc]; exact hppend.trans hpend
    · rw [htc]
      exact hplast.trans (hlast.trans (by rw [huc]))
    · have hpost : noPost (ticked s) ps.slot := fun q hq => hposted q ((boundaryTick_leap s.tbs).2.2 ▸ hq)
      have hothers : othersFree c ps.slot u := by
        intro d q hd hq
        obtain ⟨f, -, hud⟩ := hu.channels d
        rw [hud] at hq
        exact hfree d q hd hq
      have hdone := started_entry (r := s.tbs.report) hulen hc hups ((hu.entry hpost).trans hen) ho hothers
      have hpu : noPost (pouBoundary s.tbs.report u) ps.slot := by
        have hpou : (pouBoundary s.tbs.report u).tbs = u.tbs := by simp
        unfold noPost
        rw [hpou]
        exact hu.posted hpost
      rw [ht.entry hpu, storeEntry_pouBoundary, hdone, hmoved]
      exact congrArg (fun x => some { en with status := .completed .ok (le 8 s.tbs.report.epoch ++ le 1 x) false })
        (channelStateCode_eq moved)
    · have hch := hsettled (.inr hoff)
      have hnm : ¬ missed := fun hm => by
        have : ps.sched.mode = .single := hm.2.1
        rw [hoff] at this
        cases this
      have hs : state = .off := if_pos hoff
      obtain ⟨hkeep, hcut⟩ := htkept hnm
      rw [if_pos (.inl hoff)] at hcut
      rw [hs] at hkeep
      rw [hch] at hparm hpquiet hpfall
      rw [htc]
      refine ⟨?_, ?_, ?_⟩
      · exact (hpquiet (by rw [hkeep]; decide)).trans hkeep
      · exact hparm.trans (htarm.trans (if_pos hoff))
      · rcases hfall' with h | h
        · exact h.trans (hpfall hcut)
        · exact h
    · have hch := hsettled (.inl (by rw [huc]; exact hun))
      have hmode : (channel (started s.tbs.report u) c).active.mode = ps.sched.mode := by rw [hact]
      rw [htc]
      refine ⟨(hpstate (hno.imp (report_step_none_iff s).2 fun h => by rw [hmode]; exact h)).trans ?_, hprun.trans ?_⟩
      · rw [hch, hmoved]
      · rw [hch, htrun, huc]
    · have hch := hsettled (.inl (by rw [huc]; exact hun))
      have hpougate : (pouBoundary s.tbs.report u).pou.gateOpen = u.pou.gateOpen := (pouBoundary_gate s.tbs.report u).1
      have htgate := ht.gate
      rw [hpougate] at htgate
      obtain ⟨hug, htg⟩ := gate_between hu.gate htgate hgate
      have hsame : channel u c = ch := hu.kept hug c
      have htu : channel (boundary blocks s) c = transferred u.pou.gateOpen ps.sched (channel u c) := by
        rw [ht.kept (htg.trans hpougate.symm), hplain ((report_step_none_iff s).2 hdue), hch]
      have hugs : u.pou.gateOpen = s.pou.gateOpen := hug
      rw [htu]
      by_cases hm : missed
      · rw [(htmissed hm).2, if_pos (.inr (.inl hm))]
      · rw [(htkept hm).2, hsame, hugs]
        simp only [hm, false_or]
  · intro cs bad refused
    have hrun : exec (.pulseArm src p) s =
        .next (orderPulseArm p src.slot.val (takeOrder src.slot.val src.cookie (.pulseArm p) s)) :=
      congrArg Host.Outcome.next (handOver_run _ _ hfree)
    have hrefused (r : ResultCode) (h : orderPulseArm p src.slot.val (takeOrder src.slot.val src.cookie (.pulseArm p) s) =
        finish src.slot.val r (takeOrder src.slot.val src.cookie (.pulseArm p) s)) : refused r := by
      change exec _ s = _
      rw [hrun, h, finish_take]
    let m := takeOrder src.slot.val src.cookie (.pulseArm p) s
    have hready (h : ∀ c ∈ cs, (channel s c).state = .ready) : ¬ (∃ c ∈ cs, (channel m c).state = .off) ∧
        ¬ ∃ c ∈ cs, (channel m c).state ≠ .ready := by
      refine ⟨fun ⟨c, hc, ho⟩ => ?_, fun ⟨c, hc, ho⟩ => ho (h c hc)⟩
      have := (h c hc).symm.trans ho
      cases this
    refine ⟨fun hbad => hrefused _ (if_pos ((armBad_iff p).2 hbad)), fun hgood hoff => hrefused _ ?_, fun hgood hon hbusy => hrefused _ ?_,
      fun hgood hall hpast => hrefused _ ?_, fun hgood hall hahead => ?_⟩
    · exact (if_neg (mt (armBad_iff p).1 hgood)).trans (if_pos (anyOff_iff.2 hoff))
    · exact (if_neg (mt (armBad_iff p).1 hgood)).trans ((if_neg (mt anyOff_iff.1 fun ⟨c, hc, ho⟩ => hon c hc ho)).trans
        (if_pos (anyBusy_iff.2 hbusy)))
    · exact (if_neg (mt (armBad_iff p).1 hgood)).trans ((if_neg (mt anyOff_iff.1 (hready hall).1)).trans
        ((if_neg (mt anyBusy_iff.1 (hready hall).2)).trans (if_pos hpast)))
    · have horder : orderPulseArm p src.slot.val m = forEach (armChannels p)
          (fun c => modChannel c (fun ch => { ch with state := .waiting, arm := some src.slot.val })) m :=
        (if_neg (mt (armBad_iff p).1 hgood)).trans ((if_neg (mt anyOff_iff.1 (hready hall).1)).trans
          ((if_neg (mt anyBusy_iff.1 (hready hall).2)).trans (if_neg (Nat.not_le.2 hahead))))
      rw [hrun, horder]
      refine ⟨_, rfl, ?_, fun c => armed_channel (s := m) hlen hgood _ c⟩
      exact forEach_keeps (fun u => u = { m with pou := { m.pou with channels := u.pou.channels } })
        (fun c => modChannel c (fun ch => { ch with state := .waiting, arm := some src.slot.val })) (armChannels p)
        (fun c _ u hu => by rw [hu]; rfl) m rfl

end
end Sys2Proof.Machine

namespace Sys2Proof.Machine

/-! ## Edges of a pulse channel (R142 to R146) -/

/-- R142: the rising edges of a schedule. -/
def risesAt (sched : Schedule) (r : Nat) : Prop :=
  match sched.mode with
  | .off => False
  | .second | .mark => r % 1000000000 = sched.phase
  | .train => r % sched.period = sched.phase % sched.period
  | .single => r = sched.start

theorem isRising_iff (sched : Schedule) (r : Nat) : isRising sched r = true ↔ risesAt sched r := by
  cases h : sched.mode <;> simp [isRising, risesAt, h, nsPerSec]

/-- R144: device time reaches the instant on the output stage. -/
def reachedNow (tb : Timebase) (d : Nat) : Prop :=
  if tb.atBoundary then
    (if tb.stepDue then d < (tb.time.sec + 1) * 16000000000 else d ≤ (tb.time.sec + 1) * 16000000000)
  else d * 2 ^ 28 ≤ tb.time.units + tb.tickInc

theorem stepDue_atBoundary {tb : Timebase} (h : tb.stepDue = true) : tb.atBoundary = true := by
  unfold Timebase.stepDue at h
  split at h
  · exact absurd h Bool.false_ne_true
  · exact (Bool.and_eq_true_iff.1 h).1

theorem edgeReached_iff (tb : Timebase) (d : Nat) : edgeReached tb d = true ↔ reachedNow tb d := by
  rw [edgeReached, reachedNow]
  split
  · split <;> exact decide_eq_true_iff
  · next hb =>
      have hs : ¬ tb.stepDue = true := fun h => hb (stepDue_atBoundary h)
      rw [Timebase.reaches, Timebase.reachLimit, if_neg hs, decide_eq_true_iff]
      exact Nat.le_div_iff_mul_le (by decide)

theorem risingReached_iff (tb : Timebase) (ch : Channel) (r : Nat) :
    risingReached tb ch r = true ↔ tb.reachedFrom ≤ r * 2 ^ 32 ∧ reachedNow tb (r * 16) ∧
      ¬ (tb.atBoundary = true ∧ ch.pending ≠ none ∧ r * 16 = (tb.time.sec + 1) * 16000000000) := by
  have hpast : tb.reachedFrom ≤ r * unitsPerNs ↔ tb.reachedFrom ≤ r * 2 ^ 32 := Iff.rfl
  have hsix : tb.boundarySix = (tb.time.sec + 1) * 16000000000 := rfl
  rw [risingReached, ← edgeReached_iff, ← hsix, ← hpast]
  cases ch.pending <;> simp [and_assoc, ← Bool.not_eq_true, imp_iff_not_or]

/-- R144: of the positions a tick offers, the one nearest to an instant, cut to those on its own side, is the nearest of
these. -/
theorem nearer_of_clipped {X inc : Int} {n k j : Nat} (hinc : 0 < inc) (hlo : 2 * (n * inc) ≤ 2 * X + inc)
    (hhi : 2 * X + inc < 2 * (n * inc) + 2 * inc) (h : k = n ∨ k < n ∧ j ≤ k ∨ n < k ∧ k ≤ j) :
    (X - k * inc).natAbs < (X - j * inc).natAbs ∨ (X - k * inc).natAbs = (X - j * inc).natAbs ∧ j ≤ k := by
  have hmono : ∀ a b : Nat, a ≤ b → (a : Int) * inc ≤ b * inc :=
    fun a b hab => Int.mul_le_mul_of_nonneg_right (by omega) (by omega)
  have hgap : ∀ a b : Nat, a < b → (a : Int) * inc + inc ≤ b * inc := fun a b hab => by
    have := hmono (a + 1) b hab
    rw [Int.natCast_add, Int.add_mul] at this
    omega
  rcases Nat.lt_trichotomy j k with hjk | rfl | hjk
  · have := hgap j k hjk
    have := hmono k n (by omega)
    omega
  · exact .inr ⟨rfl, Nat.le_refl _⟩
  · have := hgap k j hjk
    have := hmono n k (by omega)
    omega

theorem position_bounds {off inc : Nat} (hinc : 0 < inc) :
    2 * (((16 * off + inc) / (2 * inc) : Nat) * (inc : Int)) ≤ 2 * (8 * (off : Int)) + inc ∧
    2 * (8 * (off : Int)) + inc < 2 * (((16 * off + inc) / (2 * inc) : Nat) * (inc : Int)) + 2 * inc := by
  have hlo := Nat.div_mul_le_self (16 * off + inc) (2 * inc)
  have hhi := Nat.lt_div_mul_add (a := 16 * off + inc) (b := 2 * inc) (by omega)
  generalize (16 * off + inc) / (2 * inc) = n at hlo hhi ⊢
  have hprod : n * (2 * inc) = 2 * (n * inc) := by ring
  rw [hprod] at hlo hhi
  rw [← Int.natCast_mul]
  omega

/-- R144: the positions from `positionFrom` on are those at or after the instant. -/
theorem positionFrom_le_iff {off inc : Nat} (hinc : 0 < inc) (j : Nat) : positionFrom off inc ≤ j ↔ 8 * off ≤ j * inc := by
  rw [positionFrom, Nat.div_le_iff_le_mul_add_pred hinc, Nat.mul_comm inc j]
  omega

/-- R144, R8: the position `k` of the edge at nanosecond `e`: of the positions of its tick, on its own side of a step, the nearest
to it, and of two as near the later. -/
def PlacedNearest (tb : Timebase) (e k : Nat) : Prop :=
  let boundary := (tb.time.sec + 1) * 16000000000
  let ahead := tb.time.units < e * 2 ^ 32
  let inc : Int := if ahead then tb.tickInc else tb.lastInc
  let off := fun u : Int => if ahead then u - tb.time.units else inc - (tb.time.units - u)
  let side := fun j : Int =>
    (ahead → tb.stepDue = true → j * inc < 8 * off (boundary * 2 ^ 28)) ∧
    (¬ ahead → tb.stepTick ≠ none → 8 * off tb.reachedFrom ≤ j * inc)
  let far := fun j : Int => (8 * off (e * 2 ^ 32) - j * inc).natAbs
  k ≤ 8 ∧ (0 < inc → 0 ≤ off (e * 2 ^ 32) → tb.reachedFrom ≤ e * 2 ^ 32 →
    side k ∧ ∀ j : Nat, j ≤ 8 → side j → far k < far j ∨ far k = far j ∧ j ≤ k)

theorem placedAt_ahead {tb : Timebase} {e : Nat} (h : tb.time.units < e * 2 ^ 32) :
    placedAt tb e = if tb.stepDue then
      min (positionIn (e * 2 ^ 32 - tb.time.units) tb.tickInc)
        (positionFrom ((tb.time.sec + 1) * 16000000000 * 2 ^ 28 - tb.time.units) tb.tickInc - 1)
      else positionIn (e * 2 ^ 32 - tb.time.units) tb.tickInc :=
  if_pos h

theorem placedAt_past {tb : Timebase} {e : Nat} (h : ¬ tb.time.units < e * 2 ^ 32) :
    placedAt tb e = if tb.stepTick.isSome then
      max (positionIn (tb.lastInc - (tb.time.units - e * 2 ^ 32)) tb.lastInc)
        (positionFrom (tb.lastInc - (tb.time.units - tb.reachedFrom)) tb.lastInc)
      else positionIn (tb.lastInc - (tb.time.units - e * 2 ^ 32)) tb.lastInc :=
  if_neg h

theorem positionIn_le (off inc : Nat) : positionIn off inc ≤ 8 := Nat.min_le_left _ _

/-- R144: the position of an edge, cut to a range that holds `j` too, is no farther from it than position `j`. -/
theorem positionIn_clipped {off inc k j : Nat} (hinc : 0 < inc) (hj : j ≤ 8)
    (h : k = positionIn off inc ∨ k < positionIn off inc ∧ j ≤ k ∨ positionIn off inc < k ∧ k ≤ j) :
    (8 * (off : Int) - k * inc).natAbs < (8 * (off : Int) - j * inc).natAbs ∨
      (8 * (off : Int) - k * inc).natAbs = (8 * (off : Int) - j * inc).natAbs ∧ j ≤ k := by
  obtain ⟨hlo, hhi⟩ := position_bounds (off := off) hinc
  refine nearer_of_clipped (by omega) hlo hhi ?_
  rw [positionIn] at h
  omega

/-- In the tick in progress: of the positions before the boundary of a step, the nearest. -/
theorem placedAt_ahead_nearest {tb : Timebase} {e : Nat} (h : tb.time.units < e * 2 ^ 32)
    (hstep : tb.stepDue = true → e * 16 < (tb.time.sec + 1) * 16000000000) : PlacedNearest tb e (placedAt tb e) := by
  rw [placedAt_ahead h]
  obtain ⟨off, hoff⟩ : ∃ off, e * 2 ^ 32 - tb.time.units = off := ⟨_, rfl⟩
  obtain ⟨lim, hlim⟩ : ∃ lim, (tb.time.sec + 1) * 16000000000 * 2 ^ 28 - tb.time.units = lim := ⟨_, rfl⟩
  have hlim0 : tb.stepDue = true → 0 < lim := fun hd => by have := hstep hd; omega
  have hlimInt : tb.stepDue = true →
      (((tb.time.sec + 1) * 16000000000 : Nat) : Int) * 2 ^ 28 - tb.time.units = lim := fun hd => by
    have := hlim0 hd
    omega
  have hoffInt : (e : Int) * 2 ^ 32 - tb.time.units = off := by omega
  rw [hoff, hlim]
  simp only [PlacedNearest, if_pos h, hoffInt]
  have hle := positionIn_le off tb.tickInc
  by_cases hd : tb.stepDue = true
  · rw [if_pos hd, hlimInt hd]
    refine ⟨by omega, fun hinc _ _ => ?_⟩
    have hpos : 0 < tb.tickInc := by omega
    have hside : ∀ j : Nat, (j : Int) * tb.tickInc < 8 * (lim : Int) ↔ j + 1 ≤ positionFrom lim tb.tickInc := fun j => by
      have := positionFrom_le_iff (off := lim) hpos j
      rw [← Int.natCast_mul]
      omega
    have hfirst : 1 ≤ positionFrom lim tb.tickInc := (hside 0).1 (by have := hlim0 hd; omega)
    refine ⟨⟨fun _ _ => (hside _).2 (by omega), fun hn => absurd h hn⟩, fun j hj hs => ?_⟩
    have := (hside j).1 (hs.1 h hd)
    exact positionIn_clipped hpos hj (by omega)
  · rw [if_neg hd]
    exact ⟨hle, fun hinc _ _ => ⟨⟨fun _ hd' => absurd hd' hd, fun hn => absurd h hn⟩,
      fun j hj _ => positionIn_clipped (by omega) hj (.inl rfl)⟩⟩

/-- In the last completed tick: of the positions after the boundary of a step, the nearest. -/
theorem placedAt_past_nearest {tb : Timebase} {e : Nat} (h : ¬ tb.time.units < e * 2 ^ 32) :
    PlacedNearest tb e (placedAt tb e) := by
  rw [placedAt_past h]
  obtain ⟨off, hoff⟩ : ∃ off, tb.lastInc - (tb.time.units - e * 2 ^ 32) = off := ⟨_, rfl⟩
  obtain ⟨first, hfirst⟩ : ∃ first, tb.lastInc - (tb.time.units - tb.reachedFrom) = first := ⟨_, rfl⟩
  rw [hoff, hfirst]
  simp only [PlacedNearest, if_neg h]
  have hle := positionIn_le off tb.lastInc
  have hoffInt : 0 ≤ (tb.lastInc : Int) - (tb.time.units - (e : Int) * 2 ^ 32) →
      (tb.lastInc : Int) - (tb.time.units - (e : Int) * 2 ^ 32) = off := by omega
  by_cases hd : tb.stepTick.isSome = true
  · rw [if_pos hd]
    have hfirstLe : positionFrom first tb.lastInc ≤ 8 := by
      by_cases hz : tb.lastInc = 0
      · rw [positionFrom, hz, Nat.div_zero]; omega
      · exact (positionFrom_le_iff (by omega) 8).2 (by omega)
    refine ⟨by omega, fun hinc hoff0 hfrom => ?_⟩
    rw [hoffInt hoff0]
    have hpos : 0 < tb.lastInc := by omega
    have hside : ∀ j : Nat, 8 * ((tb.lastInc : Int) - (tb.time.units - tb.reachedFrom)) ≤ j * tb.lastInc ↔
        positionFrom first tb.lastInc ≤ j := fun j => by
      rw [positionFrom_le_iff hpos, ← Int.natCast_mul]
      omega
    refine ⟨⟨fun hn => absurd hn h, fun _ _ => (hside _).2 (by omega)⟩, fun j hj hs => ?_⟩
    have := (hside j).1 (hs.2 h (Option.isSome_iff_ne_none.1 hd))
    exact positionIn_clipped hpos hj (by omega)
  · rw [if_neg hd]
    refine ⟨hle, fun hinc hoff0 _ => ?_⟩
    rw [hoffInt hoff0]
    exact ⟨⟨fun hn => absurd hn h, fun _ hn => absurd (Option.isSome_iff_ne_none.2 hn) hd⟩,
      fun j hj _ => positionIn_clipped (by omega) hj (.inl rfl)⟩

/-- R144: an edge that is reached is placed at the nearest position of its tick on its own side of a step. -/
theorem placedAt_nearest {tb : Timebase} {e : Nat} (h : reachedNow tb (e * 16)) : PlacedNearest tb e (placedAt tb e) := by
  by_cases ha : tb.time.units < e * 2 ^ 32
  · refine placedAt_ahead_nearest ha fun hd => ?_
    rwa [reachedNow, if_pos (stepDue_atBoundary hd), if_pos hd] at h
  · exact placedAt_past_nearest ha


/-- R141, R154: the level of an output. -/
theorem outputLevel_eq (s : State) (c : Nat) :
    outputLevel s c = (if (channel s c).state = .running ∧ (channel s c).fall ≠ none ∧
        ((channel s c).active.gated = true → s.pou.gateOpen = true) then
      !(channel s c).active.idleHigh else (channel s c).active.idleHigh) := by
  unfold outputLevel gateSilences
  split
  · next h =>
      obtain ⟨hrun, hfall, hgate⟩ := h
      have hf := Option.isSome_iff_ne_none.2 hfall
      cases hg : (channel s c).active.gated
      · simp [hrun, hf, hg]
      · simp [hrun, hf, hg, hgate hg]
  · next h =>
      have hoff : ((channel s c).state == .running && (channel s c).fall.isSome &&
          !((channel s c).active.gated && !s.pou.gateOpen)) = false := by
        refine Bool.eq_false_iff.2 fun hon => h ?_
        simp only [Bool.and_eq_true, beq_iff_eq, Option.isSome_iff_ne_none, Bool.not_eq_true', Bool.and_eq_false_imp,
          Bool.not_eq_false'] at hon
        exact ⟨hon.1.1, hon.1.2, hon.2⟩
      exact (congrArg _ hoff).trans (Bool.bne_false _)

section
variable {s : State} {c : Fin 8}

/-- What one channel's edge leaves of the state. -/
theorem modChannel_moves (f : Channel → Channel) :
    modChannel c.val f s = { s with pou := { s.pou with channels := (modChannel c.val f s).pou.channels } } ∧
      ∀ d, d ≠ c.val → channel (modChannel c.val f s) d = channel s d :=
  ⟨rfl, fun _ hd => channel_modChannel_ne f s hd⟩

/-- R145: a rising edge may be driven. -/
theorem mayRise_iff (ch : Channel) (r : Nat) : mayRise ch r = true ↔
    (∀ u, ch.runStart = some u → u ≤ r * 16) ∧ (∀ l, ch.lastRise = some l → l < r) ∧ ch.fall = none := by
  simp [mayRise, Option.all_eq_true, and_assoc]

theorem laterRise_eq (ch : Channel) (r : Nat) : laterRise ch r = some (max r (ch.lastRise.getD 0)) := by
  cases h : ch.lastRise with
  | none => simp [laterRise, h]
  | some l =>
      simp only [laterRise, h, Option.all_some, decide_eq_true_eq, Option.getD_some]
      split
      · congr 1; omega
      · congr 1; omega

/-- A channel's edge that leaves the channel leaves the state. -/
theorem modChannel_self {f : Channel → Channel} (h : f (channel s c.val) = channel s c.val) : modChannel c.val f s = s := by
  have hlist : s.pou.channels.modify c.val f = s.pou.channels := by
    refine List.ext_getElem (List.length_modify _ _ _) fun i _ hi => ?_
    rw [List.getElem_modify]
    split
    · next hci =>
        subst hci
        have hget : channel s c.val = s.pou.channels[c.val] := by
          rw [channel, List.getD_eq_getElem?_getD, List.getElem?_eq_getElem hi]
          rfl
        rw [← hget, h]
    · rfl
  rw [modChannel, hlist]

theorem channel_running_lt (h : (channel s c.val).state = .running) : c.val < s.pou.channels.length := by
  by_contra hlen
  rw [channel_past (Nat.le_of_not_lt hlen)] at h
  exact absurd h (by decide)

theorem channel_fall_lt {f : Nat} (h : (channel s c.val).fall = some f) : c.val < s.pou.channels.length := by
  by_contra hlen
  rw [channel_past (Nat.le_of_not_lt hlen)] at h
  exact absurd h (Option.some_ne_none f ·.symm)

/-- R145: whether a rising edge is driven. -/
def drivenAt (s : State) (ch : Channel) (r : Nat) : Prop :=
  (∀ u, ch.runStart = some u → u ≤ r * 16) ∧ (∀ l, ch.lastRise = some l → l < r) ∧ ch.fall = none ∧
    ¬ (ch.active.gated = true ∧ s.pou.gateOpen = false)

theorem drivenAt_iff (ch : Channel) (r : Nat) :
    (mayRise ch r && !gateSilences s ch.active) = true ↔ drivenAt s ch r := by
  rw [Bool.and_eq_true, mayRise_iff, drivenAt, and_assoc, and_assoc]
  simp [gateSilences, ← Bool.not_eq_true, imp_iff_not_or]

/-- R145: the channel after a rising edge that is driven. -/
theorem riseChannel_driven {r : Nat} (hc : c.val < s.pou.channels.length) (h : drivenAt s (channel s c.val) r) :
    channel (riseChannel c.val r s) c.val =
      { channel s c.val with
        lastRise := some r
        fall := some (r + pulseWidth s.pou.cls (channel s c.val).active)
        placed := some (placedAt s.tbs r) } := by
  have hlast : laterRise (channel s c.val) r = some r := by
    rw [laterRise_eq]
    cases hl : (channel s c.val).lastRise with
    | none => simp
    | some l =>
        have := h.2.1 l hl
        simp only [Option.getD_some]
        congr 1; omega
  rw [riseChannel, channel_modChannel _ hc, if_pos ((drivenAt_iff _ _).2 h), hlast]

/-- R145: the channel after a rising edge that is not driven. -/
theorem riseChannel_undriven {r : Nat} (hc : c.val < s.pou.channels.length) (h : ¬ drivenAt s (channel s c.val) r) :
    channel (riseChannel c.val r s) c.val =
      { channel s c.val with lastRise := some (max r ((channel s c.val).lastRise.getD 0)) } := by
  rw [riseChannel, channel_modChannel _ hc, if_neg fun hd => h ((drivenAt_iff _ _).1 hd), laterRise_eq]

/-- R145: a falling edge that is not reached leaves the channel. -/
theorem fallChannel_unreached {tb : Timebase} {ch : Channel} {f : Nat} (hf : ch.fall = some f)
    (h : ¬ reachedNow tb (f * 16)) : fallChannel tb ch = ch := by
  have hend : endFall tb ch = ch := by
    simp only [endFall, hf]
    exact if_neg fun hr => h ((edgeReached_iff _ _).1 hr)
  rw [fallChannel, hend]
  exact if_neg (by simp [singleDone, hf])

theorem endFall_reached {tb : Timebase} {ch : Channel} {f : Nat} (hf : ch.fall = some f) (h : reachedNow tb (f * 16)) :
    endFall tb ch = { ch with fall := none, placed := some (placedAt tb f) } := by
  simp only [endFall, hf]
  exact if_pos ((edgeReached_iff _ _).2 h)

/-- R145: a reached falling edge ends the pulse. -/
theorem fallChannel_ends {tb : Timebase} {ch : Channel} {f : Nat} (hf : ch.fall = some f) (h : reachedNow tb (f * 16))
    (hmode : ch.active.mode ≠ .single) : fallChannel tb ch = { ch with fall := none, placed := some (placedAt tb f) } := by
  rw [fallChannel, endFall_reached hf h]
  exact if_neg (by simp [singleDone, hmode])

/-- R146: with the pulse of its schedule a SINGLE channel returns to READY. -/
theorem fallChannel_single {tb : Timebase} {ch : Channel} {f : Nat} (hf : ch.fall = some f) (h : reachedNow tb (f * 16))
    (hrun : ch.state = .running) (hmode : ch.active.mode = .single) (hend : f = ch.active.start + ch.active.width) :
    fallChannel tb ch = { ch with state := .ready, fall := none, placed := some (placedAt tb f) } := by
  have hdone : singleDone tb { ch with fall := none, placed := some (placedAt tb f) } = true := by
    have hr := (edgeReached_iff tb _).2 (hend ▸ h)
    simp [singleDone, hrun, hmode, hr]
  rw [fallChannel, endFall_reached hf h]
  exact if_pos hdone

end

/-- Settles O50: the edges of each mode are those of R142, reached up to the end of the tick or the boundary, and placed at the
nearest position of their tick on their own side of a step. -/
theorem pulseEdgesDrivenOnce : Obligations.PulseEdgesDrivenOnce := by
  intro s c
  refine ⟨outputLevel_eq s c.val, fun r hno => ?_, fun r hrun hrise hrisen => ?_, fun f hf hno => ?_, fun f hf hr => ?_⟩
  · exact congrArg Host.Outcome.next (if_neg fun h =>
      hno ⟨h.1, (isRising_iff _ _).1 h.2.1, (risingReached_iff _ _ _).1 h.2.2⟩)
  · have hc := channel_running_lt hrun
    have hexec : exec (.pulseRisingEdge c r) s = .next (riseChannel c.val r s) :=
      congrArg Host.Outcome.next (if_pos ⟨hrun, (isRising_iff _ _).2 hrise, (risingReached_iff _ _ _).2 hrisen⟩)
    exact ⟨_, placedAt s.tbs r, hexec, modChannel_moves _, placedAt_nearest hrisen.2.1,
      riseChannel_driven hc, riseChannel_undriven hc⟩
  · exact congrArg Host.Outcome.next (modChannel_self (fallChannel_unreached hf hno))
  · have hc := channel_fall_lt hf
    exact ⟨_, placedAt s.tbs f, rfl, modChannel_moves _, placedAt_nearest hr,
      fun hmode => (channel_modChannel _ hc).trans (fallChannel_ends hf hr hmode),
      fun hrun hmode hend => (channel_modChannel _ hc).trans (fallChannel_single hf hr hrun hmode hend)⟩

end Sys2Proof.Machine

namespace Sys2Proof.Machine

/-! ## The layouts of the exchange area (ch. 11.4 to 11.6) -/

/-- A signed number's bytes are those of its two's complement. -/
theorem toInt_emod {w : Nat} (x : BitVec w) : x.toInt % (2 ^ w : Nat) = x.toNat := by
  rw [BitVec.toInt_eq_toNat_bmod, Int.bmod_emod, ← Int.natCast_emod, Nat.mod_eq_of_lt x.isLt]

section
variable (ps : List Byte) (off : Nat)

theorem row_byte : ((byteAt ps off).toNat : Int) % (256 ^ 1 : Nat) = fieldLe ps off 1 := by
  have := (byteAt ps off).isLt
  rw [fieldLe_one]
  omega

/-- The row of an unsigned number as wide as its field. -/
theorem row_bits {w n : Nat} (hw : 2 ^ w = 256 ^ n) :
    ((BitVec.ofNat w (fieldLe ps off n)).toNat : Int) % (256 ^ n : Nat) = fieldLe ps off n := by
  rw [BitVec.toNat_ofNat, hw, ← Int.natCast_emod, Nat.mod_mod, Nat.mod_eq_of_lt (fieldLe_lt ps off n)]

/-- The row of a signed number as wide as its field. -/
theorem row_signed {w n : Nat} (hw : 2 ^ w = 256 ^ n) :
    (BitVec.ofNat w (fieldLe ps off n)).toInt % (256 ^ n : Nat) = fieldLe ps off n := by
  rw [← hw, toInt_emod, BitVec.toNat_ofNat, hw, Nat.mod_eq_of_lt (fieldLe_lt ps off n)]

theorem row_signed_byte : (byteAt ps off).toInt % (256 ^ 1 : Nat) = fieldLe ps off 1 := by
  rw [fieldLe_one]
  exact toInt_emod (byteAt ps off)

/-- The row of a byte whose halves are two numbers. -/
theorem row_halves :
    (((byteAt ps off).setWidth 4).toNat + 16 * ((byteAt ps off >>> 4).setWidth 4).toNat : Int) % (256 ^ 1 : Nat) =
      fieldLe ps off 1 := by
  have := (byteAt ps off).isLt
  rw [fieldLe_one, BitVec.toNat_setWidth, BitVec.toNat_setWidth, BitVec.toNat_ushiftRight, Nat.shiftRight_eq_div_pow]
  omega

theorem row_two : ((BitVec.ofNat 16 (fieldLe ps off 2)).toNat : Int) % (256 ^ 2 : Nat) = fieldLe ps off 2 :=
  row_bits ps off (by decide)

theorem row_four : ((BitVec.ofNat 32 (fieldLe ps off 4)).toNat : Int) % (256 ^ 4 : Nat) = fieldLe ps off 4 :=
  row_bits ps off (by decide)

theorem row_six : ((BitVec.ofNat 48 (fieldLe ps off 6)).toNat : Int) % (256 ^ 6 : Nat) = fieldLe ps off 6 :=
  row_bits ps off (by decide)

theorem row_signed_two : (BitVec.ofNat 16 (fieldLe ps off 2)).toInt % (256 ^ 2 : Nat) = fieldLe ps off 2 :=
  row_signed ps off (by decide)

theorem row_signed_eight : (BitVec.ofNat 64 (fieldLe ps off 8)).toInt % (256 ^ 8 : Nat) = fieldLe ps off 8 :=
  row_signed ps off (by decide)

end


theorem field_in {ps : List Byte} {off n : Nat} (h : off + n ≤ ps.length) : field ps off n = (ps.drop off).take n := by
  have hlen : ((ps.drop off).take n).length = n := by simp; omega
  rw [field, padTo, hlen, Nat.sub_self]
  exact List.append_nil _

theorem fieldBe_lt (bs : List Byte) (off n : Nat) : fieldBe bs off n < 256 ^ n := by
  induction n with
  | zero => rw [fieldBe_zero]; decide
  | succ n ih =>
    have hb : (bs.getD (off + n) 0).toNat < 256 := (bs.getD (off + n) 0).isLt
    rw [fieldBe_succ, Nat.pow_succ]
    omega

theorem decodeOrder_unknown {code : Byte} (h : code = 0 ∨ 0x13 < code.toNat) (ps : List Byte) :
    decodeOrder code ps = .unknown code := by
  unfold decodeOrder
  split
  case h_20 => rfl
  all_goals
    rcases h with rfl | h
    · contradiction
    · omega


/-! ### Every part of a structure is a number of some bytes -/

theorem singleton_eq_le (b : Byte) : [b] = le 1 b.toNat := by simp [le]

theorem pair_eq_le (a b : Byte) : [a, b] = le 1 a.toNat ++ le 1 b.toNat := by simp [le]

theorem zeros_eq_le (n : Nat) : zeros n = le n 0 := by
  induction n with
  | zero => rfl
  | succ n ih => exact congrArg (List.cons 0) ih

theorem flag_toNat (b : Bool) : ((flagByte b).toNat : Int) = if b then 1 else 0 := by cases b <;> rfl

theorem leVal_le_cast (n v : Nat) : (leVal (le n v) : Int) = (v : Int) % (256 ^ n : Nat) := by
  rw [leVal_le, Int.natCast_emod]

/-- Ch. 11.5: the path block of a measurement group. -/
theorem pathBlock_length (q : Path) : (pathBlock q).length = 20 := by simp [pathBlock]

theorem pathBlock_laidOut (q : Path) : laidOut (pathBlock q)
    [(0, 1, pathStateCode q.state), (1, 1, q.debt), (2, 1, q.seeds), (3, 1, if q.delay.isSome then 1 else 0),
      (4, 4, q.delay.getD 0), (8, 2, q.accepted), (10, 2, q.outliers), (12, 2, q.rejects), (14, 2, q.timeouts),
      (16, 2, q.late), (18, 2, q.clamps)] := by
  simp [pathBlock, laidOut_cons, laidOut_nil, fieldLe_skip, fieldLe_here, fieldLe_all, singleton_eq_le, flag_toNat]

/-- A structure's rows inside a longer one. -/
theorem laidOut_skip {xs ys : List Byte} {rows : List (Nat × Nat × Int)} (h : laidOut ys rows) :
    laidOut (xs ++ ys) (rows.map fun r => (xs.length + r.1, r.2)) := by
  intro r hr
  obtain ⟨row, hrow, rfl⟩ := List.mem_map.1 hr
  rw [fieldLe_skip (Nat.le_add_right _ _), Nat.add_sub_cancel_left]
  exact h row hrow


/-- A structure's rows inside a longer one that goes on after it. -/
theorem laidOut_left {xs ys : List Byte} {rows : List (Nat × Nat × Int)} (hin : ∀ r ∈ rows, r.1 + r.2.1 ≤ xs.length)
    (h : laidOut xs rows) : laidOut (xs ++ ys) rows := by
  intro r hr
  have hr1 := hin r hr
  have hfield : field (xs ++ ys) r.1 r.2.1 = field xs r.1 r.2.1 := by
    rw [field_in (ps := xs ++ ys) (by simp; omega), field_in hr1, List.drop_append_of_le_length (by omega),
      List.take_append_of_le_length (by simp; omega)]
  rw [fieldLe, hfield]
  exact h r hr

/-- Ch. 11.5: a measurement group ends with its two path blocks. -/
theorem measureGroup_blocks (c : Client) : ∃ head : List Byte, head.length = 40 ∧
    le 4 c.version ++ measureFields c = head ++ (pathBlock c.paths.a ++ pathBlock c.paths.b) := by
  have hfields : ∃ fields : List Byte, fields.length = 36 ∧
      measureFields c = fields ++ pathBlock c.paths.a ++ pathBlock c.paths.b := by
    refine ⟨_, ?_, rfl⟩
    simp
  obtain ⟨fields, hlen, heq⟩ := hfields
  exact ⟨le 4 c.version ++ fields, by simp [hlen], by simp [heq]⟩

/-- The rows of the path block that begins at `off`. -/
def blockRows (off : Nat) (q : Path) : List (Nat × Nat × Int) :=
  [(off, 1, pathStateCode q.state), (off + 1, 1, q.debt), (off + 2, 1, q.seeds),
    (off + 3, 1, if q.delay.isSome then 1 else 0), (off + 4, 4, q.delay.getD 0), (off + 8, 2, q.accepted),
    (off + 10, 2, q.outliers), (off + 12, 2, q.rejects), (off + 14, 2, q.timeouts), (off + 16, 2, q.late), (off + 18, 2, q.clamps)]

theorem measureGroup_first (c : Client) : laidOut (le 4 c.version ++ measureFields c) (blockRows 40 c.paths.a) := by
  obtain ⟨head, hlen, heq⟩ := measureGroup_blocks c
  have hblock := laidOut_left (ys := pathBlock c.paths.b) (by simp [pathBlock_length]) (pathBlock_laidOut c.paths.a)
  have := laidOut_skip (xs := head) hblock
  rw [hlen] at this
  rw [heq]
  exact this

theorem measureGroup_second (c : Client) : laidOut (le 4 c.version ++ measureFields c) (blockRows 60 c.paths.b) := by
  obtain ⟨head, hlen, heq⟩ := measureGroup_blocks c
  have := laidOut_skip (xs := head ++ pathBlock c.paths.a) (pathBlock_laidOut c.paths.b)
  rw [List.length_append, hlen, pathBlock_length, List.append_assoc] at this
  rw [heq]
  exact this

theorem measureGroup_laidOut (c : Client) : laidOut (le 4 c.version ++ measureFields c)
    [(0, 4, c.version), (4, 1, clientStateCode c.state), (5, 1, verdictCode c.offsetV.verdict), (6, 1, c.offsetV.within),
      (7, 1, c.offsetV.beyond), (8, 1, verdictCode c.pulseV.verdict), (9, 1, c.pulseV.within), (10, 1, c.pulseV.beyond),
      (11, 1, selfStatusCode c.selfStatus),
      (12, 1, (if c.offset.isSome then 1 else 0) + (if c.pulseError.isSome then 2 else 0) +
        (if c.lastHail.isSome then 4 else 0)),
      (13, 1, (c.lastHail.getD 0 % 16 : Nat)), (14, 6, (c.lastHail.getD 0 / 16000000000 : Nat)),
      (20, 4, (c.lastHail.getD 0 % 16000000000 / 16 : Nat)), (24, 4, c.offset.getD 0), (28, 8, c.pulseError.getD 0),
      (36, 4, 0)] := by
  have hsec : sixPerSec = 16000000000 := rfl
  simp [measureFields, laidOut_cons, laidOut_nil, fieldLe_skip, fieldLe_here, zeros_eq_le, leVal_leInt, sixOf, secOf, nsOf, hsec]


/-! ### Journal records -/

theorem bodyFields_length (handed : Nat) (body : JournalBody) : (bodyFields handed body).2.2.length ≤ 16 := by
  cases body <;> simp [bodyFields, countersBytes]

/-- Ch. 11.6: the five counters of a record, from the offset that its own fields take. -/
theorem countersBytes_laidOut (k : RefCounters) : laidOut (countersBytes k)
    [(0, 2, k.bad), (2, 2, k.overrun), (4, 2, k.stale), (6, 2, k.misplaced), (8, 2, k.stuck)] := by
  simp [countersBytes, laidOut_cons, laidOut_nil, fieldLe_skip, fieldLe_here, fieldLe_all]

/-- The bit mask's bits are the numbers listed. -/
theorem testBit_bitMask (ns : List Nat) (c : Nat) : (bitMask ns).testBit c = decide (c ∈ ns) := by
  have hfrom : ∀ m : Nat, (ns.foldl (fun m n => m ||| (1 <<< n)) m).testBit c = (m.testBit c || decide (c ∈ ns)) := by
    induction ns with
    | nil => simp
    | cons n ns ih =>
        intro m
        rw [List.foldl_cons, ih, Nat.testBit_or, Nat.one_shiftLeft, Nat.testBit_two_pow]
        by_cases hc : n = c
        · simp [hc]
        · simp [hc, Ne.symm hc]
  rw [bitMask, hfrom, Nat.zero_testBit, Bool.false_or]

theorem bitMask_mod (cut : List Nat) :
    bitMask cut % 256 = ((List.range 8).map (fun c => if c ∈ cut then 2 ^ c else 0)).sum := by
  have hmod : bitMask cut % 2 ^ 8 = bitMask ((List.range 8).filter (fun c => decide (c ∈ cut))) := by
    refine Nat.eq_of_testBit_eq fun c => ?_
    rw [Nat.testBit_mod_two_pow, testBit_bitMask, testBit_bitMask]
    simp
  have := bitMask_filter (fun c => decide (c ∈ cut))
  simp only [decide_eq_true_eq] at this
  exact hmod.trans this


theorem refState_laidOut {handed : Nat} {i : RefInput} {prev new : Qual} {cause : RefStateCause} {k : RefCounters} :
    laidOut (bodyFields handed (.refState i prev new cause k)).2.2
    [(0, 1, qualCode prev), (1, 1, qualCode new), (2, 1, refStateCauseCode cause), (3, 1, 0)] ∧
    laidOut (bodyFields handed (.refState i prev new cause k)).2.2 [(4, 2, k.bad), (6, 2, k.overrun), (8, 2, k.stale),
      (10, 2, k.misplaced), (12, 2, k.stuck)] := by
  simp [bodyFields, countersBytes, laidOut_cons, laidOut_nil, fieldLe_skip, fieldLe_here, fieldLe_all, zeros_eq_le]

theorem refChange_laidOut {handed : Nat} {prev new : Option RefInput} {mode : SelMode} {cause : RefChangeCause} :
    laidOut (bodyFields handed (.refChange prev new mode cause)).2.2
    [(0, 1, activeCode prev), (1, 1, activeCode new), (2, 1, modeCode mode), (3, 1, refChangeCauseCode cause)] := by
  simp [bodyFields, laidOut_cons, laidOut_nil, fieldLe_skip, fieldLe_here, fieldLe_all]

theorem msgOverrun_laidOut {handed : Nat} {i : RefInput} {label : Nat} {k : RefCounters} :
    laidOut (bodyFields handed (.msgOverrun i label k)).2.2
    [(0, 5, label), (5, 1, 0)] ∧
    laidOut (bodyFields handed (.msgOverrun i label k)).2.2 [(6, 2, k.bad), (8, 2, k.overrun), (10, 2, k.stale),
      (12, 2, k.misplaced), (14, 2, k.stuck)] := by
  simp [bodyFields, countersBytes, laidOut_cons, laidOut_nil, fieldLe_skip, fieldLe_here, fieldLe_all, zeros_eq_le]

theorem pulseStuck_laidOut {handed : Nat} {i : RefInput} {rise : Nat} {k : RefCounters} :
    laidOut (bodyFields handed (.pulseStuck i rise k)).2.2
    [(0, 4, (rise % 16000000000 / 16 : Nat)), (4, 1, (rise % 16 : Nat)), (5, 1, (rise / 16000000000 : Nat))] ∧
    laidOut (bodyFields handed (.pulseStuck i rise k)).2.2 [(6, 2, k.bad), (8, 2, k.overrun), (10, 2, k.stale),
      (12, 2, k.misplaced), (14, 2, k.stuck)] := by
  simp [bodyFields, countersBytes, laidOut_cons, laidOut_nil, fieldLe_skip, fieldLe_here, fieldLe_all, sixOf, secOf, nsOf,
    show sixPerSec = 16000000000 from rfl]

theorem utcDisagree_laidOut {handed : Nat} {i : RefInput} {message timebase : Int} {leap : LeapFlags} :
    laidOut (bodyFields handed (.utcDisagree i message timebase leap)).2.2
    [(0, 2, message), (2, 2, timebase), (4, 1, leapFlagsCode leap)] := by
  simp [bodyFields, laidOut_cons, laidOut_nil, fieldLe_skip, fieldLe_here, fieldLe_all, leVal_leInt]

theorem servoState_laidOut {handed : Nat} {prev new : ServoState} {cause : ServoCause} {phi : Int} {eps labels gated : Nat} :
    laidOut (bodyFields handed (.servoState prev new cause phi eps labels gated)).2.2
    [(0, 1, servoCode prev), (1, 1, servoCode new), (2, 1, servoCauseCode cause), (3, 1, 0), (4, 4, phi), (8, 4, eps),
      (12, 2, labels), (14, 2, gated)] := by
  simp [bodyFields, laidOut_cons, laidOut_nil, fieldLe_skip, fieldLe_here, fieldLe_all, zeros_eq_le, leVal_leInt]

theorem classChange_laidOut {handed : Nat} {prev new : Nat} {servo : ServoState} {eps : Nat} :
    laidOut (bodyFields handed (.classChange prev new servo eps)).2.2
    [(0, 1, prev), (1, 1, new), (2, 1, servoCode servo), (3, 1, 0), (4, 4, eps)] := by
  simp [bodyFields, laidOut_cons, laidOut_nil, fieldLe_skip, fieldLe_here, fieldLe_all, zeros_eq_le]

theorem stepApplied_laidOut {handed : Nat} {origin : StepOrigin} {epoch : Nat} {delta : Int} :
    laidOut (bodyFields handed (.stepApplied origin epoch delta)).2.2
    [(0, 6, epoch), (6, 10, max (-(2 ^ 79)) (min (2 ^ 79 - 1) delta))] := by
  have hepoch : (fieldLe (le 6 epoch ++ leInt 10 (delta10 delta)) 0 6 : Int) = (epoch : Int) % (256 ^ 6 : Nat) := by
    rw [fieldLe_here (le_length 6 epoch), leVal_le_cast]
  have hdelta : (fieldLe (le 6 epoch ++ leInt 10 (delta10 delta)) 6 10 : Int) = delta10 delta % (256 ^ 10 : Nat) := by
    rw [fieldLe_skip (le_length 6 epoch).le, le_length, Nat.sub_self, fieldLe_all (leInt_length 10 _), leVal_leInt]
  exact (laidOut_cons ..).2 ⟨hepoch, (laidOut_cons ..).2 ⟨hdelta, laidOut_nil _⟩⟩

theorem leapApplied_laidOut {handed : Nat} {insert : Bool} {offset : Int} {epoch : Nat} :
    laidOut (bodyFields handed (.leapApplied insert offset epoch)).2.2
    [(0, 1, if insert then 1 else -1), (1, 1, 0), (2, 2, offset), (4, 6, epoch)] := by
  simp [bodyFields, laidOut_cons, laidOut_nil, fieldLe_skip, fieldLe_here, fieldLe_all, zeros_eq_le, leVal_leInt]

theorem clientState_laidOut {handed : Nat} {slot : Nat} {addr : MacAddr} {prev new : ClientState} {cause : ClientCause}
    {ov pv : Verdict} {pa pb : PathState} :
    laidOut (bodyFields handed (.clientState slot addr prev new cause ov pv pa pb)).2.2
    [(0, 6, addr.toNat), (6, 1, clientStateCode prev), (7, 1, clientStateCode new), (8, 1, clientCauseCode cause),
      (9, 1, verdictCode ov), (10, 1, verdictCode pv), (11, 1, pathStateCode pa), (12, 1, pathStateCode pb)] := by
  simp [bodyFields, laidOut_cons, laidOut_nil, fieldLe_skip, fieldLe_here, fieldLe_all]

theorem pathValid_laidOut {handed : Nat} {slot : Nat} {port : Port} {addr : MacAddr} {debt delay accepted outliers : Nat} :
    laidOut (bodyFields handed (.pathValid slot port addr debt delay accepted outliers)).2.2
    [(0, 6, addr.toNat), (6, 1, debt), (7, 1, 0), (8, 4, delay), (12, 2, accepted), (14, 2, outliers)] := by
  simp [bodyFields, laidOut_cons, laidOut_nil, fieldLe_skip, fieldLe_here, fieldLe_all, zeros_eq_le]

theorem pathLost_laidOut {handed : Nat} {slot : Nat} {port : Port} {addr : MacAddr} {delay : Option Nat}
    {timeouts rejects late : Nat} :
    laidOut (bodyFields handed (.pathLost slot port addr delay timeouts rejects late)).2.2
    [(0, 6, addr.toNat), (6, 4, delay.getD 0), (10, 2, timeouts), (12, 2, rejects), (14, 2, late)] := by
  simp [bodyFields, laidOut_cons, laidOut_nil, fieldLe_skip, fieldLe_here, fieldLe_all]

theorem pathStep_laidOut {handed : Nat} {slot : Nat} {port : Port} {addr : MacAddr} {state : PathState} {old new : Nat} :
    laidOut (bodyFields handed (.pathStep slot port addr state old new)).2.2
    [(0, 6, addr.toNat), (6, 1, pathStateCode state), (7, 1, 0), (8, 4, old), (12, 4, new)] := by
  simp [bodyFields, laidOut_cons, laidOut_nil, fieldLe_skip, fieldLe_here, fieldLe_all, zeros_eq_le]

theorem hail_laidOut {handed : Nat} {port : Port} {addr : MacAddr} {kind : ClientKind} {period entries overflow : Nat} :
    laidOut (bodyFields handed (.hail port addr kind period entries overflow)).2.2
    [(0, 6, addr.toNat), (6, 1, clientKindCode kind), (7, 1, period), (8, 1, entries), (9, 1, 0), (10, 2, overflow)] := by
  simp [bodyFields, laidOut_cons, laidOut_nil, fieldLe_skip, fieldLe_here, fieldLe_all, zeros_eq_le]

theorem foreignBeacon_laidOut {handed : Nat} {port : Port} {addr : MacAddr} {cls servo : Byte} {seq : Nat} {count : Nat} :
    laidOut (bodyFields handed (.foreignBeacon port addr cls servo seq count)).2.2
    [(0, 6, addr.toNat), (6, 1, cls.toNat), (7, 1, servo.toNat), (8, 2, seq), (10, 2, 0), (12, 4, count)] := by
  simp only [bodyFields, pair_eq_le]
  simp [laidOut_cons, laidOut_nil, fieldLe_skip, fieldLe_here, fieldLe_all, zeros_eq_le]

theorem noticeDone_laidOut {handed : Nat} {index : Nat} {mode : NoticeMode} {carried : Pair Bool} {cause : NoticeCause} :
    laidOut (bodyFields handed (.noticeDone index mode carried cause)).2.2
    [(0, 1, noticeModeCode mode), (1, 1, (if carried.a then 1 else 0) + if carried.b then 2 else 0),
      (2, 1, noticeCauseCode cause)] := by
  have hports : (pairBits carried : Int) = (if carried.a then 1 else 0) + if carried.b then 2 else 0 := by simp [pairBits]
  rw [← hports]
  simp [bodyFields, laidOut_cons, laidOut_nil, fieldLe_skip, fieldLe_here, fieldLe_all]

theorem gateClosed_laidOut {handed : Nat} {cause : GateCause} {cls floor : Nat} {inhibit : Bool} {cut : List Nat} :
    laidOut (bodyFields handed (.gateClosed cause cls floor inhibit cut)).2.2
    [(0, 1, gateCauseCode cause), (1, 1, cls), (2, 1, floor), (3, 1, if inhibit then 1 else 0),
      (4, 1, (((List.range 8).map (fun c => if c ∈ cut then 2 ^ c else 0)).sum : Nat))] := by
  rw [← bitMask_mod]
  simp [bodyFields, laidOut_cons, laidOut_nil, fieldLe_skip, fieldLe_here, fieldLe_all, singleton_eq_le, flag_toNat]

theorem gateOpened_laidOut {handed : Nat} {cls floor : Nat} :
    laidOut (bodyFields handed (.gateOpened cls floor)).2.2
    [(0, 1, cls), (1, 1, floor)] := by
  simp [bodyFields, laidOut_cons, laidOut_nil, fieldLe_skip, fieldLe_here, fieldLe_all]

theorem capture_laidOut {handed : Nat} {i : Fin 4} {rising : Bool} {stamp : Nat} {interval : Option Nat} {count : Nat}
    {outcome : CaptureOutcome} {err : Option Int} :
    laidOut (bodyFields handed (.capture i rising stamp interval count outcome err)).2.2
    [(0, 3, (handed - stamp : Nat)), (3, 5, err.getD 0), (8, 6, interval.getD 0), (14, 2, count)] := by
  simp [bodyFields, laidOut_cons, laidOut_nil, fieldLe_skip, fieldLe_here, fieldLe_all, leVal_leInt]


/-- Ch. 11.5: the length of a measurement group. -/
theorem measureGroup_length (c : Client) : (le 4 c.version ++ measureFields c).length = 80 := by
  simp [measureFields, pathBlock_length]

/-- Settles O60, table by table: a structure is its numbers' bytes one after another, and a row reads those at its offset. -/
theorem exchangeAreaLayouts : Obligations.ExchangeAreaLayouts := by
  refine ⟨fun bs off k => ⟨fieldLe_zero bs off, fieldBe_zero bs off, fieldLe_succ bs off k, fieldBe_succ bs off k⟩,
    fun ps hps => ?orders, fun c => ⟨measureGroup_length c, measureGroup_first c, measureGroup_second c, ?group⟩,
    fun handed body => ⟨bodyFields_length handed body, ?records⟩, ?codes⟩
  case orders =>
    refine ⟨⟨_, rfl, ?_, ?_⟩, ⟨_, rfl, ?_⟩, ⟨_, rfl, ?_⟩, ⟨_, rfl, ?_⟩, ⟨_, rfl, ?_⟩, ⟨_, rfl, ?_⟩, ⟨_, rfl, ?_⟩, ⟨_, rfl, ?_⟩,
      ⟨_, rfl, ?_⟩, ⟨_, rfl, ?_⟩, ⟨_, rfl, ?_, ?_⟩, ⟨_, rfl, ?_⟩, ⟨_, rfl, ?_⟩, ⟨_, rfl, ?_, ?_⟩, ⟨_, rfl, ?_⟩, rfl,
      ⟨_, rfl, ?_⟩, ⟨_, rfl, ?_⟩, ⟨_, _, rfl, ?_⟩, fun code h => decodeOrder_unknown h ps⟩
    case refine_1 =>
      exact (BitVec.toNat_ofNat _ _).trans (Nat.mod_eq_of_lt (fieldBe_lt ps 8 6))
    all_goals simp only [laidOut_cons, laidOut_nil, row_byte, row_two, row_four, row_six, row_signed_byte, row_signed_two,
        row_signed_eight, and_true]
    case refine_5 => exact ⟨(row_halves ps 0).symm, (row_halves ps 1).symm⟩
    case refine_13 => exact (row_halves ps 0).symm
    case refine_12 => exact (field_in (by omega)).trans (List.take_of_length_le (by simp; omega))
    case refine_16 => exact field_in (by omega)
  case group => exact measureGroup_laidOut c
  case records =>
    cases body with
    | refState i prev new cause k => exact ⟨⟨rfl, rfl, refState_laidOut.1⟩, refState_laidOut.2⟩
    | refChange prev new mode cause => exact ⟨rfl, rfl, refChange_laidOut⟩
    | msgOverrun i label k => exact ⟨⟨rfl, rfl, msgOverrun_laidOut.1⟩, msgOverrun_laidOut.2⟩
    | pulseStuck i rise k => exact ⟨⟨rfl, rfl, pulseStuck_laidOut.1⟩, pulseStuck_laidOut.2⟩
    | utcDisagree i message timebase leap => exact ⟨rfl, rfl, utcDisagree_laidOut⟩
    | servoState prev new cause phi eps labels gated => exact ⟨rfl, rfl, servoState_laidOut⟩
    | classChange prev new servo eps => exact ⟨rfl, rfl, classChange_laidOut⟩
    | stepApplied origin epoch delta => exact ⟨rfl, rfl, stepApplied_laidOut⟩
    | leapApplied ins offset epoch => exact ⟨rfl, rfl, leapApplied_laidOut⟩
    | clientState slot addr prev new cause ov pv pa pb => exact ⟨rfl, rfl, clientState_laidOut⟩
    | pathValid slot port addr debt delay accepted outliers => exact ⟨rfl, rfl, pathValid_laidOut⟩
    | pathLost slot port addr delay timeouts rejects late => exact ⟨rfl, rfl, pathLost_laidOut⟩
    | pathStep slot port addr state old new => exact ⟨rfl, rfl, pathStep_laidOut⟩
    | hail port addr kind period entries overflow => exact ⟨rfl, rfl, hail_laidOut⟩
    | foreignBeacon port addr cls servo seq count => exact ⟨rfl, rfl, foreignBeacon_laidOut⟩
    | noticeDone index mode carried cause => exact ⟨rfl, rfl, noticeDone_laidOut⟩
    | gateClosed cause cls floor inhibit cut => exact ⟨rfl, rfl, gateClosed_laidOut⟩
    | gateOpened cls floor => exact ⟨rfl, rfl, gateOpened_laidOut⟩
    | capture i rising stamp interval count outcome err => exact ⟨rfl, rfl, capture_laidOut⟩
  case codes =>
    exact ⟨rfl, rfl, rfl, rfl, rfl, rfl, rfl, rfl, rfl, ⟨fun _ => rfl, rfl⟩, rfl, rfl, rfl, rfl, rfl, rfl, fun _ => rfl, rfl, rfl,
      rfl, rfl⟩

end Sys2Proof.Machine

namespace Sys2Proof.Machine

/-! ## Orders leave the access in progress and the sweep's place alone -/

/-- R180: the access in progress and where the sweep stands. -/
def sweepAt (x : Controller) : Option Access × Option SweepStep := (x.access, x.sweep)

@[simp] theorem stage_sweepAt (body : JournalBody) (s : State) : sweepAt (stage body s).xch = sweepAt s.xch := by
  rw [sweepAt, stage_xch]; rfl

@[simp] theorem raiseCause_sweepAt (c : Cause) (s : State) : sweepAt (raiseCause c s).xch = sweepAt s.xch := rfl

@[simp] theorem takeOrder_sweepAt (slot : Nat) (cookie : BitVec 16) (o : Order) (s : State) :
    sweepAt (takeOrder slot cookie o s).xch = sweepAt s.xch := rfl

@[simp] theorem complete_sweepAt (slot : Nat) (r : ResultCode) (data : List Byte) (s : State) :
    sweepAt (complete slot r data s).xch = sweepAt s.xch := rfl

@[simp] theorem finish_sweepAt (slot : Nat) (r : ResultCode) (s : State) : sweepAt (finish slot r s).xch = sweepAt s.xch := rfl

/-- What each member of a run leaves, the run leaves. -/
@[simp] theorem forEach_sweepAt {α : Type} (xs : List α) (f : α → State → State) (s : State)
    (h : ∀ x s, sweepAt (f x s).xch = sweepAt s.xch) : sweepAt (forEach xs f s).xch = sweepAt s.xch :=
  forEach_keeps (fun u => sweepAt u.xch = sweepAt s.xch) f xs (fun x _ u hu => (h x u).trans hu) s rfl

@[simp] theorem changeState_sweepAt (n : Nat) (st : ClientState) (cause : ClientCause) (s : State) :
    sweepAt (changeState n st cause s).xch = sweepAt s.xch := by
  simp only [changeState]; (repeat' split) <;> simp_all

@[simp] theorem evaluate_sweepAt (n : Nat) (cause : ClientCause) (s : State) :
    sweepAt (evaluate n cause s).xch = sweepAt s.xch := by
  simp only [evaluate]; (repeat' split) <;> simp_all

@[simp] theorem orderStep_sweepAt (p : StepP) (slot : Nat) (s : State) : sweepAt (orderStep p slot s).xch = sweepAt s.xch := by
  simp only [orderStep]; (repeat' split) <;> simp_all

@[simp] theorem orderUtcSetup_sweepAt (p : UtcSetupP) (slot : Nat) (s : State) :
    sweepAt (orderUtcSetup p slot s).xch = sweepAt s.xch := by
  unfold orderUtcSetup; (repeat' split) <;> simp

@[simp] theorem closeGate_sweepAt (cause : GateCause) (s : State) : sweepAt (closeGate cause s).xch = sweepAt s.xch := by
  unfold closeGate; (repeat' split) <;> simp

@[simp] theorem pouClass_sweepAt (cls : Nat) (s : State) : sweepAt (pouClass cls s).xch = sweepAt s.xch := by
  simp only [pouClass]; (repeat' split) <;> simp_all

@[simp] theorem orderGateSetup_sweepAt (floor : Byte) (slot : Nat) (s : State) :
    sweepAt (orderGateSetup floor slot s).xch = sweepAt s.xch := by
  simp only [orderGateSetup]; (repeat' split) <;> simp_all

@[simp] theorem orderGateOpen_sweepAt (slot : Nat) (s : State) : sweepAt (orderGateOpen slot s).xch = sweepAt s.xch := by
  unfold orderGateOpen; (repeat' split) <;> simp

@[simp] theorem changeClass_sweepAt (new : Nat) (s : State) : sweepAt (changeClass new s).xch = sweepAt s.xch := by
  simp [changeClass]

@[simp] theorem applyCandidate_sweepAt (cand : Nat) (s : State) : sweepAt (applyCandidate cand s).xch = sweepAt s.xch := by
  unfold applyCandidate; (repeat' split) <;> simp

@[simp] theorem evaluateClass_sweepAt (s : State) : sweepAt (evaluateClass s).xch = sweepAt s.xch := by
  unfold evaluateClass; (repeat' split) <;> simp

@[simp] theorem enterServo_sweepAt (new : ServoState) (cause : ServoCause) (s : State) :
    sweepAt (enterServo new cause s).xch = sweepAt s.xch := by
  unfold enterServo; (repeat' split) <;> simp

@[simp] theorem takeNotice_sweepAt (prev new : Option RefInput) (s : State) :
    sweepAt (takeNotice prev new s).xch = sweepAt s.xch := by
  unfold takeNotice; (repeat' split) <;> simp

@[simp] theorem selectionNotice_sweepAt (prev new : Option RefInput) (s : State) :
    sweepAt (selectionNotice prev new s).xch = sweepAt s.xch := by
  simp [selectionNotice]

@[simp] theorem orderServoSetup_sweepAt (p : ServoSetupP) (slot : Nat) (s : State) :
    sweepAt (orderServoSetup p slot s).xch = sweepAt s.xch := by
  simp [orderServoSetup]

@[simp] theorem applySelection_sweepAt (mode : SelMode) (active : Option RefInput) (cause : RefChangeCause) (s : State) :
    sweepAt (applySelection mode active cause s).xch = sweepAt s.xch := by
  simp only [applySelection]; (repeat' split) <;> simp_all

@[simp] theorem reselect_sweepAt (cause : RefChangeCause) (s : State) : sweepAt (reselect cause s).xch = sweepAt s.xch := by
  unfold reselect; (repeat' split) <;> simp

@[simp] theorem changeQual_sweepAt (i : RefInput) (new : Qual) (cause : RefStateCause) (s : State) :
    sweepAt (changeQual i new cause s).xch = sweepAt s.xch := by
  unfold changeQual; (repeat' split) <;> simp

@[simp] theorem reselectIfChanged_sweepAt (i : RefInput) (was : Bool) (s : State) :
    sweepAt (reselectIfChanged i was s).xch = sweepAt s.xch := by
  unfold reselectIfChanged; (repeat' split) <;> simp

@[simp] theorem orderSetRef_sweepAt (mode : Byte) (slot : Nat) (s : State) :
    sweepAt (orderSetRef mode slot s).xch = sweepAt s.xch := by
  simp only [orderSetRef]; (repeat' split) <;> simp_all

@[simp] theorem refEnableEffect_sweepAt (i : RefInput) (enable baudChanged : Bool) (s : State) :
    sweepAt (refEnableEffect i enable baudChanged s).xch = sweepAt s.xch := by
  unfold refEnableEffect; (repeat' split) <;> simp

@[simp] theorem orderRefSetup_sweepAt (p : RefSetupP) (slot : Nat) (s : State) :
    sweepAt (orderRefSetup p slot s).xch = sweepAt s.xch := by
  simp only [orderRefSetup]; (repeat' split) <;> simp_all

@[simp] theorem orderRangingSetup_sweepAt (p : RangingSetupP) (slot : Nat) (s : State) :
    sweepAt (orderRangingSetup p slot s).xch = sweepAt s.xch := by
  simp [orderRangingSetup]

@[simp] theorem freeNotice_sweepAt (i : Nat) (n : Notice) (cause : NoticeCause) (s : State) :
    sweepAt (freeNotice i n cause s).xch = sweepAt s.xch := by
  simp [freeNotice]

@[simp] theorem settleOnce_sweepAt (i : Nat) (s : State) : sweepAt (settleOnce i s).xch = sweepAt s.xch := by
  unfold settleOnce; (repeat' split) <;> simp

@[simp] theorem noticeLeaveUp_sweepAt (p : Port) (i : Nat) (s : State) : sweepAt (noticeLeaveUp p i s).xch = sweepAt s.xch := by
  unfold noticeLeaveUp; (repeat' split) <;> simp

@[simp] theorem beaconLeaveUp_sweepAt (p : Port) (s : State) : sweepAt (beaconLeaveUp p s).xch = sweepAt s.xch := by
  simp [beaconLeaveUp]

@[simp] theorem leaveUp_sweepAt (p : Port) (new : PortState) (s : State) : sweepAt (leaveUp p new s).xch = sweepAt s.xch := by
  simp [leaveUp]

@[simp] theorem enableEffect_sweepAt (p : Port) (enable : Bool) (s : State) :
    sweepAt (enableEffect p enable s).xch = sweepAt s.xch := by
  unfold enableEffect; (repeat' split) <;> simp

@[simp] theorem orderPortSetup_sweepAt (p : PortSetupP) (slot : Nat) (s : State) :
    sweepAt (orderPortSetup p slot s).xch = sweepAt s.xch := by
  unfold orderPortSetup; (repeat' split) <;> simp

@[simp] theorem orderNoticePost_sweepAt (p : NoticePostP) (slot : Nat) (s : State) :
    sweepAt (orderNoticePost p slot s).xch = sweepAt s.xch := by
  unfold orderNoticePost; (repeat' split) <;> simp

@[simp] theorem orderNoticeWithdraw_sweepAt (index : Byte) (slot : Nat) (s : State) :
    sweepAt (orderNoticeWithdraw index slot s).xch = sweepAt s.xch := by
  unfold orderNoticeWithdraw; (repeat' split) <;> simp

@[simp] theorem settleState_sweepAt (n : Nat) (st : ClientState) (cause : ClientCause) (s : State) :
    sweepAt (settleState n st cause s).xch = sweepAt s.xch := by
  unfold settleState; (repeat' split) <;> simp

@[simp] theorem makeClient_sweepAt (n : Nat) (cfg : ClientConfig) (s : State) :
    sweepAt (makeClient n cfg s).xch = sweepAt s.xch := by
  simp [makeClient]

@[simp] theorem admitRead_sweepAt (n : Nat) (bytes : List Byte) (slot : Nat) (s : State) :
    sweepAt (admitRead n bytes slot s).xch = sweepAt s.xch := by
  unfold admitRead; (repeat' split) <;> simp

@[simp] theorem installConfig_sweepAt (n : Nat) (new : ClientConfig) (s : State) :
    sweepAt (installConfig n new s).xch = sweepAt s.xch := by
  simp only [installConfig]; (repeat' split) <;> simp_all

@[simp] theorem reconfigRead_sweepAt (n : Nat) (bytes : List Byte) (slot : Nat) (s : State) :
    sweepAt (reconfigRead n bytes slot s).xch = sweepAt s.xch := by
  unfold reconfigRead; (repeat' split) <;> simp

@[simp] theorem orderAdmit_sweepAt (c : BitVec 16) (slot : Nat) (s : State) :
    sweepAt (orderAdmit c slot s).xch = sweepAt s.xch := by
  unfold orderAdmit; (repeat' split) <;> simp

@[simp] theorem orderReconfig_sweepAt (c : BitVec 16) (slot : Nat) (s : State) :
    sweepAt (orderReconfig c slot s).xch = sweepAt s.xch := by
  unfold orderReconfig; (repeat' split) <;> simp

@[simp] theorem removeClient_sweepAt (n : Nat) (s : State) : sweepAt (removeClient n s).xch = sweepAt s.xch := by
  simp [removeClient]

@[simp] theorem orderRetire_sweepAt (c : BitVec 16) (slot : Nat) (s : State) :
    sweepAt (orderRetire c slot s).xch = sweepAt s.xch := by
  unfold orderRetire; (repeat' split) <;> simp

@[simp] theorem replacePending_sweepAt (c : Nat) (s : State) : sweepAt (replacePending c s).xch = sweepAt s.xch := by
  unfold replacePending; (repeat' split) <;> simp

@[simp] theorem orderPulseProgram_sweepAt (p : PulseProgramP) (slot : Nat) (s : State) :
    sweepAt (orderPulseProgram p slot s).xch = sweepAt s.xch := by
  simp only [orderPulseProgram]; (repeat' split) <;> simp_all

@[simp] theorem orderPulseArm_sweepAt (p : PulseArmP) (slot : Nat) (s : State) :
    sweepAt (orderPulseArm p slot s).xch = sweepAt s.xch := by
  simp only [orderPulseArm]; (repeat' split) <;> simp [forEach_channel_frame]

@[simp] theorem captureRecord_sweepAt (i : Fin 4) (cap : Captured) (interval : Option Nat) (outcome : CaptureOutcome)
    (p : Option Int) (s : State) :
    sweepAt (captureRecord i cap interval outcome p s).xch = sweepAt s.xch := by
  unfold captureRecord; (repeat' split) <;> simp

@[simp] theorem pulseResult_sweepAt (n : Nat) (p : Int) (within : Bool) (s : State) :
    sweepAt (pulseResult n p within s).xch = sweepAt s.xch := by
  simp [pulseResult]

@[simp] theorem capture_sweepAt (i : Fin 4) (cap : Captured) (s : State) : sweepAt (capture i cap s).xch = sweepAt s.xch := by
  simp only [capture]; (repeat' split) <;> simp_all

@[simp] theorem confirm_sweepAt (i : Fin 4) (cd : Candidate) (s : State) : sweepAt (confirm i cd s).xch = sweepAt s.xch := by
  unfold confirm; (repeat' split) <;> simp

@[simp] theorem confirmIf_sweepAt (reached : Nat → Bool) (i : Fin 4) (s : State) :
    sweepAt (confirmIf reached i s).xch = sweepAt s.xch := by
  unfold confirmIf; (repeat' split) <;> simp

@[simp] theorem orderCaptureSetup_sweepAt (p : CaptureSetupP) (slot : Nat) (s : State) :
    sweepAt (orderCaptureSetup p slot s).xch = sweepAt s.xch := by
  unfold orderCaptureSetup; (repeat' split) <;> simp

@[simp] theorem orderSnapshot_sweepAt (view : Byte) (slot : Nat) (s : State) :
    sweepAt (orderSnapshot view slot s).xch = sweepAt s.xch := by
  unfold orderSnapshot; (repeat' split) <;> simp

@[simp] theorem cancelEntry_sweepAt (e : StoreEntry) (target slot : Nat) (s : State) :
    sweepAt (cancelEntry e target slot s).xch = sweepAt s.xch := by
  unfold cancelEntry
  split
  · simp
  · split
    · simp
    · rename_i h
      have h' := withdraw_frame _ _ _ _ h
      simp [h']

@[simp] theorem orderCancel_sweepAt (target : Byte) (cookie : BitVec 16) (slot : Nat) (s : State) :
    sweepAt (orderCancel target cookie slot s).xch = sweepAt s.xch := by
  unfold orderCancel; (repeat' split) <;> simp

/-- An ADMIT or RECONFIG, whose order reads the configuration group. -/
def isConfig (o : Order) : Prop := ∃ c, o = .admitClient c ∨ o = .reconfig c

theorem handOrder_sweepAt {o : Order} (h : ¬ isConfig o) (slot : Nat) (s : State) :
    sweepAt (handOrder o slot s).xch = sweepAt s.xch := by
  cases o
  case admitClient c => exact absurd ⟨c, .inl rfl⟩ h
  case reconfig c => exact absurd ⟨c, .inr rfl⟩ h
  all_goals simp [handOrder]

/-- R181: an order's row hands it to its owner. -/
theorem exec_handOrder {c : Instr} {src : OrderSrc} {o : Order} {s : State} (hc : orderHanded c = some (src, o))
    (ho : ¬ isConfig o) (htake : canTake s src.slot.val = true) :
    exec c s = .next (handOrder o src.slot.val (takeOrder src.slot.val src.cookie o s)) := by
  cases c <;> simp only [orderHanded, reduceCtorEq, Option.some.injEq, Prod.mk.injEq] at hc
  case admitClient src' c' host => exact absurd ⟨c', .inl hc.2.symm⟩ ho
  case reconfig src' c' host => exact absurd ⟨c', .inr hc.2.symm⟩ ho
  all_goals
    obtain ⟨rfl, rfl⟩ := hc
    exact congrArg Host.Outcome.next (handOver_run _ _ htake)

/-- R76: the checks of ADMIT before its read. -/
theorem admitCheck_refusal (c : BitVec 16) (s : State) :
    admitCheck c s = (firstRefusal s (.admitClient c)).elim (.ok c.toNat) .error := by
  rw [admitCheck_eq, firstRefusal]
  split
  · rfl
  · by_cases hv : (client s c.toNat).state = .vacant <;> simp [hv]

/-- R80: the checks of RECONFIG before its read. -/
theorem reconfigCheck_refusal (c : BitVec 16) (s : State) :
    reconfigCheck c s = (firstRefusal s (.reconfig c)).elim (.ok c.toNat) .error := by
  rw [reconfigCheck_eq, firstRefusal]
  split
  · rfl
  · by_cases hv : (client s c.toNat).state = .vacant <;> simp [hv]

/-- R77: an ADMIT or RECONFIG is refused by the checks before its read, or begins it. -/
theorem handOrder_config {o : Order} (ho : isConfig o) (slot : Nat) (s : State) :
    handOrder o slot s = (firstRefusal s o).elim (beginConfigRead slot s) (fun r => finish slot r s) := by
  obtain ⟨c, rfl | rfl⟩ := ho
  · simp only [handOrder, admitCheck_refusal]
    cases firstRefusal s (.admitClient c) <;> rfl
  · simp only [handOrder, reconfigCheck_refusal]
    cases firstRefusal s (.reconfig c) <;> rfl

/-! ## The end of an access -/

/-- R173: bytes stored at an offset of the exchange area, modulo the bus's addresses. -/
def areaCells (s : State) (off : Nat) (bytes : List Byte) : List Host.Cell :=
  bytes.zipIdx.map (fun x => ((s.xch.baseHi.toNat * 2 ^ 32 + s.xch.baseLo.toNat + (off + x.2)) % 2 ^ 64, x.1))

theorem storesAt_eq (s : State) (off : Nat) (bytes : List Byte) : storesAt (baseAddr s.xch) off bytes = areaCells s off bytes :=
  rfl

section
variable {s : State} {a : Access} {host : HostWrites}

theorem exec_accessEnd_none (h : s.xch.access = none) : exec (.accessEnd host) s = .next (modMem (Memory.writeAll host) s) := by
  have hm : (modMem (Memory.writeAll host) s).xch.access = none := h
  exact congrArg Host.Outcome.next (by rw [accessEnd, hm])

/-- R173, R180: the end of the access in progress. -/
theorem exec_accessEnd (h : s.xch.access = some a) (ha : a ≠ .headerStart) :
    exec (.accessEnd host) s = .next (afterAccess (endAccess a (clearAccess (modMem (Memory.writeAll host) s)))) := by
  have hm : (modMem (Memory.writeAll host) s).xch.access = some a := h
  refine congrArg Host.Outcome.next ?_
  rw [accessEnd, hm]
  cases a
  case headerStart => exact absurd rfl ha
  all_goals rfl

/-- R180: an access that ends with none following it lets the sweep go on from what it leaves. -/
theorem accessEnd_goes {u : State} {step : SweepStep} (h : s.xch.access = some a) (ha : a ≠ .headerStart)
    (hend : endAccess a (clearAccess (modMem (Memory.writeAll host) s)) = u) (hat : sweepAt u.xch = (none, some step)) :
    ∃ t, exec (.accessEnd host) s = .next t ∧ sweepContinues u t := by
  subst hend
  exact ⟨_, exec_accessEnd h ha, afterAccess_continues (congrArg Prod.snd hat) (congrArg Prod.fst hat)⟩

/-- R93, R176: one that leaves another in progress, or a stop asked for, waits. -/
theorem accessEnd_waits {u : State} (h : s.xch.access = some a) (ha : a ≠ .headerStart)
    (hend : endAccess a (clearAccess (modMem (Memory.writeAll host) s)) = u)
    (hu : u.xch.access.isSome = true ∨ stopping u.xch = true) : exec (.accessEnd host) s = .next u := by
  have hwaits : afterAccess u = u := if_pos (by rcases hu with hu | hu <;> simp [hu])
  rw [exec_accessEnd h ha, hend, hwaits]

end


/-- R181: the end of a slot's taking hands the order read to its owner. -/
theorem endAccess_take {m : State} {src : OrderSrc} {bytes : List Byte} (hcookie : src.cookie = BitVec.ofNat 16 (fieldLe bytes 2 2))
    (hbytes : bytes = Memory.block m.mem (baseAddr m.xch) (0x40 + 64 * src.slot.val) 64) :
    endAccess (.takeSlot src.slot.val) m =
      handOrder (decodeOrder (byteAt bytes 1) (field bytes 4 24)) src.slot.val
        (takeOrder src.slot.val src.cookie (decodeOrder (byteAt bytes 1) (field bytes 4 24))
          (modMem (Memory.writeAll (areaCells m (0x40 + 64 * src.slot.val) [2])) m)) := by
  rw [hcookie, hbytes]; rfl

/-- R77: the end of the read of a configuration group handles the order held in the slot. -/
theorem endAccess_admit {m : State} {n : Nat} {c : BitVec 16} {cookie : BitVec 16}
    (he : storeEntry m n = some { order := .admitClient c, cookie := cookie, status := .held }) :
    endAccess (.readConfig n) m = orderAdmit c n m := by
  have hheld : heldConfigOrder m n = some (.admitClient c) := by simp only [heldConfigOrder, he]
  simp only [endAccess, configRead, hheld]

theorem endAccess_reconfig {m : State} {n : Nat} {c : BitVec 16} {cookie : BitVec 16}
    (he : storeEntry m n = some { order := .reconfig c, cookie := cookie, status := .held }) :
    endAccess (.readConfig n) m = orderReconfig c n m := by
  have hheld : heldConfigOrder m n = some (.reconfig c) := by simp only [heldConfigOrder, he]
  simp only [endAccess, configRead, hheld]

/-- R181: the order held in a slot, taken out of the store and taken anew. -/
theorem takeOrder_again {m : State} {src : OrderSrc} {o : Order}
    (he : storeEntry m src.slot.val = some { order := o, cookie := src.cookie, status := .held }) :
    takeOrder src.slot.val src.cookie o { m with xch := { m.xch with store := m.xch.store.set src.slot.val none } } = m := by
  have hset : (m.xch.store.set src.slot.val none).set src.slot.val (some { order := o, cookie := src.cookie, status := .held }) =
      m.xch.store := by
    rw [List.set_set]
    refine List.ext_getElem (List.length_set ..) fun k h1 h2 => ?_
    rw [List.getElem_set]
    split
    · next hk =>
        subst hk
        rw [storeEntry, List.getD_eq_getElem?_getD, List.getElem?_eq_getElem h2] at he
        exact he.symm
    · rfl
  rw [takeOrder, modXch, hset]

theorem canTake_emptied (m : State) (slot : Nat) :
    canTake { m with xch := { m.xch with store := m.xch.store.set slot none } } slot = true := by
  have hnone : storeEntry { m with xch := { m.xch with store := m.xch.store.set slot none } } slot = none := by
    rw [storeEntry, List.getD_eq_getElem?_getD, List.getElem?_set_self']
    cases m.xch.store[slot]? <;> rfl
  rw [canTake, hnone]

/-- R182: the end of a completion's access. -/
theorem endAccess_complete {m : State} {n : Nat} {en : StoreEntry} {r : ResultCode} {data : List Byte} {written : Bool}
    (he : storeEntry m n = some en) (hs : en.status = .completed r data written) :
    endAccess (.complete n) m = { m with
      mem := Memory.writeAll (areaCells m (0x40 + 64 * n + 28) (le 1 (resultCodeOf r)) ++
        areaCells m (0x40 + 64 * n + 2) (le 2 en.cookie.toNat) ++
        areaCells m (0x40 + 64 * n + 32) (data ++ List.replicate (32 - data.length) 0) ++ areaCells m (0x40 + 64 * n) [3]) m.mem
      xch := { m.xch with
        causes := { m.xch.causes with order := true }
        store := m.xch.store.set n (some { en with status := .completed r data true }) } } := by
  obtain ⟨o, cookie, status⟩ := en
  obtain rfl : status = .completed r data written := hs
  have hstores : accessStores (.complete n) m = areaCells m (0x40 + 64 * n + 28) (le 1 (resultCodeOf r)) ++
      areaCells m (0x40 + 64 * n + 2) (le 2 cookie.toNat) ++
      areaCells m (0x40 + 64 * n + 32) (data ++ List.replicate (32 - data.length) 0) ++ areaCells m (0x40 + 64 * n) [3] := by
    rw [accessStores, completionStores, he]; rfl
  have hmark := modify_map_eq_set (fun e : StoreEntry => match e.status with
    | .held => e
    | .completed r d _ => { e with status := .completed r d true }) he
  rw [endAccess, hstores, markWritten]
  exact congrArg (fun st => ({ m with
    mem := _
    xch := { m.xch with causes := { m.xch.causes with order := true }, store := st } } : State)) hmark

/-- R93: the end of the last part of a publication. -/
theorem endAccess_even {m : State} {n : Nat} {bytes : List Byte} : endAccess (.publish n .even bytes) m = { m with
    mem := Memory.writeAll (areaCells m (0x1000 + 128 * n + 48) (le 4 (((client m n).version + 1) % 4294967296))) m.mem
    crs := { m.crs with
      clients := m.crs.clients.set n { client m n with version := ((client m n).version + 1) % 4294967296 } } } := by
  have hset := modify_eq_set m.crs.clients n (fun c => { c with version := incWrap32 c.version }) Client.reset
  rw [endAccess, endPublish, modClient]
  exact congrArg (fun cs => ({ m with mem := _, crs := { m.crs with clients := cs } } : State)) hset

/-- R180: the end of the read of the host words. -/
theorem endAccess_host {m : State} : endAccess .headerHost m = { m with xch := { m.xch with
    consumed := some (fieldLe (hostWords m) 0x0C 4)
    threshold := some (if fieldLe (hostWords m) 0x10 4 = 0 then 1 else min (fieldLe (hostWords m) 0x10 4) (m.xch.capacity.getD 0))
    period := some (if fieldLe (hostWords m) 0x14 4 = 0 then 1000 else max 125 (min 8000 (fieldLe (hostWords m) 0x14 4))) } } := by
  rw [← periodOf_eq]; rfl

/-- R186: the 32 bytes of a record. -/
theorem recordBytes_eq (rec : JournalRecord) : recordBytes rec =
    le 1 (bodyFields (rec.sec * 16000000000 + rec.ns * 16) rec.body).1 ++ [if rec.lossBefore then 1 else 0] ++
      le 2 (bodyFields (rec.sec * 16000000000 + rec.ns * 16) rec.body).2.1 ++ le 4 rec.ns ++ le 8 rec.sec ++
      (bodyFields (rec.sec * 16000000000 + rec.ns * 16) rec.body).2.2 ++
      List.replicate (16 - (bodyFields (rec.sec * 16000000000 + rec.ns * 16) rec.body).2.2.length) 0 := by
  have hsec : sixPerSec = 16000000000 := rfl
  simp only [recordBytes, hsec, flagByte, padTo, zeros, List.append_assoc]

/-- R186: the end of a journal record's access. -/
theorem endAccess_journal {m : State} {rec : JournalRecord} {rest : List JournalRecord} {capacity : Nat}
    (hstaging : m.xch.staging = rec :: rest) (hcap : m.xch.capacity = some capacity) : endAccess .journal m = { m with
      mem := Memory.writeAll (areaCells m (0x9000 + 32 * (m.xch.produced % capacity)) (recordBytes rec)) m.mem
      xch := { m.xch with staging := rest, produced := (m.xch.produced + 1) % 4294967296 } } := by
  have hstores : accessStores .journal m = areaCells m (0x9000 + 32 * (m.xch.produced % capacity)) (recordBytes rec) := by
    simp only [accessStores, journalStores, hstaging, hcap, storesAt_eq, journalOffset, Option.getD_some]
  simp only [endAccess, hstores, modXch, modMem, hstaging, incWrap32, List.drop_succ_cons, List.drop_zero]

/-- R180: the part words as they stand. -/
theorem headerWords_eq (s : State) : headerWords s =
    le 4 s.xch.produced ++ le 4 s.xch.lost ++ le 4 s.xch.sweeps ++ le 4 0 ++
      le 8 (s.tbs.time.six / 16000000000) ++ le 4 (s.tbs.time.six % 16000000000 / 16) ++ le 1 (s.tbs.time.six % 16) ++
      le 1 s.dsv.cls ++ le 1 (servoCode s.dsv.state) ++ le 1 (activeCode s.rfi.active) := by
  have hsec : sixPerSec = 16000000000 := rfl
  simp only [headerWords, timeBytes, secOf, nsOf, sixOf, now, Timebase.now, hsec, zeros_eq_le, List.append_assoc]

theorem endAccess_part {m : State} : endAccess .headerPart m =
    { m with mem := Memory.writeAll (areaCells m 0x20 (headerWords m)) m.mem } := rfl

/-- R177: a bus error ends the access in progress. -/
theorem busError_access {s : State} {a : Access} (h : s.xch.access = some a) (landed : Nat) :
    busError landed s = { s with
      mem := (busError landed s).mem
      crs := (cutAccess a s).crs
      xch := { s.xch with
        causes := { s.xch.causes with stall := true }
        state := if s.xch.haltAsked ∨ s.xch.resetAsked then s.xch.state else .stalled
        timer := none, timeUp := false, sweepPending := false, sweep := none, access := none } } := by
  have hstop : (if stopping s.xch then s.xch.state else .stalled) =
      if s.xch.haltAsked ∨ s.xch.resetAsked then s.xch.state else .stalled := by simp [stopping]
  rw [busError, h, ← hstop]
  cases a <;> rfl

/-- Settles O59, access by access: each leaves what its part of ch. 10 says, and the sweep goes on from there. -/
theorem accessesEnd : Obligations.AccessesEnd := by
  rintro s m host rfl base cells stored free goes
  refine ⟨fun h => exec_accessEnd_none h, ?take, ?config, ?complete, ?odd, ?fields, ?even, ?host, ?journal, ?part, ?bus⟩
  case take =>
    intro src o bytes j h hsweep htake hbytes hcookie ho taken config
    have hend : endAccess (.takeSlot src.slot.val) (clearAccess (modMem (Memory.writeAll host) s)) =
        handOrder o src.slot.val (takeOrder src.slot.val src.cookie o taken) := by
      rw [ho]; exact endAccess_take hcookie hbytes
    have hat : sweepAt taken.xch = (none, some (.orders j)) := by
      rw [← hsweep]; rfl
    refine ⟨fun code hcode => ?_, fun c u hc hno _ hu => ?_, fun r hconf hr => ?_, fun hconf hr => ?_⟩
    · refine accessEnd_goes (step := .orders j) h nofun (hend.trans ?_) ?_
      · rw [hcode]
        exact finish_take ..
      · exact hat
    · have hexec := (exec_handOrder (s := taken) hc hno htake).symm.trans hu
      obtain rfl := Host.Outcome.next.inj hexec
      exact accessEnd_goes (step := .orders j) h nofun hend ((handOrder_sweepAt hno _ _).trans hat)
    · have hr' : firstRefusal (takeOrder src.slot.val src.cookie o taken) o = some r := hr
      refine accessEnd_goes (step := .orders j) h nofun (hend.trans ?_) hat
      rw [handOrder_config hconf, hr']
      exact finish_take ..
    · have hr' : firstRefusal (takeOrder src.slot.val src.cookie o taken) o = none := hr
      have hbegun : handOrder o src.slot.val (takeOrder src.slot.val src.cookie o taken) =
          beginConfigRead src.slot.val (holding src o taken) := by
        rw [handOrder_config hconf, hr']; rfl
      by_cases hstop : s.xch.haltAsked = true ∨ s.xch.resetAsked = true
      · have hstops : stopping (holding src o taken).xch = true := Bool.or_eq_true_iff.2 hstop
        refine accessEnd_waits h nofun (hend.trans ?_) ?_
        · rw [hbegun, beginConfigRead, if_pos hstops, if_pos hstop]
        · rw [if_pos hstop]; exact .inr hstops
      · have hgoes : ¬ stopping (holding src o taken).xch = true := fun hs => hstop (Bool.or_eq_true_iff.1 hs)
        refine accessEnd_waits h nofun (hend.trans ?_) ?_
        · rw [hbegun, beginConfigRead, if_neg hgoes, if_neg hstop]; rfl
        · rw [if_neg hstop]; exact .inl rfl
  case odd =>
    intro n bytes h
    exact accessEnd_waits h nofun rfl (.inl rfl)
  case fields =>
    intro n bytes h
    exact accessEnd_waits h nofun rfl (.inl rfl)
  case even =>
    intro n bytes left h hsweep even
    exact accessEnd_goes (step := .clients left) h nofun endAccess_even (by rw [← hsweep]; rfl)
  case host =>
    intro left h hsweep ws threshold period
    exact accessEnd_goes (step := .journal left) h nofun endAccess_host (by rw [← hsweep]; rfl)
  case journal =>
    intro left rec rest capacity h hsweep hstaging hcap f
    have hend := endAccess_journal (m := clearAccess (modMem (Memory.writeAll host) s)) hstaging hcap
    rw [recordBytes_eq] at hend
    exact accessEnd_goes (step := .journal left) h nofun hend (by rw [← hsweep]; rfl)
  case complete =>
    intro n en r data written j h hen hstatus hsweep slot
    exact accessEnd_goes (step := .completions j) h nofun (endAccess_complete hen hstatus) (by rw [← hsweep]; rfl)
  case config =>
    intro src o c u j h hsweep hen hc hu
    have hagain := takeOrder_again (m := clearAccess (modMem (Memory.writeAll host) s)) hen
    have htake := canTake_emptied (clearAccess (modMem (Memory.writeAll host) s)) src.slot.val
    have hat : ∃ step, sweepAt (clearAccess (modMem (Memory.writeAll host) s)).xch = (none, some step) := by
      rcases hsweep with hs | hs
      · exact ⟨_, by rw [← hs]; rfl⟩
      · exact ⟨_, by rw [← hs]; rfl⟩
    obtain ⟨step, hat⟩ := hat
    obtain ⟨cl, rfl, rfl⟩ | ⟨cl, rfl, rfl⟩ := hc
    · have hu' := Host.Outcome.next.inj ((congrArg Host.Outcome.next (handOver_run _ (orderAdmit cl) htake)).symm.trans hu)
      rw [hagain] at hu'
      have hend := endAccess_admit (m := clearAccess (modMem (Memory.writeAll host) s)) hen
      exact accessEnd_goes (step := step) h nofun (hend.trans hu') (hu' ▸ (orderAdmit_sweepAt ..).trans hat)
    · have hu' := Host.Outcome.next.inj ((congrArg Host.Outcome.next (handOver_run _ (orderReconfig cl) htake)).symm.trans hu)
      rw [hagain] at hu'
      have hend := endAccess_reconfig (m := clearAccess (modMem (Memory.writeAll host) s)) hen
      exact accessEnd_goes (step := step) h nofun (hend.trans hu') (hu' ▸ (orderReconfig_sweepAt ..).trans hat)
  case part =>
    intro h hsweep written
    have hend : endAccess .headerPart (clearAccess (modMem (Memory.writeAll host) s)) = written := by
      rw [endAccess_part, headerWords_eq]; rfl
    have hat : written.xch.sweep = some .header := hsweep
    refine (exec_accessEnd h nofun).trans (congrArg Host.Outcome.next ?_)
    by_cases hstop : s.xch.haltAsked = true ∨ s.xch.resetAsked = true
    · have hstops : (stopping written.xch || written.xch.access.isSome) = true := by
        rw [Bool.or_eq_true]; exact .inl (Bool.or_eq_true_iff.2 hstop)
      rw [hend, afterAccess, if_pos hstops, if_pos hstop]
    · have hgoes : ¬ (stopping written.xch || written.xch.access.isSome) = true := fun hs => hstop (by
        rw [Bool.or_eq_true] at hs
        exact hs.elim Bool.or_eq_true_iff.1 fun ha => absurd ha Bool.false_ne_true)
      rw [hend, afterAccess, if_neg hgoes, if_neg hstop, goOn, hat]
      rfl
  case bus =>
    intro landed
    refine ⟨fun h => congrArg Host.Outcome.next ?_, fun a h => ?_⟩
    · rw [busError, h]
    · have hbus := busError_access h landed
      have hcrs : (busError landed s).crs = (cutAccess a s).crs := (congrArg State.crs hbus :)
      refine ⟨_, rfl, ?_, ?_⟩
      · rw [hcrs]; exact hbus
      · rw [hcrs]; cases a <;> rfl

end Sys2Proof.Machine

namespace Sys2Proof.Machine

/-! ## A step reaches the blocks (R7, R30, R73, R83 to R85, R108, R109, R153, R167) -/

section
variable {s : State} {p : PostedStep} {blocks : List Block}

theorem report_step {p : PostedStep} (hp : s.tbs.posted = some p) (hd : s.tbs.stepDue = true) :
    s.tbs.report.step = some p.delta := by rw [report_stepped hp hd]

/-! ### The Timebase -/

/-- R7, R8: the tick of a step, as the Timebase remembers it. -/
theorem boundary_stepTick (hp : s.tbs.posted = some p) (hd : s.tbs.stepDue = true) :
    (boundary blocks s).tbs.stepTick = some { start := s.tbs.time.units, delta := p.delta } ∧
      (boundary blocks s).tbs.lastInc = s.tbs.tickInc := by
  obtain ⟨u, hu, -, ht, -⟩ := boundary_tbs blocks s
  obtain ⟨offset, leap, htbs⟩ := tbsBoundary_tbs s.tbs.report u
  have htick : s.tbs.boundaryTick.stepTick = some { start := s.tbs.time.units, delta := p.delta } ∧
      s.tbs.boundaryTick.lastInc = s.tbs.tickInc := by
    rw [Timebase.boundaryTick, dueDelta_some hp hd]
    exact ⟨rfl, rfl⟩
  rw [ht, htbs, hu]
  exact htick

theorem stamp_early (tb : Timebase) (f : Fraction) :
    tb.stamp ⟨f, false⟩ = stampOfUnits (tb.time.units + tickPart f tb.tickInc) := rfl

/-- R7: an event of the tick of a step, taken after it, has the stamp from before it, moved. -/
theorem stamp_late {tb u : Timebase} {d : Int} (hstep : u.stepTick = some { start := tb.time.units, delta := d })
    (hinc : u.lastInc = tb.tickInc) (f : Fraction) : u.stamp ⟨f, true⟩ = moveBy d (tb.stamp ⟨f, false⟩) := by
  simp only [Timebase.stamp, hstep, hinc]
  rfl

theorem stampOfUnits_eq (u : Nat) : stampOfUnits u = u % (2 ^ 48 * 4294967296000000000) / 2 ^ 28 := rfl

/-! ### The Reference Intake -/

theorem blockBoundary_rfi {r : Report} {b : Block} (hb : b ≠ .rfi) (s : State) : (blockBoundary r b s).rfi = s.rfi := by
  cases b
  case rfi => exact absurd rfl hb
  all_goals simp [blockBoundary]

theorem boundary_rfi (hp : s.tbs.posted = some p) (hd : s.tbs.stepDue = true) : (boundary blocks s).rfi = { s.rfi with
    revertAt := s.rfi.revertAt.map (moveBy p.delta), inputs := mapPair (RefIn.move p.delta) s.rfi.inputs } := by
  obtain ⟨u, hu, ht⟩ := boundary_around (R := fun u v => v.rfi = u.rfi) (fun _ => rfl) (fun h k => k.trans h) .rfi blocks s
    fun b hb v => blockBoundary_rfi hb v
  rw [ht, blockBoundary, report_step hp hd]
  exact congrArg (fun r : RefIntake => { r with
    revertAt := r.revertAt.map (moveBy p.delta), inputs := mapPair (RefIn.move p.delta) r.inputs }) hu

/-! ### The pulse channels -/

theorem stepChannel_fall (d : Int) (t : Nat) (ch : Channel) : (stepChannel d t ch).fall = none := by
  unfold stepChannel
  split <;> rfl

/-- R153: no pulse is left in progress. -/
theorem boundary_falls (hp : s.tbs.posted = some p) (hd : s.tbs.stepDue = true) :
    ∀ ch ∈ (boundary blocks s).pou.channels, ch.fall = none := by
  obtain ⟨u, -, ht⟩ := boundary_pou 0 blocks s
  intro ch hch
  obtain ⟨c, hc, rfl⟩ := List.mem_iff_getElem.1 hch
  have hget : (boundary blocks s).pou.channels[c] = channel (boundary blocks s) c := by
    rw [channel, List.getD_eq_getElem?_getD, List.getElem?_eq_getElem hc]; rfl
  have hstep : (channel (pouBoundary s.tbs.report u) c).fall = none := by
    rw [pouBoundary_eq, report_step hp hd]
    dsimp only
    rw [channel_pouStep]
    exact stepChannel_fall ..
  obtain ⟨fall, hfall, hafter⟩ := ht.channels c
  rw [hget, hafter]
  exact hfall.elim (fun h => h.trans hstep) id

/-! ### The Link Ports -/

theorem blockBoundary_now (r : Report) (b : Block) (s : State) : now (blockBoundary r b s) = now s := by
  by_cases hb : b = .tbs
  · subst hb
    obtain ⟨offset, leap, h⟩ := tbsBoundary_tbs r s
    rw [now, now, blockBoundary, h]; rfl
  · rw [now, now, blockBoundary_tbs hb]

theorem boundary_now (blocks : List Block) (s : State) : now (boundary blocks s) = now (ticked s) :=
  forEach_keeps (fun u => now u = now (ticked s)) (blockBoundary s.tbs.report) _
    (fun b _ u hu => (blockBoundary_now _ b u).trans hu) (ticked s) rfl

/-- R100, R109: the Ranging Engine's turn leaves of a port all but its Range request. -/
theorem rngBoundary_holdoff (r : Report) (s : State) (port : Port) :
    (link (rngBoundary r s) port).holdoff = (link s port).holdoff := by
  have hrun : ∀ m : State, m.lnk = s.lnk → (forEach (occupied m) (clientDebt r.epoch) m).lnk = s.lnk := fun m hm =>
    forEach_keeps (fun u => u.lnk = s.lnk) (clientDebt r.epoch) _ (fun k _ u hu => by simpa using hu) m hm
  have heq : ∃ m, m.lnk = s.lnk ∧ rngBoundary r s = refreshBoth (forEach (occupied m) (clientDebt r.epoch) m) := by
    cases hr : r.step with
    | none => exact ⟨s, rfl, by rw [rngBoundary, hr]⟩
    | some d => exact ⟨rngStep d s, by simp, by rw [rngBoundary, hr]⟩
  obtain ⟨m, hm, heq⟩ := heq
  rw [heq, (refreshBoth_rest _ port).2]
  exact congrArg (fun l => (atPort l port).holdoff) (hrun m hm)

theorem blockBoundary_holdoff {r : Report} {b : Block} (hb : b ≠ .lnk) (s : State) (port : Port) :
    (link (blockBoundary r b s) port).holdoff = (link s port).holdoff := by
  cases b
  case lnk => exact absurd rfl hb
  case rng => exact rngBoundary_holdoff r s port
  case rfi =>
    simp only [blockBoundary]
    split <;> rfl
  all_goals simp [blockBoundary, link]

/-- R73: the holdoffs at a step. -/
theorem boundary_holdoff (hp : s.tbs.posted = some p) (hd : s.tbs.stepDue = true) (port : Port) :
    (link (boundary blocks s) port).holdoff =
      ((link s port).holdoff.map (moveBy p.delta)).filter (fun u => decide (now (boundary blocks s) < u)) := by
  obtain ⟨u, ⟨hu, hnow⟩, ht, -⟩ := boundary_around
    (R := fun u v => (link v port).holdoff = (link u port).holdoff ∧ now v = now u)
    (fun _ => ⟨rfl, rfl⟩) (fun h k => ⟨k.1.trans h.1, k.2.trans h.2⟩) .lnk blocks s
    fun b hb v => ⟨blockBoundary_holdoff hb v port, blockBoundary_now _ b v⟩
  have hlnk : (link (blockBoundary s.tbs.report .lnk u) port).holdoff =
      ((link u port).holdoff.map (moveBy p.delta)).filter (fun v => decide (now u < v)) := by
    rw [blockBoundary, lnkBoundary, report_step hp hd]
    cases port <;> rfl
  rw [ht, hlnk, hu, boundary_now, hnow]
  rfl

/-! ### The exchanges and windows -/

/-- The last-expired tags that the debts of a boundary leave. -/
theorem debts_expired (epoch : Nat) (s : State) (n : Nat) (port : Port) :
    (path (forEach (occupied s) (clientDebt epoch) s) n port).lastExpired = (path s n port).lastExpired := by
  by_cases hv : (client s n).state = .vacant
  · rw [path, clients_vacant (fun k u => clientDebt_onSlot (n := k) epoch u) hv]; rfl
  · obtain ⟨u, hu, ht⟩ :=
      clients_around (fun k u => clientDebt_onSlot (n := k) epoch u) (fun k u => clientDebt_hands (.refl u)) hv
    obtain ⟨-, ⟨st, hst⟩, -⟩ := clientDebt_spec (s := u) epoch (by rw [hu.client]; exact hv)
    have hkept (x : Bool) (q : Path) : (debited x q).lastExpired = q.lastExpired := by
      unfold debited owed
      split_ifs <;> rfl
    unfold path
    rw [ht.client, hst, hu.client]
    cases port <;> exact hkept ..

/-- R107, R108: voiding a table sets no last-expired tag. -/
theorem voidPort_expired {n : Nat} {port : Port} (q : Port) (h : (path s n port).lastExpired = none) :
    (path (voidPort q s) n port).lastExpired = none := by
  refine forEach_keeps (fun u => (path u n port).lastExpired = none) (fun (e : Exchange) u => clearExpired e.slot q u) _
    (fun e _ u hu => ?_) s h
  obtain hc | ⟨rfl, -, hc⟩ := client_modClient_cases e.slot n
    (fun c => { c with paths := modPort q (fun x => { x with lastExpired := none }) c.paths }) u
  · exact (congrArg (fun c : Client => (atPort c.paths port).lastExpired) hc).trans hu
  · refine (congrArg (fun c : Client => (atPort c.paths port).lastExpired) hc).trans ?_
    cases q <;> cases port
    · rfl
    · exact hu
    · exact hu
    · rfl

/-- R109: what an applied step leaves of a port's exchanges. -/
theorem rngStep_port (d : Int) (s : State) (port : Port) :
    rangePort (rngStep d s) port = { rangePort s port with table := [], history := (rangePort s port).history.map (moveBy d) } ∧
    (rngStep d s).rng.settings = s.rng.settings ∧
    ∀ x ∈ (rangePort s port).table, (path (rngStep d s) x.slot port).lastExpired = none := by
  obtain ⟨hrngA, hexpA⟩ := voidPort_spec .a s
  obtain ⟨hrngB, hexpB⟩ := voidPort_spec .b (voidPort .a s)
  have hrng : (voidPort .b (voidPort .a s)).rng = (modRange .b (fun r => { r with table := [] })
      (modRange .a (fun r => { r with table := [] }) s)).rng := by
    rw [hrngB]
    exact congrArg (fun r : Ranging => { r with ports := modPort .b (fun r => { r with table := [] }) r.ports }) hrngA
  have hstep : (rngStep d s).rng = { (voidPort .b (voidPort .a s)).rng with
      ports := mapPair (fun q => { q with history := q.history.map (moveBy d) }) (voidPort .b (voidPort .a s)).rng.ports } := rfl
  have htable : (rangePort (voidPort .a s) .b).table = (rangePort s .b).table := by
    rw [rangePort, hrngA]; rfl
  refine ⟨?_, ?_, fun x hx => ?_⟩
  · rw [rangePort, hstep, hrng]
    cases port <;> rfl
  · rw [hstep, hrng]; rfl
  · have hvoid : (path (voidPort .b (voidPort .a s)) x.slot port).lastExpired = none := by
      cases port with
      | a => exact voidPort_expired (s := voidPort .a s) .b (hexpA x hx)
      | b => exact hexpB x (by rw [htable]; exact hx)
    exact hvoid

/-- R109: the Ranging Engine's turn at a step. -/
theorem rngBoundary_stepped {r : Report} {d : Int} (hr : r.step = some d) (s : State) (port : Port) :
    (rangePort (rngBoundary r s) port).table = [] ∧
    (rangePort (rngBoundary r s) port).history = (rangePort s port).history.map (moveBy d) ∧
    (rangePort (rngBoundary r s) port).tagCounter = (rangePort s port).tagCounter ∧
    (rngBoundary r s).rng.settings = s.rng.settings ∧
    ∀ x ∈ (rangePort s port).table, (path (rngBoundary r s) x.slot port).lastExpired = none := by
  obtain ⟨hport, hsettings, hexpired⟩ := rngStep_port d s port
  have hturn : rngBoundary r s = refreshBoth (forEach (occupied (rngStep d s)) (clientDebt r.epoch) (rngStep d s)) := by
    rw [rngBoundary, hr]
  have hrun : (forEach (occupied (rngStep d s)) (clientDebt r.epoch) (rngStep d s)).rng = (rngStep d s).rng :=
    forEach_keeps (fun u => u.rng = (rngStep d s).rng) (clientDebt r.epoch) _ (fun k _ u hu => by simpa using hu) _ rfl
  have hrefreshed (w : State) : (refreshBoth w).rng.settings = w.rng.settings := rfl
  have hafter : rangePort (rngBoundary r s) port =
      { rangePort (rngStep d s) port with windowAt := (rangePort (rngBoundary r s) port).windowAt } := by
    rw [hturn, (refreshBoth_rest _ port).1]
    simp only [rangePort, hrun]
  rw [hafter, hport]
  refine ⟨rfl, rfl, rfl, ?_, fun x hx => ?_⟩
  · rw [hturn, hrefreshed, hrun]
    exact hsettings
  · rw [hturn, path, client_refreshBoth]
    exact (debts_expired r.epoch (rngStep d s) x.slot port).trans (hexpired x hx)

/-- R109, R100, R102: the exchanges, windows and Range requests at a step. -/
theorem boundary_ranging (hp : s.tbs.posted = some p) (hd : s.tbs.stepDue = true) (port : Port) :
    let t := boundary blocks s
    (rangePort t port).table = [] ∧ (rangePort t port).history = (rangePort s port).history.map (moveBy p.delta) ∧
    (rangePort t port).tagCounter = (rangePort s port).tagCounter ∧
    (windowHasRoom t port → (rangePort t port).windowAt = none) ∧
    (¬ windowHasRoom t port → (rangePort t port).windowAt =
      ((rangePort t port).history.reverse[s.rng.settings.limit - 1]?).map (· + s.rng.settings.window * 16000)) ∧
    ((link t port).rangeReq = true ↔ launchHolds t port) ∧
    ∀ x ∈ (rangePort s port).table, (path t x.slot port).lastExpired = none := by
  intro t
  obtain ⟨u, hu, ht⟩ := boundary_around (DebtStands.refl (s.tbs.report.step = none)) DebtStands.trans .rng blocks s
    fun b hb v => blockBoundary_debtStands hb v
  rw [blockBoundary] at ht
  have hport : rangePort u port = rangePort s port := congrArg (fun r : Ranging => atPort r.ports port) hu.rng
  have hset : u.rng.settings = s.rng.settings := congrArg Ranging.settings hu.rng
  obtain ⟨htable, hhistory, hcounter, hsettings, hexpired⟩ := rngBoundary_stepped (report_step hp hd) u port
  rw [hport] at hhistory hcounter hexpired
  have hafter : rangePort t port = rangePort (rngBoundary s.tbs.report u) port :=
    congrArg (fun r : Ranging => atPort r.ports port) ht.rng
  have hfresh : RangeFresh (rngBoundary s.tbs.report u) port := refreshBoth_fresh _ port
  have hroom : windowHasRoom t port ↔
      windowPermits s.rng.settings (rangePort t port).history (now (rngBoundary s.tbs.report u)) = true := by
    rw [windowHasRoom, ht.rng, hsettings, hset, ht.time]
    exact decide_eq_true_iff.symm
  have hwindow : (rangePort t port).windowAt =
      windowOpens s.rng.settings (rangePort t port).history (now (rngBoundary s.tbs.report u)) := by
    rw [hafter, hfresh.window, hsettings, hset]
  refine ⟨hafter ▸ htable, hafter ▸ hhistory, hafter ▸ hcounter, fun h => ?_, fun h => ?_, ?_, fun x hx => ?_⟩
  · rw [hwindow, windowOpens, if_pos (hroom.1 h)]
  · rw [hwindow, windowOpens, if_neg fun hp => h (hroom.2 hp)]; rfl
  · rw [(ht.links port).2, ht.launchHolds]
    exact hfresh.req
  · obtain ⟨a, ha⟩ := (ht.owing x.slot).path port
    refine (congrArg Path.lastExpired (ha : path t x.slot port = _)).trans ?_
    exact hexpired x hx

end

end Sys2Proof.Machine

namespace Sys2Proof.Machine

section
variable {s t u v : State} {n : Nat} {cause : ClientCause} {prev : ClientState} {c d : Client}

/-! ### The clients, between the turns of the Roster and the Ranging Engine -/

/-- Two clients alike in what the table of R83 and a CLIENT_STATE record look at, the paths apart. -/
structure EvalKept (c d : Client) : Prop where
  config : d.config = c.config
  reverify : d.reverify = c.reverify
  offsetV : d.offsetV = c.offsetV
  pulseV : d.pulseV = c.pulseV

/-- Two clients alike in all that these look at. -/
structure EvalLike (c d : Client) : Prop extends EvalKept c d where
  path : ∀ p, (atPort d.paths p).state = (atPort c.paths p).state

theorem EvalKept.trans {e : Client} (h : EvalKept c d) (k : EvalKept d e) : EvalKept c e :=
  ⟨k.config.trans h.config, k.reverify.trans h.reverify, k.offsetV.trans h.offsetV, k.pulseV.trans h.pulseV⟩

theorem EvalKept.symm (h : EvalKept c d) : EvalKept d c :=
  ⟨h.config.symm, h.reverify.symm, h.offsetV.symm, h.pulseV.symm⟩

theorem EvalKept.reverified (h : EvalKept c d) : EvalKept (reverified c) (reverified d) := ⟨h.config, rfl, rfl, rfl⟩

theorem EvalLike.refl (c : Client) : EvalLike c c := ⟨⟨rfl, rfl, rfl, rfl⟩, fun _ => rfl⟩

theorem EvalLike.trans {e : Client} (h : EvalLike c d) (k : EvalLike d e) : EvalLike c e :=
  ⟨h.toEvalKept.trans k.toEvalKept, fun p => (k.path p).trans (h.path p)⟩

theorem EvalLike.symm (h : EvalLike c d) : EvalLike d c := ⟨h.toEvalKept.symm, fun p => (h.path p).symm⟩

theorem EvalLike.reverified (h : EvalLike c d) : EvalLike (reverified c) (reverified d) := ⟨h.toEvalKept.reverified, h.path⟩

theorem EvalLike.tableState (h : EvalLike c d) : tableState d = tableState c := by
  have ha : d.paths.a.state = c.paths.a.state := h.path .a
  have hb : d.paths.b.state = c.paths.b.state := h.path .b
  rw [Machine.tableState, Machine.tableState, h.config, h.reverify, h.offsetV, h.pulseV, ha, hb]

/-- An evaluation inside a longer stretch, told of a client alike. -/
theorem evaluatedFrom_grown (h : evaluatedFrom n cause prev c u v) (hbefore : Grows s u) (hafter : Grows v t)
    (hlike : EvalLike c d) : evaluatedFrom n cause prev d s t := by
  have ha : d.paths.a.state = c.paths.a.state := hlike.path .a
  have hb : d.paths.b.state = c.paths.b.state := hlike.path .b
  intro hne
  rw [hlike.tableState] at hne ⊢
  obtain ⟨hhanded, hq, hjoin⟩ := h hne
  rw [hlike.config, hlike.offsetV, hlike.pulseV, ha, hb]
  refine ⟨hafter.handedOn (hbefore.handedOn_before hhanded), hafter.queue _ hq, fun hf p hv => hafter.roll p n (hjoin hf p ?_)⟩
  rw [← hlike.path]; exact hv

/-- What the blocks other than Roster and Ranging Engine leave of a client at a boundary. -/
structure EvalStands (n : Nat) (s t : State) : Prop where
  like : EvalLike (client s n) (client t n)
  state : (client t n).state = (client s n).state
  grows : Grows s t

theorem EvalStands.refl (n : Nat) (s : State) : EvalStands n s s := ⟨.refl _, rfl, .refl s⟩

theorem EvalStands.trans (h : EvalStands n s t) (k : EvalStands n t u) : EvalStands n s u :=
  ⟨h.like.trans k.like, k.state.trans h.state, h.grows.trans k.grows⟩

theorem blockBoundary_evalStands {r : Report} {b : Block} (hcrs : b ≠ .crs) (hrng : b ≠ .rng) (s : State) :
    EvalStands n s (blockBoundary r b s) := by
  have hg : Grows s (blockBoundary r b s) := blockBoundary_grows (.refl s)
  have hframe (h : (blockBoundary r b s).crs = s.crs) : EvalStands n s (blockBoundary r b s) := by
    have hc : client (blockBoundary r b s) n = client s n := congrArg (fun x : Roster => x.clients.getD n Client.reset) h
    exact ⟨by rw [hc]; exact .refl _, by rw [hc], hg⟩
  cases b
  case crs => exact absurd rfl hcrs
  case rng => exact absurd rfl hrng
  case evc => exact hframe (evcBoundary_clients r s).1
  case bcu =>
    have hc := bcuBoundary_client r n s
    cases hr : r.step with
    | none =>
      rw [hr] at hc
      exact ⟨by rw [blockBoundary, hc]; exact .refl _, by rw [blockBoundary, hc], hg⟩
    | some d =>
      rw [hr] at hc
      refine ⟨?_, by rw [blockBoundary, hc]; rfl, hg⟩
      rw [blockBoundary, hc]
      exact ⟨⟨rfl, rfl, rfl, rfl⟩, fun p => by cases p <;> rfl⟩
  case rfi =>
    refine hframe ?_
    simp only [blockBoundary]
    split <;> simp
  all_goals exact hframe (by simp [blockBoundary])

/-- Log 6: a boundary around two of its blocks, in the order in which they take the report. -/
theorem boundary_around_two {R : State → State → Prop} (hrefl : ∀ u, R u u) (htrans : ∀ {u v w}, R u v → R v w → R u w)
    {b c : Block} (hbc : b ≠ c) (named : List Block) (s : State)
    (hothers : ∀ b', b' ≠ b → b' ≠ c → ∀ v, R v (blockBoundary s.tbs.report b' v)) :
    ∃ x y, (x = b ∧ y = c ∨ x = c ∧ y = b) ∧ ∃ u v, R (ticked s) u ∧ R (blockBoundary s.tbs.report x u) v ∧
      R (blockBoundary s.tbs.report y v) (boundary named s) := by
  have hsplit : ∃ x y, (x = b ∧ y = c ∨ x = c ∧ y = b) ∧ ∃ before between after,
      blockOrder named = before ++ x :: (between ++ y :: after) := by
    obtain ⟨before, after, horder⟩ := List.append_of_mem (mem_blockOrder named b)
    have hc : c ∈ before ++ b :: after := horder ▸ mem_blockOrder named c
    rcases List.mem_append.1 hc with h | h
    · obtain ⟨first, between, rfl⟩ := List.append_of_mem h
      exact ⟨c, b, .inr ⟨rfl, rfl⟩, first, between, after, by rw [horder]; simp⟩
    · obtain ⟨between, last, rfl⟩ := List.append_of_mem ((List.mem_cons.1 h).resolve_left (Ne.symm hbc))
      exact ⟨b, c, .inl ⟨rfl, rfl⟩, before, between, last, horder⟩
  obtain ⟨x, y, hxy, before, between, after, horder⟩ := hsplit
  have hothers' : ∀ z, z ≠ x → z ≠ y → ∀ v, R v (blockBoundary s.tbs.report z v) := by
    rcases hxy with ⟨rfl, rfl⟩ | ⟨rfl, rfl⟩
    · exact hothers
    · exact fun z hx hy => hothers z hy hx
  have hrun (bs : List Block) (hx : x ∉ bs) (hy : y ∉ bs) (v : State) : R v (forEach bs (blockBoundary s.tbs.report) v) :=
    forEach_keeps (R v) _ bs
      (fun z hz u hu => htrans hu (hothers' z (fun e => hx (e ▸ hz)) (fun e => hy (e ▸ hz)) u)) v (hrefl v)
  have hnodup := horder ▸ blockOrder_nodup named
  rw [List.nodup_append, List.nodup_cons, List.nodup_append, List.nodup_cons] at hnodup
  obtain ⟨-, ⟨hx, -, ⟨hy, -⟩, hbetween⟩, hbefore⟩ := hnodup
  have hmemy : y ∈ x :: (between ++ y :: after) := by simp
  refine ⟨x, y, hxy, forEach before (blockBoundary s.tbs.report) (ticked s),
    forEach between (blockBoundary s.tbs.report)
      (blockBoundary s.tbs.report x (forEach before (blockBoundary s.tbs.report) (ticked s))), ?_, ?_, ?_⟩
  · exact hrun before (fun h => hbefore x h x List.mem_cons_self rfl) (fun h => hbefore y h y hmemy rfl) _
  · exact hrun between (fun h => hx (List.mem_append_left _ h)) (fun h => hbetween y h y List.mem_cons_self rfl) _
  · rw [boundary_eq, horder, forEach_append, forEach_cons, forEach_append, forEach_cons]
    exact hrun after (fun h => hx (List.mem_append_right _ (List.mem_cons_of_mem _ h))) hy _

/-! ### What a step makes of a client -/

/-- R85: the Roster's turn at a step clears the verdicts and flags the client; its table state is then its state. -/
theorem crsBoundary_stepped {r : Report} {x : Int} (hr : r.step = some x) (hv : (client s n).state ≠ .vacant) :
    stateFollows n .step s (crsBoundary r s) ∧ EvalLike (reverified (client s n)) (client (crsBoundary r s) n) := by
  obtain ⟨hfollows, st, hst⟩ := crsBoundary_client hr hv
  refine ⟨hfollows, ?_⟩
  rw [hst]
  exact ⟨⟨rfl, rfl, rfl, rfl⟩, fun _ => rfl⟩

/-- R98: the Ranging Engine's turn leaves of a client all but its state and paths. -/
theorem rngBoundary_kept (r : Report) (hv : (client s n).state ≠ .vacant) :
    stateFollows n .path s (rngBoundary r s) ∧ EvalKept (client s n) (client (rngBoundary r s) n) := by
  obtain ⟨hfollows, ⟨a, b, st, -, hst⟩, -⟩ := rngBoundary_client r hv
  refine ⟨hfollows, ?_⟩
  rw [hst]
  exact ⟨rfl, rfl, rfl, rfl⟩

theorem stateFollows.occupied (h : stateFollows n cause s t) : (client t n).state ≠ .vacant := by
  rw [h.1, ← derivedState_eq]; exact derivedState_ne_vacant _

/-- R85, R98: the two evaluations of a client at the boundary of a step, in the order of the two blocks. -/
theorem boundary_evaluations {p : PostedStep} {blocks : List Block} (hp : s.tbs.posted = some p) (hd : s.tbs.stepDue = true)
    (hv : (client s n).state ≠ .vacant) :
    let t := boundary blocks s
    let owing : Client := { client s n with paths := (client t n).paths }
    (client t n).state = Machine.tableState (client t n) ∧
    EvalLike (reverified owing) (client t n) ∧
    (evaluatedFrom n .step (client s n).state (reverified (client s n)) s t ∧
        evaluatedFrom n .path (Machine.tableState (reverified (client s n))) (client t n) s t ∨
      evaluatedFrom n .path (client s n).state owing s t ∧
        evaluatedFrom n .step (Machine.tableState owing) (client t n) s t) := by
  intro t owing
  have howing : EvalKept (client s n) owing := ⟨rfl, rfl, rfl, rfl⟩
  have hstep := report_step hp hd
  obtain ⟨x, y, hxy, u, v, hu, huv, hvt⟩ := boundary_around_two (EvalStands.refl n) EvalStands.trans (b := .crs) (c := .rng)
    (by decide) blocks s fun b hcrs hrng w => blockBoundary_evalStands hcrs hrng w
  have hulike : EvalLike (client s n) (client u n) := hu.like
  have hustate : (client u n).state = (client s n).state := hu.state
  have hsu : Grows s u := (ticked_grows s).trans hu.grows
  have huv' : (client u n).state ≠ .vacant := by rw [hustate]; exact hv
  rcases hxy with ⟨rfl, rfl⟩ | ⟨rfl, rfl⟩
  · obtain ⟨hfirst, hlike⟩ := crsBoundary_stepped (s := u) hstep huv'
    have hvv : (client v n).state ≠ .vacant := by rw [huv.state]; exact hfirst.occupied
    obtain ⟨hlast, hkept⟩ := rngBoundary_kept s.tbs.report hvv
    have hsteppedU : EvalLike (client (crsBoundary s.tbs.report u) n) (reverified (client s n)) :=
      (hulike.reverified.trans hlike).symm
    have hsteppedV : EvalKept (reverified (client s n)) (client v n) := hsteppedU.symm.toEvalKept.trans huv.like.toEvalKept
    have htable : tableState (reverified (client s n)) = (client v n).state := by
      rw [hsteppedU.tableState, huv.state]; exact hfirst.1.symm
    refine ⟨?_, ⟨?_, fun _ => rfl⟩, .inl ⟨?_, ?_⟩⟩
    · rw [hvt.like.tableState, hvt.state]; exact hlast.1
    · exact howing.symm.reverified.trans (hsteppedV.trans (hkept.trans hvt.like.toEvalKept))
    · rw [← hustate]
      exact evaluatedFrom_grown hfirst.2 hsu ((blockBoundary_grows (b := .rng) huv.grows).trans hvt.grows) hsteppedU
    · rw [htable]
      exact evaluatedFrom_grown hlast.2 ((blockBoundary_grows (b := .crs) hsu).trans huv.grows) hvt.grows hvt.like
  · obtain ⟨hfirst, hkept⟩ := rngBoundary_kept s.tbs.report huv'
    have hvv : (client v n).state ≠ .vacant := by rw [huv.state]; exact hfirst.occupied
    obtain ⟨hlast, hlike⟩ := crsBoundary_stepped (s := v) hstep hvv
    have htv : EvalLike (reverified (client v n)) (client t n) := hlike.trans hvt.like
    have howingU : EvalLike (client (rngBoundary s.tbs.report u) n) owing :=
      ⟨(hulike.toEvalKept.trans hkept).symm.trans howing, fun q => (htv.path q).trans (huv.like.path q)⟩
    have htable : tableState owing = (client v n).state := by
      rw [howingU.tableState, huv.state]; exact hfirst.1.symm
    refine ⟨?_, ⟨?_, fun _ => rfl⟩, .inr ⟨?_, ?_⟩⟩
    · rw [hvt.like.tableState, hvt.state]; exact hlast.1
    · exact (howingU.symm.toEvalKept.trans huv.like.toEvalKept).reverified.trans htv.toEvalKept
    · rw [← hustate]
      exact evaluatedFrom_grown hfirst.2 hsu ((blockBoundary_grows (b := .crs) huv.grows).trans hvt.grows) howingU
    · rw [htable]
      exact evaluatedFrom_grown hlast.2 ((blockBoundary_grows (b := .rng) hsu).trans huv.grows) hvt.grows hvt.like

/-- Whether a slot holds a client stands throughout a boundary. -/
theorem boundary_occupied {blocks : List Block} (h : (client (boundary blocks s) n).state ≠ .vacant) :
    (client s n).state ≠ .vacant := by
  obtain ⟨u, hu, ht⟩ := boundary_around (DebtStands.refl (s.tbs.report.step = none)) DebtStands.trans .rng blocks s
    fun b hb v => blockBoundary_debtStands hb v
  intro hv
  have hu0 : (client u n).state = .vacant := (hu.owing n).vacant.2 hv
  obtain ⟨a, b, hrng⟩ := rngBoundary_vacant (r := s.tbs.report) hu0
  exact h ((ht.owing n).vacant.2 ((congrArg Client.state hrng).trans hu0))

/-! ### The capture inputs -/

theorem confirmIf_others (reached : Nat → Bool) {i : Fin 4} {j : Nat} (hj : j ≠ i.val) (s : State) :
    captureIn (confirmIf reached i s) j = captureIn s j := by
  have hpulse (k : Nat) (p : Int) (within : Bool) (u : State) : captureIn (pulseResult k p within u) j = captureIn u j := by
    simp [captureIn]
  have hrecord (cap : Captured) (interval : Option Nat) (outcome : CaptureOutcome) (p : Option Int) (u : State) :
      captureIn (captureRecord i cap interval outcome p u) j = captureIn u j := by simp [captureIn]
  have hcapture (cap : Captured) (u : State) : captureIn (capture i cap u) j = captureIn u j := by
    simp only [capture]
    split
    · rw [hrecord, captureIn_modCapture_ne _ _ hj, captureIn_modCapture_ne _ _ hj]
    · split <;> rw [hpulse, hrecord, captureIn_modCapture_ne _ _ hj, captureIn_modCapture_ne _ _ hj]
  unfold confirmIf
  split
  · rfl
  · split
    · simp only [confirm]
      split
      · rw [hcapture, captureIn_modCapture_ne _ _ hj]
      · rw [captureIn_modCapture_ne _ _ hj]
    · rfl

theorem captureIn_stepped (d : Int) {i : Nat} (hi : i < s.evc.length) :
    captureIn { s with evc := s.evc.map (stepCapture d) } i = stepCapture d (captureIn s i) := by
  change (s.evc.map (stepCapture d)).getD i CaptureIn.reset = stepCapture d (s.evc.getD i CaptureIn.reset)
  rw [List.getD_eq_getElem?_getD, List.getElem?_map, List.getD_eq_getElem?_getD, List.getElem?_eq_getElem hi]
  rfl

/-- R167: one capture input in the captures' turn at a step. -/
theorem evcBoundary_input {r : Report} {d : Int} (hr : r.step = some d) (i : Fin 4) (hi : i.val < s.evc.length) :
    ∃ u, Grows s u ∧ captureIn u i.val = stepCapture d (captureIn s i.val) ∧
      captureIn (evcBoundary r s) i.val = captureIn (confirmIf (fun t => decide (t ≤ now s)) i u) i.val ∧
      Grows (confirmIf (fun t => decide (t ≤ now s)) i u) (evcBoundary r s) := by
  obtain ⟨u, ⟨hu, hgu⟩, ht, hgt⟩ := forEach_around (R := fun u v => captureIn v i.val = captureIn u i.val ∧ Grows u v)
    (fun u => ⟨rfl, .refl u⟩) (fun h k => ⟨k.1.trans h.1, h.2.trans k.2⟩)
    (f := confirmIf (fun t => decide (t ≤ now s))) (xs := [(0 : Fin 4), 1, 2, 3]) (x := i)
    ((by decide : ∀ j : Fin 4, j ∈ [(0 : Fin 4), 1, 2, 3]) i) (by decide)
    (fun y hy u => ⟨confirmIf_others _ (fun e => hy (Fin.ext e.symm)) u, (confirmIf_hands (.refl u)).grows⟩)
    { s with evc := s.evc.map (stepCapture d) }
  have heq : evcBoundary r s = forEach [(0 : Fin 4), 1, 2, 3] (confirmIf (fun t => decide (t ≤ now s)))
      { s with evc := s.evc.map (stepCapture d) } := by rw [evcBoundary, hr]
  have hmapped : Grows s { s with evc := s.evc.map (stepCapture d) } := (Grows.refl s).same rfl rfl fun _ => rfl
  rw [heq]
  exact ⟨u, hmapped.trans hgu, hu.trans (captureIn_stepped d hi), ht, hgt⟩

theorem blockBoundary_evc {r : Report} {b : Block} (hb : b ≠ .evc) (s : State) : (blockBoundary r b s).evc = s.evc := by
  cases b
  case evc => exact absurd rfl hb
  case rfi =>
    simp only [blockBoundary]
    split <;> simp
  all_goals simp [blockBoundary]

/-- R167: a capture input at the boundary of a step. -/
theorem boundary_capture {p : PostedStep} {blocks : List Block} (hp : s.tbs.posted = some p) (hd : s.tbs.stepDue = true)
    (i : Fin 4) (hi : i.val < s.evc.length) :
    let t := boundary blocks s
    ∃ u, Grows s u ∧ captureIn u i.val = stepCapture p.delta (captureIn s i.val) ∧
      captureIn t i.val = captureIn (confirmIf (fun v => decide (v ≤ now t)) i u) i.val ∧
      Grows (confirmIf (fun v => decide (v ≤ now t)) i u) t := by
  intro t
  obtain ⟨w, ⟨hw, hnow, hgw⟩, ht, -, hgt⟩ := boundary_around
    (R := fun u v => v.evc = u.evc ∧ now v = now u ∧ Grows u v) (fun u => ⟨rfl, rfl, .refl u⟩)
    (fun h k => ⟨k.1.trans h.1, k.2.1.trans h.2.1, h.2.2.trans k.2.2⟩) .evc blocks s
    fun b hb v => ⟨blockBoundary_evc hb v, blockBoundary_now _ b v, blockBoundary_grows (.refl v)⟩
  have hevc : w.evc = s.evc := hw
  have hin (j : Nat) : captureIn w j = captureIn s j := congrArg (fun es : List CaptureIn => es.getD j CaptureIn.reset) hevc
  have htnow : now t = now w := (boundary_now blocks s).trans hnow.symm
  obtain ⟨u, hgu, hu, heq, hgrows⟩ := evcBoundary_input (s := w) (report_step hp hd) i (by rw [hevc]; exact hi)
  rw [htnow]
  refine ⟨u, (ticked_grows s).trans (hgw.trans hgu), by rw [hu, hin], ?_, hgrows.trans hgt⟩
  exact (congrArg (fun es : List CaptureIn => es.getD i.val CaptureIn.reset) ht).trans heq

/-- R167: what the boundary of a step makes of a capture input: its candidate moved, or, where that is then reached, settled and,
of a selected direction, captured unjudged. -/
theorem boundary_captured {p : PostedStep} {blocks : List Block} (hp : s.tbs.posted = some p) (hd : s.tbs.stepDue = true)
    (i : Fin 4) (hi : i.val < s.evc.length) :
    let t := boundary blocks s
    let ci := captureIn s i.val
    (∀ cd, ci.candidate = some cd → moveBy p.delta cd.confirmAt ≤ now t →
      (¬ selects ci.edge cd.rising = true → captureIn t i.val =
        { ci with unjudged := some .step, stepMark := true, settled := cd.rising, candidate := none }) ∧
      (selects ci.edge cd.rising = true →
        captureIn t i.val = { ci with
          settled := cd.rising, candidate := none, unjudged := none, stepMark := false
          latest := some { stamp := moveBy p.delta cd.stamp, rising := cd.rising }
          count := (ci.count + 1) % 65536, unjudgedCount := min (ci.unjudgedCount + 1) 65535 } ∧
        (ci.quiet = false →
          handedOn s t (.capture i cd.rising (moveBy p.delta cd.stamp) none ((ci.count + 1) % 65536) .step none)))) ∧
    ((∀ cd, ci.candidate = some cd → now t < moveBy p.delta cd.confirmAt) → captureIn t i.val = stepCapture p.delta ci) := by
  intro t ci
  obtain ⟨u, hgu, hu, ht, hgt⟩ := boundary_capture (blocks := blocks) hp hd i hi
  refine ⟨fun cd hcd hreached => ?_, fun hearly => ?_⟩
  · have hmoved : (captureIn u i.val).candidate =
        some { cd with stamp := moveBy p.delta cd.stamp, confirmAt := moveBy p.delta cd.confirmAt } := by
      rw [hu]; exact congrArg (Option.map _) hcd
    have hedge : (captureIn u i.val).edge = ci.edge := by rw [hu]; rfl
    have hnow : decide (moveBy p.delta cd.confirmAt ≤ now (boundary blocks s)) = true := decide_eq_true hreached
    refine ⟨fun hno => ?_, fun hyes => ?_⟩
    · rw [ht, confirmIf_reached hmoved hnow, if_neg (by rw [hedge]; exact hno), captureIn_settled hmoved, hu]
      rfl
    · have hjudge : captureJudge u i.val = .inl .step := by rw [captureJudge, hu]; rfl
      obtain ⟨-, hxch, hcount, -⟩ := confirmIf_unjudged_capture
        (reached := fun v => decide (v ≤ now (boundary blocks s))) hmoved hnow (by rw [hedge]; exact hyes) hjudge
      refine ⟨?_, fun hquiet => ?_⟩
      · rw [ht, hcount, hu]; rfl
      · refine hgt.handedOn (hgu.handedOn_before ?_)
        have hcaptured : captureIn u i.val = stepCapture p.delta ci := hu
        have hinterval : captureInterval (stepCapture p.delta ci) (moveBy p.delta cd.stamp) = none := by
          unfold captureInterval
          split <;> rfl
        have hquiet' : (stepCapture p.delta ci).quiet = false := hquiet
        rw [hcaptured, hinterval, hquiet'] at hxch
        rw [handedOn, hxch]
        exact handedOn_stage _ u
  · have hstays := confirmIf_early (s := u) (i := i) (reached := fun v => decide (v ≤ now (boundary blocks s))) (by
      intro cd' hcd'
      rw [hu] at hcd'
      obtain ⟨cd, hcd, rfl⟩ := Option.map_eq_some_iff.1 hcd'
      exact decide_eq_false (Nat.not_le.2 (hearly cd hcd)))
    rw [ht, hstays, hu]

end

/-- Settles O19, block by block: a step's turn of each block, around which the other blocks leave what it moves. -/
theorem stepReachesBlocks : Obligations.StepReachesBlocks := by
  intro s blocks p hp hd move
  have hmove : move = moveBy p.delta := by
    have hmax : (maxSix : Int) = 281474976710655 * 16000000000 + 999999999 * 16 := rfl
    funext v
    rw [moveBy, hmax]
  obtain ⟨hstepTick, hlast⟩ := boundary_stepTick (blocks := blocks) hp hd
  rw [hmove]
  refine ⟨_, exec_boundary (stepDue_atBoundary hd), fun f => ⟨?_, stamp_late hstepTick hlast f⟩, ?_,
    boundary_ranging hp hd, boundary_falls hp hd, fun c hc hv => ?_, fun n hv => ?_, boundary_holdoff hp hd, fun i hi => ?_⟩
  · rw [stamp_early, stampOfUnits_eq]; rfl
  · rw [boundary_rfi hp hd]
    exact congrArg (fun f => ({ s.rfi with
      revertAt := s.rfi.revertAt.map (moveBy p.delta), inputs := mapPair f s.rfi.inputs } : RefIntake))
      (funext fun r => RefIn.move_eq p.delta r)
  · obtain ⟨n, hn, rfl⟩ := List.mem_iff_getElem.1 hc
    have hget : (boundary blocks s).crs.clients[n] = client (boundary blocks s) n := by
      rw [client, List.getD_eq_getElem?_getD, List.getElem?_eq_getElem hn]; rfl
    rw [hget] at hv ⊢
    obtain ⟨-, hlike, -⟩ := boundary_evaluations hp hd (boundary_occupied hv)
    exact ⟨hlike.reverify, hlike.offsetV, hlike.pulseV⟩
  · intro c k stepped owing
    obtain ⟨hstate, -, horders⟩ := boundary_evaluations (blocks := blocks) hp hd hv
    exact ⟨hstate, horders⟩
  · intro ci flagged
    obtain ⟨hreached, hearly⟩ := boundary_captured (blocks := blocks) hp hd i hi
    refine ⟨fun cd hcd hnow => ?_, hearly⟩
    obtain ⟨hno, hyes⟩ := hreached cd hcd hnow
    exact ⟨fun h => hno fun hsel => h ((selects_iff _ _).1 hsel), fun h => hyes ((selects_iff _ _).2 h)⟩

end Sys2Proof.Machine
